-- ==== Sys2Proof/Word.lean ====
section
/-! DEFINITION. The words of the lines and of the configuration: bytes and 16-bit items. -/

namespace Sys2Proof

/-- One byte of a telegram, poll or reply (R168, R170). -/
abbrev Byte := BitVec 8

/-- One 16-bit configuration item, reach mask or input sample (R171, R115, R22). -/
abbrev Word := BitVec 16

end Sys2Proof
end

