-- ==== Sys2Proof/Syntax.lean ====
section
/-! DEFINITION. The commands the part takes: one constructor per row of spec/opcode_table.json.

Every command carries `dt`, the milliseconds that have passed since the command before it was taken
(DESIGN CHOICE, log 1). A station telegram carries its line 1 to 6, its SEQ and its payload bytes
(R168). Where several rows share one KIND (CLEAR, MODE, ACKNOWLEDGE, READ), the row fixes the
payload's first byte and the command carries the bytes after it. -/

namespace Sys2Proof

/-- Levels of the 13 strap pins: class of line `k` in bits `2k-2` and `2k-1`, COMMISSION_ENABLE in
bit 12 (R175, in the order R169 gives them). -/
abbrev Straps := BitVec 13

/-- Why a station frame is abandoned (R157): a gap of more than 10 ms ended by `byte`, a byte
without its stop bit, or a LEN above 48. -/
inductive FrameBreak where
  | gap (byte : Byte)
  | stopBit
  | badLen
  deriving DecidableEq, Repr

/-- The commands. Operands named `order`, `pumpsFirst` and `trimFirst` carry the order among the
hand-offs of that one command, which the spec leaves open (log 11). -/
inductive Instr where
  | announce (dt l : Nat) (seq : Byte) (p : List Byte)
  | idle (dt l : Nat) (seq : Byte) (p : List Byte)
  | unknownKind (dt l : Nat) (seq kind : Byte) (p : List Byte)
  | take (dt l : Nat) (seq : Byte) (p : List Byte)
  | yield (dt l : Nat) (seq : Byte) (p : List Byte)
  | run (dt l : Nat) (seq : Byte) (p : List Byte)
  | hold (dt l : Nat) (seq : Byte) (p : List Byte)
  | halt (dt l : Nat) (seq : Byte) (p : List Byte)
  | clearFault (dt l : Nat) (seq : Byte) (p : List Byte)
  | clearPump (dt l : Nat) (seq : Byte) (p : List Byte)
  | clearEstop (dt l : Nat) (seq : Byte) (p : List Byte)
  | clearCounters (dt l : Nat) (seq : Byte) (p : List Byte)
  | estop (dt l : Nat) (seq : Byte) (p : List Byte)
  | armHarbour (dt l : Nat) (seq : Byte) (p : List Byte)
  | confirmHarbour (dt l : Nat) (seq : Byte) (p : List Byte)
  | modeSea (dt l : Nat) (seq : Byte) (p : List Byte)
  | modeCommission (dt l : Nat) (seq : Byte) (p : List Byte)
  | leaveCommission (dt l : Nat) (seq : Byte) (p : List Byte)
  | acknowledgeOne (dt l : Nat) (seq : Byte) (p : List Byte)
  | acknowledgeAll (dt l : Nat) (seq : Byte) (p : List Byte)
  | readHatch (dt l : Nat) (seq : Byte) (p : List Byte)
  | readCleat (dt l : Nat) (seq : Byte) (p : List Byte)
  | readOperation (dt l : Nat) (seq : Byte) (p : List Byte)
  | readQueue (dt l : Nat) (seq : Byte) (p : List Byte)
  | readPump (dt l : Nat) (seq : Byte) (p : List Byte)
  | readAlarm (dt l : Nat) (seq : Byte) (p : List Byte)
  | readNode (dt l : Nat) (seq : Byte) (p : List Byte)
  | readPoint (dt l : Nat) (seq : Byte) (p : List Byte)
  | readLine (dt l : Nat) (seq : Byte) (p : List Byte)
  | readConfig (dt l : Nat) (seq : Byte) (p : List Byte)
  | readReset (dt l : Nat) (seq : Byte) (p : List Byte)
  | write (dt l : Nat) (seq : Byte) (p : List Byte)
  | store (dt l : Nat) (seq : Byte) (p : List Byte)
  | storeWriteComplete (dt : Nat)
  | crcError (dt l : Nat)
  | framingError (dt l : Nat) (cause : FrameBreak)
  | silenceExpiry (dt l : Nat)
  | reportDue (dt l : Nat)
  | frameSent (dt l : Nat)
  | attitudeTelegram (dt : Nat) (heel trim : Word) (flags crc : Byte) (trimFirst : Bool)
  | attitudeFramingError (dt : Nat)
  | attitudeSilence (dt : Nat) (trimFirst : Bool)
  | scan (dt : Nat)
  | fieldReply (dt turn : Nat) (bytes : List Byte) (order : List Nat) (pumpsFirst : Bool)
  | slotEnd (dt node : Nat) (pumpsFirst : Bool)
  | dwellComplete (dt h cleat : Nat)
  | stepTimeout (dt h : Nat)
  | holdWindowExpiry (dt h : Nat)
  | pressureWatchExpiry (dt h : Nat)
  | claimIdleExpiry (dt h : Nat)
  | feedbackDeadline (dt n : Nat)
  | settleEnd (dt n : Nat)
  | pumpIdleStop (dt : Nat)
  | armExpiry (dt : Nat)
  | estopInActive (dt : Nat)
  | estopInInactive (dt : Nat)
  | powerOn (dt : Nat) (straps : Straps)
  | external (dt : Nat)
  | supplyHold (dt : Nat)
  | supply (dt : Nat) (straps : Straps)
  | resetRelease (dt : Nat) (straps : Straps)
  deriving DecidableEq, Repr

end Sys2Proof
end

