-- ==== Sys2Proof/Config.lean ====
section
/-! DEFINITION. What an implementation fixes: the free values. They have no body, so no proof can
rest on one of them (log 16, log 18). -/

namespace Sys2Proof

/-- A byte of an answer, a record or a REPORT for which the spec states no content (log 16). The
first argument is the counter `State.free`, the second names the byte. -/
opaque Config.unstatedByte : Nat → Nat → BitVec 8

/-- Whether a remaining time that is no whole number of seconds is sent as the next or as the last
whole second (R169 gives the unit and no rounding; log 18). -/
opaque Config.roundsUp : Nat → Nat → Bool

end Sys2Proof
end

