-- ==== Sys2Proof/Machine/State.lean ====
section
/-! DEFINITION. The state of the GH411 as plain data, its fault and refusal reasons, and the state
right after reset. Every piece of state the spec names has one home here (INVENTORY.md). -/

namespace Sys2Proof.Machine

/-! ### Names of states, modes and codes -/

/-- Whether the part processes commands: running, held in reset while RESET_IN is asserted, or in
supply hold (R176). -/
inductive Power where
  | running | inReset | supplyHold
  deriving DecidableEq, Repr

/-- Part mode (R130). -/
inductive PartMode where
  | loading | unconfigured | sea | harbour | commission
  deriving DecidableEq, Repr

/-- Ship mode kept in the retained cell (R130, R177). -/
inductive ShipMode where
  | sea | harbour | commission
  deriving DecidableEq, Repr

/-- Reset source (R176, R177). -/
inductive ResetCause where
  | powerOn | external | supply
  deriving DecidableEq, Repr

/-- Station class of a line (R115, R175). -/
inductive LineClass where
  | none | deck | console | bridge
  deriving DecidableEq, Repr

/-- Link state of a line (R155). -/
inductive Link where
  | off | down | awaiting | active
  deriving DecidableEq, Repr

/-- State of a receive assembler (R157, R102). -/
inductive Assembler where
  | hunting | receiving
  deriving DecidableEq, Repr

/-- Result codes of an answer (R169). -/
inductive Result where
  | done | started | badRequest | badArg | notReady | class | noReach | held | notHeld | busy
  | notRunning | noHoldControl | mode | position | attitude | estop | faulted | notSecured
  | notArmed | lineActive | notConfigured | invalid
  deriving DecidableEq, Repr

/-- Node state (R25). -/
inductive NodeState where
  | absent | online | lost
  deriving DecidableEq, Repr

/-- Roles of the point map (R31). -/
inductive Role where
  | cleatEngaged | cleatReleased | panelClosed | panelOpen | panelLifted | panelLowered
  | panelFolded | hatchPressure | pumpRunning | oilCold | oilWarm | oilHot
  | cleatReleaseValve | cleatEngageValve | liftValve | lowerValve | pumpRun
  | travelOpenValve | travelCloseValve | foldOpenValve | foldCloseValve
  deriving DecidableEq, Repr

/-- Cover type (R2). -/
inductive Cover where
  | roll | fold
  deriving DecidableEq, Repr

/-- Travel state of a panel (R12). -/
inductive Travel where
  | unknown | closed | opened | folded | mid | conflict
  deriving DecidableEq, Repr

/-- Lift state of a panel (R12). -/
inductive Lift where
  | unknown | lifted | lowered | mid | conflict
  deriving DecidableEq, Repr

/-- Last commanded direction of a cleat group (R4). -/
inductive Direction where
  | none | release | engage
  deriving DecidableEq, Repr

/-- Release dwell of a cleat, with its start time while it runs (R5, R8). -/
inductive Dwell where
  | idle
  | running (start : Nat)
  | complete
  deriving DecidableEq, Repr

/-- Cleat state (R5). -/
inductive CleatState where
  | unknown | engaged | released | between | disagree
  deriving DecidableEq, Repr

/-- Position state of a hatch (R2). -/
inductive Position where
  | unknown | secured | seated | raisedClosed | inTravel | raisedOpen | parkedOpen | foldedOpen
  | indeterminate
  deriving DecidableEq, Repr

/-- Pressure classifier of a hatch (R39). `timing none` waits for the first sample after a grant
that found the level already high. -/
inductive Classifier where
  | idle
  | watching
  | timing (first : Option Nat)
  | stalled
  deriving DecidableEq, Repr

/-- Operation kind (R43); `none` when the op state is IDLE. -/
inductive OpKind where
  | none | opening | closing | release | engage
  deriving DecidableEq, Repr

/-- Discipline of an operation (R43). -/
inductive Discipline where
  | hold | auto
  deriving DecidableEq, Repr

/-- Op state (R43). -/
inductive OpState where
  | idle | queued | moving | paused | faulted
  deriving DecidableEq, Repr

/-- Halt reason (R43). -/
inductive HaltReason where
  | halted | holdLapsed | stall | attitude | noFlow | nodeLost | fault
  deriving DecidableEq, Repr

/-- Fault kind (R43). -/
inductive FaultKind where
  | timeout | jammed | pressureStuck | disagree
  deriving DecidableEq, Repr

/-- One step of a program (R45). -/
inductive Step where
  | releaseGroup (g : Nat)
  | engageGroup (g : Nat)
  | lift | lower | travelOpen | travelClose | foldOpen | foldClose
  deriving DecidableEq, Repr

/-- Pump state (R91). -/
inductive PumpState where
  | off | starting | running | failed
  deriving DecidableEq, Repr

/-- Oil temperature band (R74). -/
inductive Band where
  | cold | normal | warm | hot
  deriving DecidableEq, Repr

/-- Alarm codes (section 8.5, R169). -/
inductive AlarmCode where
  | hatchUnsecuredAtSea | stall | jammed | pressureStuck | timeout | sensorDisagree
  | sensorChatter | nodeLost | pumpFailed | oilHot | attitudeInvalid | stationLost
  | classMismatch | estopActive | configInvalid | supplyDip
  deriving DecidableEq, Repr

/-- Alarm subject: its kind and, where the kind has one, its number (R145). -/
inductive Subject where
  | hatch (n : Nat)
  | node (n : Nat)
  | pump (n : Nat)
  | powerPack
  | attitude
  | line (n : Nat)
  | part
  deriving DecidableEq, Repr

/-- State of an alarm record (R145). -/
inductive AlarmState where
  | raisedUnack | raisedAck | clearedUnack
  deriving DecidableEq, Repr

/-! ### Records -/

/-- The configuration items that differ from their default, by key `code * 256 + index`, keys
rising (R171). -/
abbrev Items := List (Nat × Word)

/-- The stored image (R171, R174): a whole image, or one whose CRC-16 fails, as a partly written
one does (log 20). -/
inductive Image where
  | whole (items : Items)
  | bad
  deriving DecidableEq, Repr

/-- The retained cell (R177). `ranMs` counts the running time in ms. -/
structure Retained where
  mode : ShipMode
  cause : ResetCause
  externals : Nat
  supplies : Nat
  ranMs : Nat
  deriving DecidableEq, Repr

/-- The harbour arm (R134). -/
structure Arm where
  line : Nat
  expiry : Nat
  deriving DecidableEq, Repr

/-- The running scan (R23): `place` is the node whose slot is running, counted from 0 in ascending
address order, `replied` whether its turn has ended with a reply. `poll` is the last poll sent. -/
structure Scan where
  no : Nat
  due : Nat
  place : Option Nat
  replied : Bool
  firstOver : Bool
  poll : List Byte
  deriving DecidableEq, Repr

/-- Node record with its slice of the output image (R22, R30). -/
structure Node where
  addr : Nat
  kinds : Byte
  st : NodeState
  misses : Nat
  goods : Nat
  sample : Option Word
  outs : List Nat
  deriving DecidableEq, Repr

/-- A binding and its point record (R31, section 2.4.2). For HATCH_PRESSURE `qual` is the level. -/
structure Point where
  role : Role
  subject : Nat
  index : Nat
  node : Nat
  point : Nat
  inverted : Bool
  qual : Option Bool
  pend : Option (Bool × Nat)
  chatter : Nat
  stale : Bool
  deriving DecidableEq, Repr

/-- Cleat record (R5). -/
structure Cleat where
  num : Nat
  group : Nat
  hasReleased : Bool
  dwell : Dwell
  st : CleatState
  deriving DecidableEq, Repr

/-- Cleat group record (R4). -/
structure Group where
  num : Nat
  dir : Direction
  deriving DecidableEq, Repr

/-- Panel record (R3). -/
structure Panel where
  travel : Travel
  lift : Lift
  deriving DecidableEq, Repr

/-- Hatch record (R2) with the pressure classifier of the hatch (R39). -/
structure Hatch where
  num : Nat
  cover : Cover
  groups : List Group
  cleats : List Cleat
  panel1 : Panel
  panel2 : Panel
  engaged : Nat
  position : Position
  stale : Bool
  disagree : Bool
  heavy : Nat
  completed : Nat
  classifier : Classifier
  deriving DecidableEq, Repr

/-- Operation record (R43). `hold` is the expiry of a running hold window, `watch` the start of a
running pressure watch. -/
structure Op where
  hatch : Nat
  kind : OpKind
  disc : Option Discipline
  prog : List Step
  st : OpState
  stalls : Nat
  start : Option Nat
  halt : Option HaltReason
  fault : Option FaultKind
  hold : Option Nat
  watch : Option Nat
  deriving DecidableEq, Repr

/-- Holder table entry (R118). `idle` is the start of a running claim idle timer. -/
structure Claim where
  hatch : Nat
  holder : Option Nat
  idle : Option Nat
  deriving DecidableEq, Repr

/-- Grant queue entry (R79). -/
structure Entry where
  hatch : Nat
  step : Step
  closing : Bool
  time : Nat
  demand : Option Nat
  blocked : Bool
  deriving DecidableEq, Repr

/-- Granted record (R81). -/
structure Grant where
  hatch : Nat
  step : Step
  closing : Bool
  time : Nat
  q : Nat
  demand : Nat
  speed : Nat
  setpoint : Nat
  clamped : Bool
  deriving DecidableEq, Repr

/-- Pump record (R91). -/
structure Pump where
  num : Nat
  flow : Nat
  st : PumpState
  deadline : Option Nat
  settle : Option Nat
  deriving DecidableEq, Repr

/-- Attitude Unit (R102 to R109). A permit exists exactly while its fraction is present. -/
structure Attitude where
  window : List (Int × Int)
  heel : Option Nat
  trim : Option Nat
  silence : Option Nat
  rx : Assembler
  accepted : Nat
  framing : Nat
  crc : Nat
  invalid : Nat
  clamped : Nat
  deriving DecidableEq, Repr

/-- Alarm record (R145). -/
structure Alarm where
  code : AlarmCode
  subject : Subject
  time : Nat
  st : AlarmState
  deriving DecidableEq, Repr

/-- Alarm List (R145). -/
structure AlarmList where
  recs : List Alarm
  overflow : Bool
  deriving DecidableEq, Repr

/-- A queued answer (R161). `result` is `none` while a STORE answer is held (R174). -/
structure Answer where
  seq : Byte
  kind : Byte
  result : Option Result
  args : List Byte
  deriving DecidableEq, Repr

/-- A frame the part transmits (R168). -/
structure Frame where
  kind : Byte
  seq : Byte
  payload : List Byte
  deriving DecidableEq, Repr

/-- Line record (R155) with the authority record of the line (R115). -/
structure Line where
  num : Nat
  cls : LineClass
  link : Link
  rx : Assembler
  silence : Option Nat
  queue : List Answer
  reportAt : Option Nat
  reportIsDue : Bool
  tx : Option Frame
  good : Nat
  crcErrs : Nat
  framingErrs : Nat
  overruns : Nat
  refusals : Nat
  annReach : Option Word
  holdAbility : Option Bool
  estopAbility : Option Bool
  reach : Word
  deriving DecidableEq, Repr

/-- The whole part. -/
structure State where
  pending : List Instr
  now : Nat
  power : Power
  estopIn : Bool
  resetIn : Bool
  straps : Straps
  started : Bool
  retained : Retained
  working : Items
  inForce : Option Items
  image : Image
  storing : Option Items
  mode : PartMode
  arm : Option Arm
  latch : Bool
  scan : Scan
  nodes : List Node
  points : List Point
  hatches : List Hatch
  ops : List Op
  claims : List Claim
  queue : List Entry
  granted : List Grant
  pumps : List Pump
  band : Band
  budget : Nat
  maxB : Nat
  pumpIdle : Option Nat
  att : Attitude
  alarms : AlarmList
  lines : List Line
  free : Nat
  deriving DecidableEq, Repr

/-- Why the machine stops. -/
inductive Fault where
  /-- Raised by a command that names a station line other than 1 to 6 (R155 gives six lines). Safe:
  no such line exists, so the hardware never takes such a command (log 32). -/
  | noSuchLine
  deriving DecidableEq, Repr

/-- Why a command is refused. -/
inductive Refusal where
  /-- Raised by `exec` for a command without a meaning yet; no arm uses it. Safe. -/
  | notModelled (mnemonic : String)
  deriving DecidableEq, Repr

/-! ### Reset -/

/-- Scan state while no scan runs and no node records are present (R23, R41). -/
def Scan.stopped : Scan :=
  ⟨0, 0, .none, false, false, []⟩

/-- Attitude Unit at reset release (R114). -/
def Attitude.reset : Attitude :=
  ⟨[], .none, .none, some 0, .hunting, 0, 0, 0, 0, 0⟩

/-- The class that two strap bits give (R175). -/
def LineClass.ofStraps (straps : Straps) (l : Nat) : LineClass :=
  match (straps >>> (2 * (l - 1))).toNat % 4 with
  | 0 => .none
  | 1 => .deck
  | 2 => .console
  | _ => .bridge

/-- Line record after a reset (R167, R129). R167 gives the transmitter no value: that a frame in
transmission is dropped at the reset is the model's choice (DESIGN CHOICE, log 47). -/
def Line.reset (straps : Straps) (l : Nat) : Line :=
  let c := LineClass.ofStraps straps l
  ⟨l, c, if c = .none then .off else .down, .hunting, .none, [], .none, false, .none,
    0, 0, 0, 0, 0, .none, .none, .none, 0⟩

/-- The retained cell after a POWER_ON reset (R177). -/
def Retained.powerOn : Retained :=
  ⟨.sea, .powerOn, 0, 0, 0⟩

/-- The part right after a POWER_ON reset, before start-up has read the stored image (R21, R41, R73,
R101, R114, R129, R139, R143, R154, R167, R177, R178). Pins inactive, straps 0, a stored image whose
CRC fails, band NORMAL and a stopped pump idle timer are the model's own choice (DESIGN CHOICE,
log 5). -/
def State.reset : State where
  pending := []
  now := 0
  power := .running
  estopIn := false
  resetIn := false
  straps := 0
  started := false
  retained := Retained.powerOn
  working := []
  inForce := .none
  image := .bad
  storing := .none
  mode := .loading
  arm := .none
  latch := false
  scan := Scan.stopped
  nodes := []
  points := []
  hatches := []
  ops := []
  claims := []
  queue := []
  granted := []
  pumps := []
  band := .normal
  budget := 0
  maxB := 0
  pumpIdle := .none
  att := Attitude.reset
  alarms := ⟨[], false⟩
  lines := [Line.reset 0 1, Line.reset 0 2, Line.reset 0 3, Line.reset 0 4, Line.reset 0 5,
    Line.reset 0 6]
  free := 0

end Sys2Proof.Machine
end

