-- ==== Sys2Proof/Machine/Items.lean ====
section
/-! DEFINITION. The configuration as a table of 16-bit items: keys, defaults, ranges, reading and
writing one item (R171). The fields of a cleat entry, a node item and a binding are taken apart
here, once. -/

namespace Sys2Proof.Machine

/-- Key of an item: the item code and the index of the WRITE request (R171, R168). -/
def itemKey (code idx : Nat) : Nat := code * 256 + idx

/-- Default value of an item (R171). -/
def itemDefault (code idx : Nat) : Word :=
  match code with
  | 1 => 1
  | 3 => 1
  | 4 => 1
  | 5 => 60
  | 6 => match idx % 4 with
    | 1 => 20
    | 2 => 30
    | 3 => 150
    | _ => 90
  | 9 => 1
  | 10 => 150
  | 12 => 20
  | 13 => 50
  | 14 => 40
  | 15 => 10
  | 16 => 30
  | 17 => 50
  | 18 => match idx with
    | 1 => 60
    | 2 => 100
    | _ => 40
  | 19 => 10
  | _ => 0

/-- First index of an item and the number of its indexes; `none` for an unknown code (R171). -/
def itemIndexes (code : Nat) : Option (Nat × Nat) :=
  if 32 ≤ code ∧ code ≤ 55 then some (1, 48) else
  match code with
  | 1 => some (0, 1)
  | 2 => some (1, 11)
  | 3 => some (1, 11)
  | 4 => some (1, 11)
  | 5 => some (1, 88)
  | 6 => some (1, 44)
  | 7 => some (1, 160)
  | 8 => some (1, 48)
  | 9 => some (0, 1)
  | 10 => some (1, 3)
  | 11 => some (0, 1)
  | 12 => some (0, 1)
  | 13 => some (0, 1)
  | 14 => some (0, 1)
  | 15 => some (0, 1)
  | 16 => some (0, 1)
  | 17 => some (0, 1)
  | 18 => some (1, 3)
  | 19 => some (0, 1)
  | 20 => some (1, 6)
  | _ => none

/-- The item codes that exist, ascending (R171). -/
def itemCodes : List Nat := (List.range 56).filter fun c => (itemIndexes c).isSome

/-- The index lies in the item's index range (R171, R173). -/
def indexOk (code idx : Nat) : Bool :=
  match itemIndexes code with
  | none => false
  | some (lo, n) => lo ≤ idx && idx < lo + n

/-- Bits `lo` to `lo + n - 1` of an item, as a number. -/
def bits (v : Word) (lo n : Nat) : Nat := v.toNat / 2 ^ lo % 2 ^ n

/-- The value lies in the item's range at WRITE (R171). -/
def valueOk (code : Nat) (v : Word) : Bool :=
  let n := v.toNat
  if 32 ≤ code ∧ code ≤ 55 then
    n == 0 || (bits v 15 1 == 0 && 1 ≤ bits v 0 5 && bits v 0 5 ≤ 21 && bits v 5 4 ≤ 11 &&
      bits v 9 5 ≤ 24)
  else
  match code with
  | 1 => 1 ≤ n && n ≤ 11
  | 2 => n ≤ 1
  | 3 => 1 ≤ n && n ≤ 4
  | 4 => n ≤ 1
  | 5 => 1 ≤ n && n ≤ 400
  | 6 => 1 ≤ n && n ≤ 600
  | 7 => n == 0 || (bits v 7 1 == 0 && bits v 12 4 == 0 && 1 ≤ bits v 8 4 && bits v 8 4 ≤ 11 &&
      1 ≤ bits v 0 5 && bits v 0 5 ≤ 24)
  | 8 => n == 0 || (bits v 15 1 == 1 && bits v 8 7 == 0)
  | 9 => 1 ≤ n && n ≤ 3
  | 10 => 1 ≤ n && n ≤ 400
  | 11 => n ≤ 200
  | 12 => n ≤ 299
  | 13 => 10 ≤ n && n ≤ 300
  | 14 => 25 ≤ n && n ≤ 100
  | 15 => n ≤ 299
  | 16 => 10 ≤ n && n ≤ 300
  | 17 => 25 ≤ n && n ≤ 100
  | 18 => 20 ≤ n && n ≤ 500 && n % 20 == 0
  | 19 => n ≤ 63
  | 20 => bits v 11 5 == 0
  | _ => false

/-- Value of an item. -/
def getItem (c : Items) (code idx : Nat) : Word :=
  match c.find? fun e => e.1 == itemKey code idx with
  | some e => e.2
  | none => itemDefault code idx

/-- Value of an item as a number. -/
def itemNat (c : Items) (code idx : Nat) : Nat := (getItem c code idx).toNat

/-- Put key `k` at value `v` into a list with rising keys; `keep` is false when `v` is the default,
so that the entry is taken out. -/
def putItem (k : Nat) (v : Word) (keep : Bool) : Items → Items
  | [] => if keep then [(k, v)] else []
  | e :: rest =>
    if k < e.1 then (if keep then (k, v) :: e :: rest else e :: rest)
    else if k = e.1 then (if keep then (k, v) :: rest else rest)
    else e :: putItem k v keep rest

/-- Write one item, keeping the canonical form (R173). -/
def setItem (c : Items) (code idx : Nat) (v : Word) : Items :=
  putItem (itemKey code idx) v (v != itemDefault code idx) c

/-- Keys rise from `lo` on, and no entry equals its default. -/
def itemsFrom (lo : Nat) : Items → Bool
  | [] => true
  | e :: rest =>
    lo ≤ e.1 && e.2 != itemDefault (e.1 / 256) (e.1 % 256) && itemsFrom (e.1 + 1) rest

/-- The canonical form of a configuration: keys strictly rising and no entry equal to its default,
so that equal configurations are equal data. -/
def itemsWf (c : Items) : Bool := itemsFrom 0 c

/-! ### Named items (R171) -/

def cfgHatches (c : Items) : Nat := itemNat c 1 0
def cfgCover (c : Items) (h : Nat) : Cover := if itemNat c 2 h = 1 then .fold else .roll
def cfgGroups (c : Items) (h : Nat) : Nat := itemNat c 3 h
def cfgSpikeReject (c : Items) (h : Nat) : Bool := itemNat c 4 h == 1
def cfgPumps (c : Items) : Nat := itemNat c 9 0
def cfgPumpFlow (c : Items) (n : Nat) : Nat := itemNat c 10 n
def cfgReserve (c : Items) : Nat := itemNat c 11 0
def cfgReach (c : Items) (l : Nat) : Word := getItem c 20 l

/-- Claim idle limit in ms; a limit of 0 acts as 1 minute (R71, R172). -/
def cfgClaimMs (c : Items) : Nat :=
  (if itemNat c 19 0 = 0 then 1 else itemNat c 19 0) * 60000

/-- Value of the step kind in the wire formats and in the index of the rated flow (R169, R171). -/
def Step.code : Step → Nat
  | .releaseGroup _ => 1
  | .engageGroup _ => 2
  | .lift => 3
  | .lower => 4
  | .travelOpen => 5
  | .travelClose => 6
  | .foldOpen => 7
  | .foldClose => 8

/-- Rated flow Q_step of a step kind on a hatch (R76). -/
def cfgFlow (c : Items) (h : Nat) (st : Step) : Nat := itemNat c 5 ((h - 1) * 8 + st.code)

/-- Which timeout item limits a step (R45): 1 cleat, 2 jack, 3 travel, 4 fold. -/
def Step.timeoutItem : Step → Nat
  | .releaseGroup _ => 1
  | .engageGroup _ => 1
  | .lift => 2
  | .lower => 2
  | .travelOpen => 3
  | .travelClose => 3
  | .foldOpen => 4
  | .foldClose => 4

/-- Step timeout in ms (R45, R59). -/
def cfgTimeoutMs (c : Items) (h : Nat) (st : Step) : Nat :=
  itemNat c 6 ((h - 1) * 4 + st.timeoutItem) * 1000

/-- Role of a binding's code (R169). -/
def Role.ofCode : Nat → Option Role
  | 1 => some .cleatEngaged
  | 2 => some .cleatReleased
  | 3 => some .panelClosed
  | 4 => some .panelOpen
  | 5 => some .panelLifted
  | 6 => some .panelLowered
  | 7 => some .panelFolded
  | 8 => some .hatchPressure
  | 9 => some .pumpRunning
  | 10 => some .oilCold
  | 11 => some .oilWarm
  | 12 => some .oilHot
  | 13 => some .cleatReleaseValve
  | 14 => some .cleatEngageValve
  | 15 => some .liftValve
  | 16 => some .lowerValve
  | 17 => some .pumpRun
  | 18 => some .travelOpenValve
  | 19 => some .travelCloseValve
  | 20 => some .foldOpenValve
  | 21 => some .foldCloseValve
  | _ => none

/-- Code of a role (R169). -/
def Role.code : Role → Nat
  | .cleatEngaged => 1
  | .cleatReleased => 2
  | .panelClosed => 3
  | .panelOpen => 4
  | .panelLifted => 5
  | .panelLowered => 6
  | .panelFolded => 7
  | .hatchPressure => 8
  | .pumpRunning => 9
  | .oilCold => 10
  | .oilWarm => 11
  | .oilHot => 12
  | .cleatReleaseValve => 13
  | .cleatEngageValve => 14
  | .liftValve => 15
  | .lowerValve => 16
  | .pumpRun => 17
  | .travelOpenValve => 18
  | .travelCloseValve => 19
  | .foldOpenValve => 20
  | .foldCloseValve => 21

/-- Input roles are bound to input points, the others to output points (R31). -/
def Role.isInput (r : Role) : Bool := r.code ≤ 12

/-- Proportional output roles (R31). -/
def Role.isProportional (r : Role) : Bool := 18 ≤ r.code

/-- Panel input roles (R31, R32). -/
def Role.isPanelInput (r : Role) : Bool := 3 ≤ r.code && r.code ≤ 7

/-- Cleat input roles (R31, R32). -/
def Role.isCleatInput (r : Role) : Bool := r.code ≤ 2

/-- Thermostat roles (R31). -/
def Role.isThermostat (r : Role) : Bool := 10 ≤ r.code && r.code ≤ 12

/-- Roles whose subject is a hatch (R31). -/
def Role.isHatch (r : Role) : Bool := r.code ≤ 8 || (13 ≤ r.code && r.code ≤ 16) || 18 ≤ r.code

/-- The binding that a nonzero binding item spells for point code `code` of node `node`. Bit 14 of an
output binding is kept as its polarity, which READ POINT sends and nothing else uses (DESIGN CHOICE,
log 44). -/
def bindingOf (code node : Nat) (v : Word) : Option Point :=
  match Role.ofCode (bits v 0 5) with
  | none => none
  | some r =>
    some ⟨r, bits v 5 4, bits v 9 5, node, if code < 48 then code - 32 else code - 48,
      bits v 14 1 == 1, none, none, 0, true⟩

/-- Addresses of the configured nodes, ascending (R22). -/
def cfgNodes (c : Items) : List Nat :=
  ((List.range 49).drop 1).filter fun a => bits (getItem c 8 a) 15 1 == 1

/-- The point map in configuration order: ascending node address, input points first (R171). -/
def cfgPoints (c : Items) : List Point :=
  (cfgNodes c).flatMap fun a =>
    (List.range 24).filterMap fun k =>
      let v := getItem c (32 + k) a
      if v = 0 then none else bindingOf (32 + k) a v

/-- Non-empty cleat entries as (hatch, group, cleat number), by slot (R171). -/
def cfgCleats (c : Items) : List (Nat × Nat × Nat) :=
  c.filterMap fun e =>
    if e.1 / 256 = 7 then some (bits e.2 8 4, bits e.2 5 2 + 1, bits e.2 0 5) else none

/-- Qualification count N of a role (R32). -/
def cfgScans (c : Items) (r : Role) : Nat :=
  let ms := itemNat c 18 (if r.isPanelInput then 1 else if r.isCleatInput then 2 else 3)
  (ms + 19) / 20

end Sys2Proof.Machine
end

