-- ==== Sys2Proof/Machine/Ops.lean ====
section
/-! DEFINITION. The named operations over the records of the state: finding and updating a record,
the passage of time, the output image, the claim idle timers, the grant queue and granted set, and
the alarm list. -/

namespace Sys2Proof.Machine

/-! ### Counters and timers -/

/-- A saturating count after one more event (section 2.2 of 00_scope.md). -/
def satInc (max n : Nat) : Nat := min (n + 1) max

/-- The 16-bit saturating count after one more event. -/
def inc16 (n : Nat) : Nat := satInc 65535 n

/-- A timer that began at `start` has run for `len` ms; a stopped timer never has. -/
def elapsed (start : Option Nat) (len now : Nat) : Bool :=
  match start with
  | none => false
  | some t => t + len ≤ now

/-- The time `limit` has been reached; an absent limit never is. -/
def reached (limit : Option Nat) (now : Nat) : Bool :=
  match limit with
  | none => false
  | some t => t ≤ now

/-- Running time in whole seconds (R177). -/
def State.runningTime (s : State) : Nat := min (s.retained.ranMs / 1000) 4294967295

/-! ### Finding and updating records -/

/-- Update the records of a list whose key is `n`. -/
def updateKey {α : Type} (key : α → Nat) (n : Nat) (f : α → α) (l : List α) : List α :=
  l.map fun x => if key x == n then f x else x

/-- The first record of a list whose key is `n`. -/
def findKey {α : Type} (key : α → Nat) (n : Nat) (l : List α) : Option α :=
  l.find? fun x => key x == n

def State.hatch? (s : State) (h : Nat) : Option Hatch := findKey Hatch.num h s.hatches
def State.op? (s : State) (h : Nat) : Option Op := findKey Op.hatch h s.ops
def State.claim? (s : State) (h : Nat) : Option Claim := findKey Claim.hatch h s.claims
def State.line? (s : State) (l : Nat) : Option Line := findKey Line.num l s.lines
def State.node? (s : State) (a : Nat) : Option Node := findKey Node.addr a s.nodes
def State.pump? (s : State) (n : Nat) : Option Pump := findKey Pump.num n s.pumps
def State.entry? (s : State) (h : Nat) : Option Entry := findKey Entry.hatch h s.queue
def State.grant? (s : State) (h : Nat) : Option Grant := findKey Grant.hatch h s.granted

def State.updHatch (s : State) (h : Nat) (f : Hatch → Hatch) : State :=
  { s with hatches := updateKey Hatch.num h f s.hatches }
def State.updOp (s : State) (h : Nat) (f : Op → Op) : State :=
  { s with ops := updateKey Op.hatch h f s.ops }
def State.updClaim (s : State) (h : Nat) (f : Claim → Claim) : State :=
  { s with claims := updateKey Claim.hatch h f s.claims }
def State.updLine (s : State) (l : Nat) (f : Line → Line) : State :=
  { s with lines := updateKey Line.num l f s.lines }
def State.updNode (s : State) (a : Nat) (f : Node → Node) : State :=
  { s with nodes := updateKey Node.addr a f s.nodes }
def State.updPump (s : State) (n : Nat) (f : Pump → Pump) : State :=
  { s with pumps := updateKey Pump.num n f s.pumps }
def State.updGrant (s : State) (h : Nat) (f : Grant → Grant) : State :=
  { s with granted := updateKey Grant.hatch h f s.granted }

/-- Op state of a hatch; IDLE where there is no record. -/
def State.opState (s : State) (h : Nat) : OpState :=
  match s.op? h with
  | some o => o.st
  | none => .idle

/-- The operation of a hatch is QUEUED or MOVING. -/
def State.busy (s : State) (h : Nat) : Bool := s.opState h == .queued || s.opState h == .moving

/-! ### Points and the output image -/

/-- The binding of a role (R31). -/
def State.point? (s : State) (r : Role) (subj idx : Nat) : Option Point :=
  s.points.find? fun p => p.role == r && p.subject == subj && p.index == idx

/-- The binding of a pump role: one per pump (log 22). -/
def State.pumpPoint? (s : State) (r : Role) (n : Nat) : Option Point :=
  s.points.find? fun p => p.role == r && p.subject == n

/-- The node of a point is ONLINE. -/
def State.nodeOnline (s : State) (a : Nat) : Bool :=
  match s.node? a with
  | some n => n.st == .online
  | none => false

/-- Write one setpoint of the output image (R30). -/
def State.setOut (s : State) (a point v : Nat) : State :=
  s.updNode a fun n => { n with outs := n.outs.set point v }

/-- Write the setpoint of a bound output role. -/
def State.drive (s : State) (r : Role) (subj idx v : Nat) : State :=
  match s.point? r subj idx with
  | some p => s.setOut p.node p.point v
  | none => s

/-- The present setpoint of a point. -/
def State.outAt (s : State) (a point : Nat) : Nat :=
  match s.node? a with
  | some n => (n.outs[point]?).getD 0
  | none => 0

/-- Write a pump's PUMP_RUN setpoint (R91). -/
def State.drivePump (s : State) (n v : Nat) : State :=
  match s.pumpPoint? .pumpRun n with
  | some p => s.setOut p.node p.point v
  | none => s

/-! ### Claims (R71, R118) -/

/-- The holder of a hatch (R117). -/
def State.holder? (s : State) (h : Nat) : Option Nat :=
  match s.claim? h with
  | some c => c.holder
  | none => none

/-- The claim idle timer of a held hatch begins to run from zero (R71). -/
def State.claimRun (s : State) (h : Nat) : State :=
  s.updClaim h fun c => if c.holder.isSome then { c with idle := some s.now } else c

/-- The claim idle timer stops (R71). -/
def State.claimStop (s : State) (h : Nat) : State :=
  s.updClaim h fun c => { c with idle := none }

/-- The holder becomes none and the timer is discarded (R118). -/
def State.claimFree (s : State) (h : Nat) : State :=
  s.updClaim h fun c => { c with holder := none, idle := none }

/-- The line becomes the holder; its timer runs from zero unless the operation is QUEUED or MOVING
(R120, R121). -/
def State.claimGrant (s : State) (h l : Nat) : State :=
  s.updClaim h fun c =>
    { c with holder := some l, idle := if s.busy h then none else some s.now }

/-- A TAKE, RUN, HOLD or HALT of a hatch from its holder restarts the timer while the op state is
IDLE, PAUSED or FAULTED (R71). -/
def State.claimTouch (s : State) (h l : Nat) : State :=
  if s.holder? h = some l ∧ s.busy h = false then s.claimRun h else s

/-- The hatches a line holds (R115). -/
def State.heldBy (s : State) (l : Nat) : List Nat :=
  (s.claims.filter fun c => c.holder == some l).map Claim.hatch

/-! ### Grant queue and granted set (R79 to R81, R97) -/

/-- Sum of the granted demands. -/
def grantedSum (gs : List Grant) : Nat := (gs.map Grant.demand).sum

/-- Free flow F (R81). -/
def State.freeFlow (s : State) : Nat := s.budget - grantedSum s.granted

/-- Queue order (R79): class, then entry time, then hatch number. -/
def Entry.before (a b : Entry) : Bool :=
  if a.closing == b.closing then
    decide (a.time < b.time) || (a.time == b.time && decide (a.hatch < b.hatch))
  else a.closing

/-- Insert an entry at its place in queue order. -/
def insertEntry (e : Entry) : List Entry → List Entry
  | [] => [e]
  | x :: rest => if e.before x then e :: x :: rest else x :: insertEntry e rest

/-- The present time as an entry time: a 48-bit count of ms since reset release (R79). That the count
wraps at its end is the model's choice (DESIGN CHOICE, log 42). -/
def State.entryTime (s : State) : Nat := s.now % 281474976710656

/-- An entry joins the grant queue; the pump idle timer stops (R80, R97). -/
def State.joinQueue (s : State) (e : Entry) : State :=
  { s with queue := insertEntry e s.queue, pumpIdle := none }

/-- The pump idle timer begins from zero when queue and granted set are both empty (R97). -/
def State.noteEmpty (s : State) : State :=
  if s.queue.isEmpty && s.granted.isEmpty then { s with pumpIdle := some s.now } else s

/-- The entry of a hatch leaves the queue (R80). -/
def State.dropEntry (s : State) (h : Nat) : State :=
  if (s.entry? h).isSome then
    State.noteEmpty { s with queue := s.queue.filter fun e => e.hatch != h }
  else s

/-- The grant of a hatch leaves the granted set (R81). -/
def State.dropGrant (s : State) (h : Nat) : State :=
  if (s.grant? h).isSome then
    State.noteEmpty { s with granted := s.granted.filter fun g => g.hatch != h }
  else s

/-! ### Alarm List (R145 to R147, R151) -/

/-- The record is the one of this code and subject (R145). -/
def Alarm.isOf (a : Alarm) (c : AlarmCode) (sub : Subject) : Bool :=
  a.code == c && a.subject == sub

/-- The record of a code and subject. -/
def AlarmList.find (al : AlarmList) (c : AlarmCode) (sub : Subject) : Option Alarm :=
  al.recs.find? fun a => a.isOf c sub

/-- Update the record of a code and subject in its place. -/
def AlarmList.update (al : AlarmList) (c : AlarmCode) (sub : Subject) (f : Alarm → Alarm) :
    AlarmList :=
  { al with recs := al.recs.map fun a => if a.isOf c sub then f a else a }

/-- Remove the record of a code and subject; the first removal clears the overflow indicator
(R151). -/
def AlarmList.remove (al : AlarmList) (c : AlarmCode) (sub : Subject) : AlarmList :=
  { recs := al.recs.filter fun a => !(a.isOf c sub), overflow := false }

/-- Raise a condition (R146). -/
def AlarmList.raise (al : AlarmList) (c : AlarmCode) (sub : Subject) (time : Nat) : AlarmList :=
  match al.find c sub with
  | none =>
    if al.recs.length < 48 then { al with recs := al.recs ++ [⟨c, sub, time, .raisedUnack⟩] }
    else { al with overflow := true }
  | some a =>
    match a.st with
    | .clearedUnack => al.update c sub fun x => { x with st := .raisedUnack, time := time }
    | .raisedUnack => al
    | .raisedAck => al

/-- Clear a condition (R147). -/
def AlarmList.clear (al : AlarmList) (c : AlarmCode) (sub : Subject) : AlarmList :=
  match al.find c sub with
  | none => al
  | some a =>
    match a.st with
    | .raisedUnack => al.update c sub fun x => { x with st := .clearedUnack }
    | .raisedAck => al.remove c sub
    | .clearedUnack => al

/-- Clear every record of a code (section 8.5: at builds and in UNCONFIGURED). -/
def AlarmList.clearAll (al : AlarmList) (c : AlarmCode) : AlarmList :=
  (al.recs.filter fun a => a.code == c).foldl (fun x a => x.clear c a.subject) al

def State.raiseAlarm (s : State) (c : AlarmCode) (sub : Subject) : State :=
  { s with alarms := s.alarms.raise c sub s.runningTime }

def State.clearAlarm (s : State) (c : AlarmCode) (sub : Subject) : State :=
  { s with alarms := s.alarms.clear c sub }

def State.clearAlarms (s : State) (cs : List AlarmCode) : State :=
  { s with alarms := cs.foldl AlarmList.clearAll s.alarms }

/-- Raise the condition when `b`, else clear it. -/
def State.setAlarm (s : State) (b : Bool) (c : AlarmCode) (sub : Subject) : State :=
  if b then s.raiseAlarm c sub else s.clearAlarm c sub

end Sys2Proof.Machine
end

