-- ==== Sys2Proof/Machine/Flags.lean ====
section
/-! DEFINITION. The derived states: cleats, dwells, groups, panels, positions and stale flags
(chapter 1), the temperature band, budget, demand and clamp (chapter 4), and the peaks, permits and
speed fractions (chapter 5). -/

namespace Sys2Proof.Machine

/-! ### Cleats and groups (R6 to R10) -/

/-- Qualified value of a bound input; `none` while it has not qualified. -/
def State.qual (s : State) (r : Role) (subj idx : Nat) : Option Bool :=
  match s.point? r subj idx with
  | some p => p.qual
  | none => none

/-- Stale flag of a bound input; an unbound one counts as stale. -/
def State.staleAt (s : State) (r : Role) (subj idx : Nat) : Bool :=
  match s.point? r subj idx with
  | some p => p.stale
  | none => true

/-- State of a cleat with a released sensor (R6). -/
def cleatTwoSensors (eng rel : Option Bool) : CleatState :=
  match eng, rel with
  | some true, some false => .engaged
  | some false, some true => .released
  | some false, some false => .between
  | some true, some true => .disagree
  | _, _ => .unknown

/-- Dwell of a cleat without a released sensor, from its engaged sensor, that point's stale flag and
the group's direction (R8, R9). -/
def nextDwell (now : Nat) (dir : Direction) (eng : Option Bool) (stale : Bool) (d : Dwell) :
    Dwell :=
  if eng = some false ∧ dir = .release then
    match d with
    | .idle => if stale then .idle else .running now
    | .running t => if stale then .idle else .running t
    | .complete => .complete
  else .idle

/-- State of a cleat without a released sensor (R7). -/
def cleatOneSensor (eng : Option Bool) (d : Dwell) : CleatState :=
  match eng with
  | none => .unknown
  | some true => .engaged
  | some false => if d = .complete then .released else .between

/-- Direction of a group of a hatch (R4). -/
def Hatch.dirOf (hr : Hatch) (g : Nat) : Direction :=
  match findKey Group.num g hr.groups with
  | some x => x.dir
  | none => .none

/-- Bring a cleat record up to date (R6 to R9). -/
def State.deriveCleat (s : State) (hr : Hatch) (c : Cleat) : Cleat :=
  let eng := s.qual .cleatEngaged hr.num c.num
  if c.hasReleased then
    { c with dwell := .idle, st := cleatTwoSensors eng (s.qual .cleatReleased hr.num c.num) }
  else
    let d := nextDwell s.now (hr.dirOf c.group) eng (s.staleAt .cleatEngaged hr.num c.num) c.dwell
    { c with dwell := d, st := cleatOneSensor eng d }

/-- Members of a group, in ascending cleat number (R4). -/
def Hatch.members (hr : Hatch) (g : Nat) : List Cleat := hr.cleats.filter fun c => c.group == g

/-- Group predicate *engaged* (R10). -/
def Hatch.groupEngaged (hr : Hatch) (g : Nat) : Bool :=
  (hr.members g).all fun c => c.st == .engaged

/-- Group predicate *released* (R10). -/
def Hatch.groupReleased (hr : Hatch) (g : Nat) : Bool :=
  (hr.members g).all fun c => c.st == .released

/-- A cleat of the group is DISAGREE (R51, R62). -/
def Hatch.groupDisagrees (hr : Hatch) (g : Nat) : Bool :=
  (hr.members g).any fun c => c.st == .disagree

/-! ### Panels and positions (R12 to R14) -/

/-- Travel state from the closed sensor and the sensor of the far limit (R12). -/
def travelOf (far : Travel) (closed limit : Option Bool) : Travel :=
  match closed, limit with
  | some true, some false => .closed
  | some false, some true => far
  | some false, some false => .mid
  | some true, some true => .conflict
  | _, _ => .unknown

/-- Lift state from the jack sensors (R12). -/
def liftOf (lifted lowered : Option Bool) : Lift :=
  match lifted, lowered with
  | some true, some false => .lifted
  | some false, some true => .lowered
  | some false, some false => .mid
  | some true, some true => .conflict
  | _, _ => .unknown

/-- Panel `i` of a hatch (R3, R12). A FOLD panel has no lift state; its field stays UNKNOWN. -/
def State.derivePanel (s : State) (h : Nat) (cover : Cover) (i : Nat) : Panel :=
  let closed := s.qual .panelClosed h i
  match cover with
  | .roll => ⟨travelOf .opened closed (s.qual .panelOpen h i),
      liftOf (s.qual .panelLifted h i) (s.qual .panelLowered h i)⟩
  | .fold => ⟨travelOf .folded closed (s.qual .panelFolded h i), .unknown⟩

/-- Position state of a ROLL hatch whose panel and cleat inputs have all qualified (R13, rows 2 to
8). -/
def rollPosition (t1 t2 : Travel) (l1 l2 : Lift) (allEngaged stale : Bool) : Position :=
  if t1 = .closed ∧ t2 = .closed ∧ l1 = .lowered ∧ l2 = .lowered then
    if allEngaged ∧ ¬stale then .secured else .seated
  else if t1 = .closed ∧ t2 = .closed ∧ l1 = .lifted ∧ l2 = .lifted then .raisedClosed
  else if t1 = .opened ∧ t2 = .opened ∧ l1 = .lifted ∧ l2 = .lifted then .raisedOpen
  else if t1 = .opened ∧ t2 = .opened ∧ l1 = .lowered ∧ l2 = .lowered then .parkedOpen
  else if l1 = .lifted ∧ l2 = .lifted ∧ t1 ≠ .conflict ∧ t2 ≠ .conflict ∧
      (t1 = .mid ∨ t2 = .mid) then .inTravel
  else .indeterminate

/-- Position state of a FOLD hatch whose panel and cleat inputs have all qualified (R14, rows 2 to
7). -/
def foldPosition (t1 t2 : Travel) (allEngaged stale : Bool) : Position :=
  if t1 = .conflict ∨ t2 = .conflict then .indeterminate
  else if t1 = .closed ∧ t2 = .closed then
    if allEngaged ∧ ¬stale then .secured else .seated
  else if t1 = .folded ∧ t2 = .folded then .foldedOpen
  else if t1 = .mid ∨ t2 = .mid then .inTravel
  else .indeterminate

/-- Every panel and cleat input of the hatch has qualified since the last build (R13, R16). -/
def State.allQualified (s : State) (h : Nat) : Bool :=
  s.points.all fun p =>
    !((p.role.isPanelInput || p.role.isCleatInput) && p.subject == h) || p.qual.isSome

/-- Every node holding a point bound to the hatch is ONLINE (R16). -/
def State.allOnline (s : State) (h : Nat) : Bool :=
  s.points.all fun p => !(p.role.isHatch && p.subject == h) || s.nodeOnline p.node

/-- Bring a hatch record up to date from the qualified values (R15, R16, R18). -/
def State.deriveHatch (s : State) (hr : Hatch) : Hatch :=
  let cleats := hr.cleats.map (s.deriveCleat hr)
  let p1 := s.derivePanel hr.num hr.cover 1
  let p2 := s.derivePanel hr.num hr.cover 2
  let engaged := (cleats.filter fun c => c.st == .engaged).length
  let qualified := s.allQualified hr.num
  let stale := !(qualified && s.allOnline hr.num)
  let allEngaged := cleats.all fun c => c.st == .engaged
  { hr with
    cleats := cleats
    panel1 := p1
    panel2 := p2
    engaged := engaged
    stale := stale
    disagree := cleats.any fun c => c.st == .disagree
    position :=
      if !qualified then .unknown
      else match hr.cover with
        | .roll => rollPosition p1.travel p2.travel p1.lift p2.lift allEngaged stale
        | .fold => foldPosition p1.travel p2.travel allEngaged stale }

/-! ### Temperature band and budget (R74, R75) -/

/-- Temperature factor T (R74). -/
def Band.factor : Band → Nat
  | .cold => 60
  | .normal => 100
  | .warm => 85
  | .hot => 0

/-- A thermostat role is on; an unbound one is off (R74). -/
def State.thermostatOn (s : State) (r : Role) : Bool := s.qual r 0 0 == some true

/-- The temperature band (R74). -/
def State.deriveBand (s : State) : Band :=
  let bound := s.points.filter fun p => p.role.isThermostat
  if bound.isEmpty then .normal
  else if bound.any Point.stale then .cold
  else if s.thermostatOn .oilHot then .hot
  else if s.thermostatOn .oilWarm then .warm
  else if s.thermostatOn .oilCold then .cold
  else .normal

/-- Q_run (R75). -/
def qRun (ps : List Pump) : Nat :=
  ((ps.filter fun p => p.st == .running).map Pump.flow).sum

/-- Q_all (R75). -/
def qAll (ps : List Pump) : Nat :=
  ((ps.filter fun p => p.st != .failed).map Pump.flow).sum

/-- The reserve R in force. -/
def State.reserve (s : State) : Nat :=
  match s.inForce with
  | some c => cfgReserve c
  | none => 0

/-- B (R75); a negative value counts as 0. -/
def State.computeB (s : State) : Nat := qRun s.pumps * s.band.factor / 100 - s.reserve

/-- MaxB (R75). -/
def State.computeMaxB (s : State) : Nat := qAll s.pumps * s.band.factor / 100 - s.reserve

/-! ### Peaks, permits and fractions (R106 to R109) -/

/-- Largest magnitude of the values; `none` for an empty window (R106). -/
def peak (vs : List Int) : Option Nat :=
  match vs with
  | [] => none
  | _ => some (vs.foldl (fun m v => max m v.natAbs) 0)

def Attitude.peakHeel (a : Attitude) : Option Nat := peak (a.window.map Prod.fst)
def Attitude.peakTrim (a : Attitude) : Option Nat := peak (a.window.map Prod.snd)

/-- Speed fraction at a peak angle; `none` above the stop limit (R108, R109). -/
def fractionAt (fl sl mn angle : Nat) : Option Nat :=
  if angle ≤ fl ∧ angle ≤ sl then some 100
  else if angle ≤ sl then some (100 - (100 - mn) * (angle - fl) / (sl - fl))
  else none

/-- Fraction of one axis, present exactly while its permit exists (R108, R109). -/
def axisFraction (fill : Nat) (pk : Option Nat) (fl sl mn : Nat) : Option Nat :=
  match pk with
  | none => none
  | some a => if 4 ≤ fill then fractionAt fl sl mn a else none

/-- Derive both permits and fractions from the window; none without a configuration in force (R110,
R114). -/
def State.deriveFractions (s : State) : Attitude :=
  match s.inForce with
  | none => { s.att with heel := none, trim := none }
  | some c =>
    { s.att with
      heel := axisFraction s.att.window.length s.att.peakHeel (itemNat c 12 0) (itemNat c 13 0)
        (itemNat c 14 0)
      trim := axisFraction s.att.window.length s.att.peakTrim (itemNat c 15 0) (itemNat c 16 0)
        (itemNat c 17 0) }

/-- Travel permit of a cover type (R108). -/
def State.permit (s : State) (cover : Cover) : Bool :=
  match cover with
  | .roll => s.att.heel.isSome
  | .fold => s.att.trim.isSome

/-! ### Demand and clamp (R77, R78) -/

/-- Travel and fold steps are proportional (R45). -/
def Step.isProportional : Step → Bool
  | .travelOpen => true
  | .travelClose => true
  | .foldOpen => true
  | .foldClose => true
  | _ => false

/-- The cover type whose permit a proportional step needs (R45). -/
def Step.axis : Step → Option Cover
  | .travelOpen => some .roll
  | .travelClose => some .roll
  | .foldOpen => some .fold
  | .foldClose => some .fold
  | _ => none

/-- Speed fraction P of a step; `none` without its permit (R77). -/
def State.fraction (s : State) (st : Step) : Option Nat :=
  match st.axis with
  | none => some 100
  | some .roll => s.att.heel
  | some .fold => s.att.trim

/-- Rated flow of a step on a hatch in the configuration in force (R76). -/
def State.qStep (s : State) (h : Nat) (st : Step) : Nat :=
  match s.inForce with
  | some c => cfgFlow c h st
  | none => 0

/-- ceil(q × p / 100) (R77). -/
def demandAt (q p : Nat) : Nat := (q * p + 99) / 100

/-- What a step may be served at: removal for want of permit or flow, or demand, fraction and the
clamped mark (R77, R78, R83). -/
inductive Offer where
  | noPermit
  | noFlow
  | fits (demand speed : Nat) (clamped : Bool)
  deriving DecidableEq, Repr

/-- Demand of a step at this moment, with the clamp against MaxB (R77, R78). -/
def State.offerOf (s : State) (h : Nat) (st : Step) : Offer :=
  match s.fraction st with
  | none => .noPermit
  | some p =>
    let q := s.qStep h st
    let d := demandAt q p
    if d ≤ s.maxB then .fits d p false
    else
      let p' := s.maxB * 100 / q
      if p' < 25 then .noFlow
      else .fits s.maxB (if st.isProportional then p' else 100) true

end Sys2Proof.Machine
end

