-- ==== Sys2Proof/Machine/Operands.lean ====
section
/-! DEFINITION. Bytes on the wires: byte order, CRC-8 and CRC-16, the values of the enumerated
fields (R169), the KINDs (R168), and the arguments of a telegram's payload with the checks of
R159. -/

namespace Sys2Proof.Machine

/-! ### Bytes -/

def byte (n : Nat) : Byte := BitVec.ofNat 8 n

/-- Two bytes, most significant first (R168). -/
def be16 (n : Nat) : List Byte := [byte (n / 256), byte n]

/-- Four bytes, most significant first. -/
def be32 (n : Nat) : List Byte := [byte (n / 16777216), byte (n / 65536), byte (n / 256), byte n]

/-- A signed value in two bytes, two's complement (R169, R170). -/
def be16s (i : Int) : List Byte :=
  let w := BitVec.ofInt 16 i
  [byte (w.toNat / 256), byte w.toNat]

/-- The 16-bit value of two bytes. -/
def word (hi lo : Byte) : Word := hi ++ lo

/-- A time that may be stopped or absent, in two bytes; all ones when it is (R169). -/
def be16o (t : Option Nat) : List Byte := be16 (t.getD 0xFFFF)

/-- A time that may be stopped or absent, in four bytes. -/
def be32o (t : Option Nat) : List Byte := be32 (t.getD 0xFFFFFFFF)

def bit (b : Bool) (k : Nat) : Nat := if b then 2 ^ k else 0

/-- One bit of CRC-16, polynomial x^16 + x^12 + x^5 + 1 (R168). -/
def crc16Bit (crc : Word) : Word :=
  if crc.msb then (crc <<< 1) ^^^ 0x1021 else crc <<< 1

/-- One byte of CRC-16, most significant bit first. -/
def crc16Byte (crc : Word) (b : Byte) : Word :=
  Nat.repeat crc16Bit 8 (crc ^^^ (b.zeroExtend 16 <<< 8))

/-- CRC-16 of a station telegram, initial value 0xFFFF (R168). -/
def crc16 (bs : List Byte) : Word := bs.foldl crc16Byte 0xFFFF

/-- One bit of CRC-8, polynomial x^8 + x^2 + x + 1 (R170). -/
def crc8Bit (crc : Byte) : Byte :=
  if crc.msb then (crc <<< 1) ^^^ 0x07 else crc <<< 1

def crc8Byte (crc b : Byte) : Byte := Nat.repeat crc8Bit 8 (crc ^^^ b)

/-- CRC-8 of the field and attitude lines, initial value 0 (R170). -/
def crc8 (bs : List Byte) : Byte := bs.foldl crc8Byte 0

/-- The bytes of a transmitted frame (R168). -/
def Frame.bytes (f : Frame) : List Byte :=
  let body := byte f.payload.length :: f.kind :: f.seq :: f.payload
  0xC5 :: (body ++ be16 (crc16 body).toNat)

/-! ### Enumerated fields (R169) -/

def PartMode.code : PartMode → Nat
  | .loading => 1
  | .unconfigured => 2
  | .sea => 3
  | .harbour => 4
  | .commission => 5

/-- The part mode that a ship mode gives (R130). -/
def ShipMode.part : ShipMode → PartMode
  | .sea => .sea
  | .harbour => .harbour
  | .commission => .commission

def ResetCause.code : ResetCause → Nat
  | .powerOn => 1
  | .external => 2
  | .supply => 3

def LineClass.code : LineClass → Nat
  | .none => 0
  | .deck => 1
  | .console => 2
  | .bridge => 3

def Link.code : Link → Nat
  | .off => 0
  | .down => 1
  | .awaiting => 2
  | .active => 3

def Position.code : Position → Nat
  | .unknown => 0
  | .secured => 1
  | .seated => 2
  | .raisedClosed => 3
  | .inTravel => 4
  | .raisedOpen => 5
  | .parkedOpen => 6
  | .foldedOpen => 7
  | .indeterminate => 8

def OpState.code : OpState → Nat
  | .idle => 0
  | .queued => 1
  | .moving => 2
  | .paused => 3
  | .faulted => 4

def OpKind.code : OpKind → Nat
  | .none => 0
  | .opening => 1
  | .closing => 2
  | .release => 3
  | .engage => 4

/-- Operation kind of a RUN (R49): NONE is no kind that RUN may carry (log 9). -/
def OpKind.ofByte (b : Byte) : Option OpKind :=
  match b.toNat with
  | 1 => some .opening
  | 2 => some .closing
  | 3 => some .release
  | 4 => some .engage
  | _ => Option.none

/-- CLOSE and ENGAGE are CLOSE-class (R43). -/
def OpKind.isClosing (k : OpKind) : Bool := k == .closing || k == .engage

def Discipline.code : Option Discipline → Nat
  | none => 0
  | some .hold => 1
  | some .auto => 2

def HaltReason.code : Option HaltReason → Nat
  | none => 0
  | some .halted => 1
  | some .holdLapsed => 2
  | some .stall => 3
  | some .attitude => 4
  | some .noFlow => 5
  | some .nodeLost => 6
  | some .fault => 7

def FaultKind.code : Option FaultKind → Nat
  | none => 0
  | some .timeout => 1
  | some .jammed => 2
  | some .pressureStuck => 3
  | some .disagree => 4

/-- The group of a release or engage step. A step of another kind has no group, and R169 gives its field no
value: the part sends 0 there (DESIGN CHOICE, log 17). -/
def Step.groupNo : Step → Nat
  | .releaseGroup g => g
  | .engageGroup g => g
  | _ => 0

/-- A step in one byte: kind in bits 0 to 3, group in bits 4 to 7 (R169), 0 where it has none (log 17). -/
def Step.wire (st : Step) : Byte := byte (st.code + 16 * st.groupNo)

def Travel.code : Travel → Nat
  | .unknown => 0
  | .closed => 1
  | .opened => 2
  | .folded => 3
  | .mid => 4
  | .conflict => 5

/-- Lift state; 15 on a FOLD hatch (R12, R169). -/
def Lift.code (cover : Cover) (l : Lift) : Nat :=
  match cover, l with
  | .fold, _ => 15
  | _, .unknown => 0
  | _, .lifted => 1
  | _, .lowered => 2
  | _, .mid => 3
  | _, .conflict => 4

def Direction.code : Direction → Nat
  | .none => 0
  | .release => 1
  | .engage => 2

def CleatState.code : CleatState → Nat
  | .unknown => 0
  | .engaged => 1
  | .released => 2
  | .between => 3
  | .disagree => 4

def Dwell.code : Dwell → Nat
  | .idle => 0
  | .running _ => 1
  | .complete => 2

def PumpState.code : PumpState → Nat
  | .off => 0
  | .starting => 1
  | .running => 2
  | .failed => 3

def Band.code : Band → Nat
  | .cold => 0
  | .normal => 1
  | .warm => 2
  | .hot => 3

def NodeState.code : NodeState → Nat
  | .absent => 0
  | .online => 1
  | .lost => 2

def Classifier.code : Classifier → Nat
  | .idle => 0
  | .watching => 1
  | .timing _ => 2
  | .stalled => 3

def AlarmState.code : AlarmState → Nat
  | .raisedUnack => 1
  | .raisedAck => 2
  | .clearedUnack => 3

def Subject.kindCode : Subject → Nat
  | .hatch _ => 1
  | .node _ => 2
  | .pump _ => 3
  | .powerPack => 4
  | .attitude => 5
  | .line _ => 6
  | .part => 7

def Subject.number : Subject → Nat
  | .hatch n => n
  | .node n => n
  | .pump n => n
  | .line n => n
  | _ => 0

def AlarmCode.code : AlarmCode → Nat
  | .hatchUnsecuredAtSea => 1
  | .stall => 2
  | .jammed => 3
  | .pressureStuck => 4
  | .timeout => 5
  | .sensorDisagree => 6
  | .sensorChatter => 7
  | .nodeLost => 8
  | .pumpFailed => 9
  | .oilHot => 10
  | .attitudeInvalid => 11
  | .stationLost => 12
  | .classMismatch => 13
  | .estopActive => 14
  | .configInvalid => 15
  | .supplyDip => 16

def AlarmCode.ofCode : Nat → Option AlarmCode
  | 1 => some .hatchUnsecuredAtSea
  | 2 => some .stall
  | 3 => some .jammed
  | 4 => some .pressureStuck
  | 5 => some .timeout
  | 6 => some .sensorDisagree
  | 7 => some .sensorChatter
  | 8 => some .nodeLost
  | 9 => some .pumpFailed
  | 10 => some .oilHot
  | 11 => some .attitudeInvalid
  | 12 => some .stationLost
  | 13 => some .classMismatch
  | 14 => some .estopActive
  | 15 => some .configInvalid
  | 16 => some .supplyDip
  | _ => none

/-- The subject kinds that a code takes (section 8.5). -/
def AlarmCode.takes (c : AlarmCode) (kind : Nat) : Bool :=
  match c with
  | .hatchUnsecuredAtSea => kind == 1
  | .stall => kind == 1
  | .jammed => kind == 1
  | .pressureStuck => kind == 1
  | .timeout => kind == 1
  | .sensorDisagree => kind == 1
  | .sensorChatter => kind == 1 || kind == 4
  | .nodeLost => kind == 2
  | .pumpFailed => kind == 3
  | .oilHot => kind == 4
  | .attitudeInvalid => kind == 5
  | .stationLost => kind == 6
  | .classMismatch => kind == 6
  | .estopActive => kind == 7
  | .configInvalid => kind == 7
  | .supplyDip => kind == 7

/-- Subject of a kind and number within the fixed range of the kind (R159). -/
def Subject.ofNats (kind n : Nat) : Option Subject :=
  match kind with
  | 1 => if 1 ≤ n ∧ n ≤ 11 then some (.hatch n) else none
  | 2 => if 1 ≤ n ∧ n ≤ 48 then some (.node n) else none
  | 3 => if 1 ≤ n ∧ n ≤ 3 then some (.pump n) else none
  | 4 => if n = 0 then some .powerPack else none
  | 5 => if n = 0 then some .attitude else none
  | 6 => if 1 ≤ n ∧ n ≤ 6 then some (.line n) else none
  | 7 => if n = 0 then some .part else none
  | _ => none

def Result.code : Result → Nat
  | .done => 1
  | .started => 2
  | .badRequest => 3
  | .badArg => 4
  | .notReady => 5
  | .class => 6
  | .noReach => 7
  | .held => 8
  | .notHeld => 9
  | .busy => 10
  | .notRunning => 11
  | .noHoldControl => 12
  | .mode => 13
  | .position => 14
  | .attitude => 15
  | .estop => 16
  | .faulted => 17
  | .notSecured => 18
  | .notArmed => 19
  | .lineActive => 20
  | .notConfigured => 21
  | .invalid => 22

/-! ### KINDs (R168) -/

def kindAnnounce : Byte := 0x01
def kindIdle : Byte := 0x02
def kindTake : Byte := 0x10
def kindYield : Byte := 0x11
def kindRun : Byte := 0x20
def kindHold : Byte := 0x21
def kindHalt : Byte := 0x22
def kindClear : Byte := 0x30
def kindEstop : Byte := 0x31
def kindMode : Byte := 0x32
def kindAcknowledge : Byte := 0x40
def kindRead : Byte := 0x50
def kindWrite : Byte := 0x60
def kindStore : Byte := 0x61
def kindAnswer : Byte := 0x80
def kindReport : Byte := 0x81

/-- The KINDs that a station may send (R168). -/
def stationKinds : List Byte :=
  [kindAnnounce, kindIdle, kindTake, kindYield, kindRun, kindHold, kindHalt, kindClear, kindEstop,
    kindMode, kindAcknowledge, kindRead, kindWrite, kindStore]

/-! ### Arguments (R159) -/

/-- Highest hatch number that the argument check takes (R159). -/
def State.hatchLimit (s : State) : Nat :=
  match s.inForce with
  | some c => cfgHatches c
  | none => 11

/-- Highest pump number that the argument check takes (R159). -/
def State.pumpLimit (s : State) : Nat :=
  match s.inForce with
  | some c => cfgPumps c
  | none => 3

/-- A hatch number in range. -/
def State.hatchArg (s : State) (b : Byte) : Option Nat :=
  if 1 ≤ b.toNat ∧ b.toNat ≤ s.hatchLimit then some b.toNat else none

/-- A payload that is one hatch number (TAKE, YIELD, HOLD, HALT). -/
def State.oneHatch (s : State) (p : List Byte) : Option Nat :=
  match p with
  | [b] => s.hatchArg b
  | _ => none

/-- The payload of RUN: hatch and operation kind. -/
def State.runArgs (s : State) (p : List Byte) : Option (Nat × OpKind) :=
  match p with
  | [b, k] =>
    match s.hatchArg b, OpKind.ofByte k with
    | some h, some kd => some (h, kd)
    | _, _ => none
  | _ => none

/-- The index byte after a CLEAR target, where the target ignores it. -/
def anyIndex (p : List Byte) : Option Nat :=
  match p with
  | [b] => some b.toNat
  | _ => none

/-- The index of CLEAR PUMP. -/
def State.pumpArg (s : State) (p : List Byte) : Option Nat :=
  match p with
  | [b] => if 1 ≤ b.toNat ∧ b.toNat ≤ s.pumpLimit then some b.toNat else none
  | _ => none

/-- No byte after the mode argument (MODE), the form byte of ACKNOWLEDGE all, or no payload at all
(ESTOP, STORE). -/
def noArgs (p : List Byte) : Option Unit :=
  match p with
  | [] => some ()
  | _ => none

/-- The record that ACKNOWLEDGE of one record names: code, subject kind, subject number. -/
def recordArgs (p : List Byte) : Option (AlarmCode × Subject) :=
  match p with
  | [c, k, n] =>
    match AlarmCode.ofCode c.toNat, Subject.ofNats k.toNat n.toNat with
    | some code, some sub => if code.takes k.toNat then some (code, sub) else none
    | _, _ => none
  | _ => none

/-- First index and clear flag of READ. Only the value 1 sets the flag (log 10). -/
def readArgs (p : List Byte) : Option (Nat × Bool) :=
  match p with
  | [hi, lo, c] => some ((word hi lo).toNat, c == 1)
  | _ => none

/-- Item code, index and value of WRITE. -/
def writeArgs (p : List Byte) : Option (Nat × Nat × Word) :=
  match p with
  | [item, idx, hi, lo] => some (item.toNat, idx.toNat, word hi lo)
  | _ => none

/-- Class, reach mask and abilities of ANNOUNCE (R168). Class NONE is no class that ANNOUNCE may
carry (log 9). -/
def announceArgs (p : List Byte) : Option (LineClass × Word × Bool × Bool) :=
  match p with
  | [c, hi, lo, ab] =>
    let mask := word hi lo &&& 0x07FF
    match c.toNat with
    | 1 => some (.deck, mask, ab.getLsbD 0, ab.getLsbD 1)
    | 2 => some (.console, mask, ab.getLsbD 0, ab.getLsbD 1)
    | 3 => some (.bridge, mask, ab.getLsbD 0, ab.getLsbD 1)
    | _ => none
  | _ => none

/-- Hatch `h` is in a reach mask (R168, R171: bit h-1). -/
def reachHas (m : Word) (h : Nat) : Bool := 1 ≤ h && m.getLsbD (h - 1)

/-- The mask of hatches 1 to `n`. -/
def reachUpTo (n : Nat) : Word := BitVec.ofNat 16 (2 ^ n - 1)

/-- The mask of a set of hatches. -/
def reachOf (hs : List Nat) : Word :=
  hs.foldl (fun m h => m ||| (1 <<< (h - 1) : Word)) 0

end Sys2Proof.Machine
end

