-- ==== Sys2Proof/Machine/Clock.lean ====
section
/-! DEFINITION. The passage of time: the counts of milliseconds, and the polls of the field line whose
slots begin meanwhile (R23, R177). -/

namespace Sys2Proof.Machine

/-- The bytes of a poll: address, eight setpoints, CRC-8 (R23, R170). -/
def Node.poll (n : Node) : List Byte :=
  let body := byte n.addr :: n.outs.map byte
  body ++ [crc8 body]

/-- The turn of node `n` in place `k` begins: its poll is sent (R23). -/
def Scan.polling (sc : Scan) (k : Nat) (n : Node) : Scan :=
  { sc with place := some k, replied := false, poll := n.poll }

/-- The slot of place `k` has begun at the time `t`: `k` × 400 µs have passed since the start of the
scan, 20 ms before the next one is due (R23). -/
def Scan.slotReached (sc : Scan) (k t : Nat) : Bool := 5 * sc.due + 2 * k ≤ 5 * (t + 20)

/-- The scan at the time `t`: a turn that a reply has ended is followed by the next one at the start of
its slot, with a poll of the output image as it stands before the command that comes then (R23,
log 23). -/
def State.scanAt (s : State) (t : Nat) : Scan :=
  match s.scan.place with
  | none => s.scan
  | some k =>
    match s.nodes[k + 1]? with
    | none => s.scan
    | some n =>
      if s.scan.replied && s.scan.slotReached (k + 1) t then s.scan.polling (k + 1) n else s.scan

/-- Let `dt` ms pass: the time since reset release runs while the part runs, and with it the slots of the
field line; the running time runs while the part is powered (R23, R177, log 1). -/
def State.advance (s : State) (dt : Nat) : State :=
  { s with
    now := if s.power = .running then s.now + dt else s.now
    scan := if s.power = .running then s.scanAt (s.now + dt) else s.scan
    retained := { s.retained with ranMs := s.retained.ranMs + dt } }

/-- Take an event after `dt` ms: nothing is processed in reset or in supply hold (R176). -/
def State.live (s : State) (dt : Nat) (f : State → State) : State :=
  if s.power = .running then f (s.advance dt) else s.advance dt

end Sys2Proof.Machine
end

