-- ==== Sys2Proof/Machine/HatchTable.lean ====
section
/-! DEFINITION. The Hatch Table's hand-ons: bringing a hatch record up to date with the alarms that
follow it (R11, R133), the targets, points and valves of a step (R27, R45), and the step programs
(R46 to R48). -/

namespace Sys2Proof.Machine

/-- Bring the record of a hatch up to date (R15), with SENSOR_DISAGREE following the disagreement
flag (R11) and HATCH_UNSECURED_AT_SEA following the position state at sea (R133). -/
def State.refresh (s : State) (h : Nat) : State :=
  match s.hatch? h with
  | none => s
  | some old =>
    let new := s.deriveHatch old
    let s1 := s.updHatch h fun _ => new
    let s2 :=
      if new.disagree = old.disagree then s1
      else s1.setAlarm new.disagree .sensorDisagree (.hatch h)
    let was := old.position == .secured
    let isNow := new.position == .secured
    if s.mode = .sea ∧ was ≠ isNow then
      s2.setAlarm (!isNow) .hatchUnsecuredAtSea (.hatch h)
    else s2

/-! ### Steps (R27, R45) -/

/-- The valve role that a step drives (R45). -/
def Step.driven : Step → Role
  | .releaseGroup _ => .cleatReleaseValve
  | .engageGroup _ => .cleatEngageValve
  | .lift => .liftValve
  | .lower => .lowerValve
  | .travelOpen => .travelOpenValve
  | .travelClose => .travelCloseValve
  | .foldOpen => .foldOpenValve
  | .foldClose => .foldCloseValve

/-- The valve role that a step holds at 0 (R45). -/
def Step.opposed : Step → Role
  | .releaseGroup _ => .cleatEngageValve
  | .engageGroup _ => .cleatReleaseValve
  | .lift => .lowerValve
  | .lower => .liftValve
  | .travelOpen => .travelCloseValve
  | .travelClose => .travelOpenValve
  | .foldOpen => .foldCloseValve
  | .foldClose => .foldOpenValve

/-- Indexes of the valves of a step: its group, the hatch as a whole, or both panels. -/
def Step.valveIndexes : Step → List Nat
  | .releaseGroup g => [g]
  | .engageGroup g => [g]
  | .lift => [0]
  | .lower => [0]
  | _ => [1, 2]

/-- The travel state that a proportional step brings its panels to (R45). -/
def Step.travelTarget : Step → Travel
  | .travelOpen => .opened
  | .foldOpen => .folded
  | _ => .closed

/-- Panel 1 or 2 of a hatch. -/
def Hatch.panel (hr : Hatch) (i : Nat) : Panel := if i = 1 then hr.panel1 else hr.panel2

/-- The target of a step holds (R45). -/
def Hatch.targetHolds (hr : Hatch) (st : Step) : Bool :=
  match st with
  | .releaseGroup g => hr.groupReleased g
  | .engageGroup g => hr.groupEngaged g
  | .lift => hr.panel1.lift == .lifted && hr.panel2.lift == .lifted
  | .lower => hr.panel1.lift == .lowered && hr.panel2.lift == .lowered
  | st => hr.panel1.travel == st.travelTarget && hr.panel2.travel == st.travelTarget

/-- The role is one of those that a step uses beside its valves and the pressure input (R27). -/
def Step.tests (st : Step) (r : Role) : Bool :=
  match st with
  | .releaseGroup _ => r.isCleatInput
  | .engageGroup _ => r.isCleatInput
  | .lift => r == .panelLifted || r == .panelLowered
  | .lower => r == .panelLifted || r == .panelLowered
  | .travelOpen => r == .panelClosed || r == .panelOpen
  | .travelClose => r == .panelClosed || r == .panelOpen
  | .foldOpen => r == .panelClosed || r == .panelFolded
  | .foldClose => r == .panelClosed || r == .panelFolded

/-- A step of a hatch uses a point (R27). -/
def Hatch.usesPoint (hr : Hatch) (st : Step) (p : Point) : Bool :=
  p.role.isHatch && p.subject == hr.num &&
    (p.role == .hatchPressure ||
      ((p.role == st.driven || p.role == st.opposed) && st.valveIndexes.contains p.index) ||
      (st.tests p.role &&
        (!p.role.isCleatInput || (hr.members st.groupNo).any fun c => c.num == p.index)))

/-- A point that the step uses is on a node that is not ONLINE (R27, R51). -/
def State.stepOffline (s : State) (hr : Hatch) (st : Step) : Bool :=
  s.points.any fun p => hr.usesPoint st p && !s.nodeOnline p.node

/-- A release or engage step whose group has a DISAGREE cleat (R51, R62). -/
def Hatch.stepDisagrees (hr : Hatch) (st : Step) : Bool :=
  match st with
  | .releaseGroup g => hr.groupDisagrees g
  | .engageGroup g => hr.groupDisagrees g
  | _ => false

/-- Setpoint of the driven valve `i` of a step whose grant carries `setpoint` (R45, R54). -/
def Hatch.valveSetpoint (hr : Hatch) (st : Step) (setpoint i : Nat) : Nat :=
  if st.isProportional then
    if (hr.panel i).travel = st.travelTarget then 0 else setpoint
  else 100

/-- Write the driven valves of a step. -/
def State.writeDriven (s : State) (hr : Hatch) (st : Step) (setpoint : Nat) : State :=
  st.valveIndexes.foldl
    (fun x i => x.drive st.driven hr.num i (hr.valveSetpoint st setpoint i)) s

/-- Write 0 into every valve of one role of a step. -/
def State.zeroRole (s : State) (r : Role) (h : Nat) (idxs : List Nat) : State :=
  idxs.foldl (fun x i => x.drive r h i 0) s

/-- Set the valves of a step at its grant (R53, R54). -/
def State.openValves (s : State) (hr : Hatch) (st : Step) (setpoint : Nat) : State :=
  (s.zeroRole st.opposed hr.num st.valveIndexes).writeDriven hr st setpoint

/-- Set the valves of a step to 0 (R53). -/
def State.shutValves (s : State) (h : Nat) (st : Step) : State :=
  (s.zeroRole st.driven h st.valveIndexes).zeroRole st.opposed h st.valveIndexes

/-! ### Programs (R46 to R48) -/

/-- *Release groups as needed* (R46). -/
def Hatch.releaseSteps (hr : Hatch) : List Step :=
  (hr.groups.filter fun g => !(hr.groupReleased g.num)).map fun g => .releaseGroup g.num

/-- *Engage groups as needed* (R46). -/
def Hatch.engageSteps (hr : Hatch) : List Step :=
  (hr.groups.filter fun g => !(hr.groupEngaged g.num)).map fun g => .engageGroup g.num

/-- Program of OPEN on a ROLL hatch (R46). -/
def Hatch.rollOpen (hr : Hatch) : Option (List Step) :=
  match hr.position with
  | .secured => some (hr.releaseSteps ++ [.lift, .travelOpen, .lower])
  | .seated => some (hr.releaseSteps ++ [.lift, .travelOpen, .lower])
  | .raisedClosed => some [.travelOpen, .lower]
  | .inTravel => some [.travelOpen, .lower]
  | .raisedOpen => some [.lower]
  | .parkedOpen => some []
  | _ => none

/-- Program of CLOSE on a ROLL hatch (R46). -/
def Hatch.rollClose (hr : Hatch) : Option (List Step) :=
  match hr.position with
  | .secured => some []
  | .seated => some hr.engageSteps
  | .raisedClosed => some (.lower :: hr.engageSteps)
  | .inTravel => some (.travelClose :: .lower :: hr.engageSteps)
  | .raisedOpen => some (.travelClose :: .lower :: hr.engageSteps)
  | .parkedOpen => some (.lift :: .travelClose :: .lower :: hr.engageSteps)
  | _ => none

/-- Program of OPEN on a FOLD hatch (R47). -/
def Hatch.foldOpen (hr : Hatch) : Option (List Step) :=
  match hr.position with
  | .secured => some (hr.releaseSteps ++ [.foldOpen])
  | .seated => some (hr.releaseSteps ++ [.foldOpen])
  | .inTravel => some [.foldOpen]
  | .foldedOpen => some []
  | _ => none

/-- Program of CLOSE on a FOLD hatch (R47). -/
def Hatch.foldClose (hr : Hatch) : Option (List Step) :=
  match hr.position with
  | .secured => some []
  | .seated => some hr.engageSteps
  | .inTravel => some (.foldClose :: hr.engageSteps)
  | .foldedOpen => some (.foldClose :: hr.engageSteps)
  | _ => none

/-- Position SECURED or SEATED (R48). -/
def Position.isShut (p : Position) : Bool := p == .secured || p == .seated

/-- The program of a kind; `none` where R46 to R48 give no program. -/
def Hatch.program (hr : Hatch) (k : OpKind) : Option (List Step) :=
  match k with
  | .none => none
  | .opening => match hr.cover with
    | .roll => hr.rollOpen
    | .fold => hr.foldOpen
  | .closing => match hr.cover with
    | .roll => hr.rollClose
    | .fold => hr.foldClose
  | .release => if hr.position.isShut then some hr.releaseSteps else none
  | .engage => if hr.position.isShut then some hr.engageSteps else none

end Sys2Proof.Machine
end

