-- ==== Sys2Proof/Machine/Engine.lean ====
section
/-! DEFINITION. The Hatch Engine's shared operations: halting a step (R56), clearing to IDLE (R44),
the offer of a step (R51), completion (R55), taking a grant (R52) and a shed (R57), the loss of a
claim (R69) and the abort (R68). None of these runs an evaluation; the event that calls them does. -/

namespace Sys2Proof.Machine

/-- The pressure classifier of a hatch goes to IDLE (R39). -/
def State.classifierIdle (s : State) (h : Nat) : State :=
  s.updHatch h fun hr => { hr with classifier := .idle }

/-- The front step of a program, if any. -/
def Op.step? (o : Op) : Option Step := o.prog.head?

/-- End the motion of a MOVING step: valves to 0, grant returned, classifier to IDLE (R55, R56). -/
def State.endMotion (s : State) (o : Op) : State :=
  let s1 := match o.step? with
    | some st => s.shutValves o.hatch st
    | none => s
  (s1.dropGrant o.hatch).classifierIdle o.hatch

/-- Halt the current step of a hatch and go to the op state and reasons that the halting rule names
(R56). An operation that is neither QUEUED nor MOVING is left as it is. -/
def State.haltOp (s : State) (h : Nat) (st : OpState) (reason : Option HaltReason)
    (fault : Option FaultKind) : State :=
  match s.op? h with
  | none => s
  | some o =>
    let put := fun (x : State) => State.claimRun
      (x.updOp h fun r => { r with st := st, start := none, halt := reason, fault := fault,
                                   hold := none }) h
    match o.st with
    | .moving => put (s.endMotion o)
    | .queued => put (s.dropEntry h)
    | _ => s

/-- Pause the current step for a reason (section 3.6). -/
def State.pauseOp (s : State) (h : Nat) (r : HaltReason) : State :=
  s.haltOp h .paused (some r) none

/-- Fault the current step (section 3.7). -/
def State.faultOp (s : State) (h : Nat) (f : FaultKind) : State :=
  s.haltOp h .faulted (some .fault) (some f)

/-- Clear an operation to IDLE (R44); the pressure watch is left as it stands. -/
def State.clearIdle (s : State) (h : Nat) : State :=
  let s1 := s.updOp h fun o =>
    { o with kind := .none, disc := none, prog := [], st := .idle, stalls := 0, start := none,
             halt := none, fault := none, hold := none }
  (s1.clearAlarm .stall (.hatch h)).claimRun h

/-- The Engine takes the loss of a claim (R69). -/
def State.claimLoss (s : State) (h : Nat) : State :=
  match s.opState h with
  | .queued => (s.haltOp h .idle none none).clearIdle h
  | .moving => (s.haltOp h .idle none none).clearIdle h
  | .paused => s.clearIdle h
  | .idle => s
  | .faulted => s

/-- The operation ends DONE (R55). -/
def State.endDone (s : State) (h : Nat) : State :=
  (s.updHatch h fun hr => { hr with completed := inc16 hr.completed }).clearIdle h

/-- Leave the offered operation PAUSED or FAULTED at its offer, the hold window stopped (R51). -/
def State.stopAtOffer (s : State) (h : Nat) (st : OpState) (r : HaltReason)
    (f : Option FaultKind) : State :=
  (s.updOp h fun o => { o with st := st, start := none, halt := some r, fault := f,
                               hold := none }).claimRun h

/-- Offer the front step of `prog` (R51): steps whose target holds are passed over, and a program
that runs out ends DONE. -/
def State.offerFrom (s : State) (hr : Hatch) (closing : Bool) : List Step → State
  | [] => s.endDone hr.num
  | st :: rest =>
    if hr.targetHolds st then s.offerFrom hr closing rest
    else
      let s1 := s.updOp hr.num fun o => { o with prog := st :: rest, start := none }
      if s.stepOffline hr st then s1.stopAtOffer hr.num .paused .nodeLost none
      else if hr.stepDisagrees st then s1.stopAtOffer hr.num .faulted .fault (some .disagree)
      else
        let s2 := s1.updOp hr.num fun o => { o with st := .queued }
        (s2.claimStop hr.num).joinQueue ⟨hr.num, st, closing, s.entryTime, none, false⟩

/-- A MOVING step completes (R55). -/
def State.complete (s : State) (h : Nat) : State :=
  match s.op? h, s.hatch? h with
  | some o, some hr => (s.endMotion o).offerFrom hr o.kind.isClosing o.prog.tail
  | _, _ => s

/-- Completion test of a hatch (R55). -/
def State.testTarget (s : State) (h : Nat) : State :=
  match s.op? h, s.hatch? h with
  | some o, some hr =>
    match o.st, o.step? with
    | .moving, some st => if hr.targetHolds st then s.complete h else s
    | _, _ => s
  | _, _ => s

/-- Direction that a grant records for a group (R4). -/
def Step.direction : Step → Option (Nat × Direction)
  | .releaseGroup g => some (g, .release)
  | .engageGroup g => some (g, .engage)
  | _ => none

/-- Record the direction of a release or engage grant and bring the hatch up to date (R4, R8). -/
def State.recordDirection (s : State) (h : Nat) (st : Step) : State :=
  match st.direction with
  | none => s
  | some (g, d) =>
    State.refresh
      (s.updHatch h fun hr =>
        { hr with groups := updateKey Group.num g (fun x => { x with dir := d }) hr.groups }) h

/-- The classifier at a grant, by the level of the hatch's pressure point (R39). -/
def State.classifierStart (s : State) (h : Nat) : State :=
  let c := if s.qual .hatchPressure h 0 = some true then Classifier.timing none else .watching
  s.updHatch h fun hr => { hr with classifier := c }

/-- The Engine takes a grant (R52). -/
def State.takeGrant (s : State) (g : Grant) : State :=
  match s.hatch? g.hatch with
  | none => s
  | some hr =>
    let s1 := s.updOp g.hatch fun o =>
      { o with st := .moving, start := some s.now, watch := none }
    let s2 := (s1.clearAlarm .stall (.hatch g.hatch)).openValves hr g.step g.setpoint
    let s3 := (s2.recordDirection g.hatch g.step).classifierStart g.hatch
    s3.testTarget g.hatch

/-- The Engine takes a shed (R57). -/
def State.takeShed (s : State) (g : Grant) : State :=
  ((s.shutValves g.hatch g.step).classifierIdle g.hatch).updOp g.hatch fun o =>
    { o with st := .queued, start := none }

/-- The Engine takes the hand-ons of a hatch whose record may have changed: the DISAGREE fault of
its stepping group (R62), the valves of a travelling panel (R54), completion (R55). -/
def State.engineTakes (s : State) (h : Nat) : State :=
  match s.op? h, s.hatch? h with
  | some o, some hr =>
    match o.st, o.step? with
    | .queued, some st => if hr.stepDisagrees st then s.faultOp h .disagree else s
    | .moving, some st =>
      if hr.stepDisagrees st then s.faultOp h .disagree
      else
        match s.grant? h with
        | some g =>
          State.testTarget (if st.isProportional then s.writeDriven hr st g.setpoint else s) h
        | none => s
    | _, _ => s
  | _, _ => s

/-- Every valve setpoint of every hatch goes to 0 (R68). -/
def State.shutAllValves (s : State) : State :=
  (s.points.filter fun p => p.role.isHatch && !p.role.isInput).foldl
    (fun x p => x.setOut p.node p.point 0) s

/-- The abort of one record (R68); log 36 for the timer of an IDLE record. -/
def State.abortOp (s : State) (h : Nat) : State :=
  match s.opState h with
  | .queued => (s.haltOp h .idle none none).clearIdle h
  | .moving => (s.haltOp h .idle none none).clearIdle h
  | .paused => s.clearIdle h
  | .idle => s
  | .faulted => s.updOp h fun o => { o with prog := [] }

/-- The Engine aborts every operation record (R68). -/
def State.abortAll (s : State) : State :=
  ((s.hatches.map Hatch.num).foldl State.abortOp s).shutAllValves

end Sys2Proof.Machine
end

