-- ==== Sys2Proof/Machine/Arbiter.lean ====
section
/-! DEFINITION. The Flow Arbiter: the evaluation with its removal pass and grant walk (R82 to R84),
the start of a pump at a blocked head (R92), shedding (R86), new budgets (R75), demand changes in
flight (R88) and the loss of a permit (R89). -/

namespace Sys2Proof.Machine

/-- Keep in an entry what the evaluation found: its demand and whether it is the blocked head
(R79). -/
def State.noteEntry (s : State) (h d : Nat) (blocked : Bool) : State :=
  let q := updateKey Entry.hatch h (fun e => { e with demand := some d, blocked := blocked }) s.queue
  { s with queue := q }

/-- The removal pass at one entry (R83). -/
def State.visitEntry (s : State) (e : Entry) : State :=
  match s.offerOf e.hatch e.step with
  | .noPermit => s.pauseOp e.hatch .attitude
  | .noFlow => s.pauseOp e.hatch .noFlow
  | .fits d _ _ => s.noteEntry e.hatch d false

/-- The removal pass (R83). -/
def State.removalPass (s : State) : State := s.queue.foldl State.visitEntry s

/-- A pump is startable (R91). -/
def State.startable (s : State) (p : Pump) : Bool :=
  match s.pumpPoint? .pumpRun p.num, s.pumpPoint? .pumpRunning p.num with
  | some o, some i =>
    p.st == .off && s.nodeOnline o.node && s.nodeOnline i.node && i.qual.isSome
  | _, _ => false

/-- Qualified value of a pump's PUMP_RUNNING. -/
def State.pumpRunning (s : State) (n : Nat) : Option Bool :=
  match s.pumpPoint? .pumpRunning n with
  | some i => i.qual
  | none => none

/-- Start a pump at a blocked head (R92, R93). -/
def State.startPump (s : State) : State :=
  if s.pumps.any fun p => p.st == .starting then s
  else
    match s.pumps.find? s.startable with
    | none => s
    | some p =>
      let on := s.pumpRunning p.num == some true
      State.drivePump
        (s.updPump p.num fun x =>
          { x with st := .starting
                   deadline := if on then none else some (s.now + 10000)
                   settle := if on then some (s.now + 3000) else none }) p.num 100

/-- Grant the head of the queue (R84). -/
def State.grantHead (s : State) (e : Entry) (d speed : Nat) (clamped : Bool) : State :=
  let g : Grant := ⟨e.hatch, e.step, e.closing, e.time, s.qStep e.hatch e.step, d, speed, speed,
    clamped⟩
  State.takeGrant
    { s with queue := s.queue.filter fun x => x.hatch != e.hatch, granted := s.granted ++ [g] } g

/-- The evaluation (R82 to R84). A grant that completes at once offers its next step; the pass then
begins again over the queue so left (log 15). -/
def State.evalLoop : Nat → State → State
  | 0, s => s
  | n + 1, s =>
    let s1 := s.removalPass
    match s1.queue with
    | [] => s1
    | e :: _ =>
      match s1.offerOf e.hatch e.step with
      | .fits d speed clamped =>
        if d ≤ s1.freeFlow then State.evalLoop n (s1.grantHead e d speed clamped)
        else (s1.noteEntry e.hatch d true).startPump
      | _ => s1

/-- Rounds that an evaluation can take: each grants, and each grant either takes an entry out of
the queue or a step out of a program. -/
def State.evalRounds (s : State) : Nat :=
  s.queue.length + (s.ops.map fun o => o.prog.length).sum + 1

/-- Run an evaluation of the grant queue (R82). -/
def State.evaluate (s : State) : State := State.evalLoop s.evalRounds s

/-- Shed one grant: it leaves the set and its step re-enters with its class and entry time
(R86). -/
def State.shedOne (s : State) (g : Grant) : State :=
  State.takeShed
    { s with granted := s.granted.filter fun x => x.hatch != g.hatch
             queue := insertEntry ⟨g.hatch, g.step, g.closing, g.time, none, false⟩ s.queue } g

/-- Shed grants of the list, in its order, until the sum fits in the budget (R86). -/
def State.shedLoop : List Grant → State → State
  | [], s => s
  | g :: rest, s =>
    if grantedSum s.granted ≤ s.budget then s else State.shedLoop rest (s.shedOne g)

/-- Take a new pair B and MaxB whole: shedding, newest grant first, then an evaluation (R75, R86,
R87). -/
def State.takeBudget (s : State) : State :=
  let s1 := { s with budget := s.computeB, maxB := s.computeMaxB }
  (State.shedLoop s1.granted.reverse s1).evaluate

/-- The band becomes `b`, with OIL_HOT following it (R74). -/
def State.enterBand (s : State) (b : Band) : State :=
  if b = .hot then State.raiseAlarm { s with band := b } .oilHot .powerPack
  else if s.band = .hot then State.clearAlarm { s with band := b } .oilHot .powerPack
  else { s with band := b }

/-- Derive the band again; a change of B or MaxB is taken as a new budget (R74, R75). That OIL_HOT is raised
or cleared before the new budget is taken is the model's choice (DESIGN CHOICE, log 51). -/
def State.rederiveBand (s : State) : State :=
  if s.deriveBand = s.band then s
  else
    let s1 := s.enterBand s.deriveBand
    if s1.computeB = s1.budget ∧ s1.computeMaxB = s1.maxB then s1 else s1.takeBudget

/-- Target demand and fraction of a granted step at fraction `p`, with whether it is clamped (R88,
R78). -/
def Grant.target (g : Grant) (maxB p : Nat) : Nat × Nat × Bool :=
  let d := demandAt g.q p
  if d ≤ maxB then (d, p, false) else (maxB, maxB * 100 / g.q, true)

/-- A granted record at a new fraction, with free flow `f` (R88). -/
def Grant.follow (g : Grant) (maxB f p : Nat) : Grant :=
  let (dc, pc, cl) := g.target maxB p
  if dc < g.demand ∨ pc < g.speed then
    { g with demand := dc, speed := pc, setpoint := pc, clamped := cl }
  else
    let d := min dc (g.demand + f)
    let p' := min pc (d * 100 / g.q)
    { g with demand := d, speed := p', setpoint := p', clamped := cl }

/-- The Arbiter applies a fraction to the granted record of a hatch (R88). -/
def State.followOne (s : State) (p : Nat) (h : Nat) : State :=
  match s.grant? h, s.hatch? h with
  | some g, some hr =>
    let g' := g.follow s.maxB s.freeFlow p
    let s1 := s.updGrant h fun _ => g'
    if g'.setpoint = g.setpoint then s1 else s1.writeDriven hr g.step g'.setpoint
  | _, _ => s

/-- Hatches with a granted step of the axis, in grant order. -/
def State.grantedOn (s : State) (c : Cover) : List Nat :=
  (s.granted.filter fun g => g.step.axis == some c).map Grant.hatch

/-- The hand-on of one axis after a change of the window: `before` and `now` are the fractions
(R110, R88, R89; log 13). -/
def State.axisHandOn (s : State) (c : Cover) (before now : Option Nat) : State :=
  match before, now with
  | some p, some p' =>
    let s1 := (s.grantedOn c).foldl (fun x h => x.followOne p' h) s
    if p = p' ∧ s1.granted.map Grant.demand = s.granted.map Grant.demand then s1
    else s1.evaluate
  | some _, none =>
    ((s.grantedOn c).foldl (fun x h => x.pauseOp h .attitude) s).evaluate
  | none, some _ => s.evaluate
  | none, none => s

/-- A hatch whose inputs changed: its record is brought up to date, the Engine takes the hand-ons,
and an evaluation runs when an entry or a grant has left or joined (R15, R54, R55, R62, R82). R15 fixes
no order of the hand-ons: that SENSOR_DISAGREE and then Mode Control's HATCH_UNSECURED_AT_SEA are raised
or cleared before the Engine acts is the model's choice (DESIGN CHOICE, log 45). -/
def State.hatchEvent (s : State) (h : Nat) : State :=
  let s1 := s.refresh h
  let s2 := s1.engineTakes h
  if s2.queue = s1.queue ∧ s2.granted = s1.granted then s2 else s2.evaluate

end Sys2Proof.Machine
end

