-- ==== Sys2Proof/Machine/Transmit.lean ====
section
/-! DEFINITION. The station lines' shared operations: the REPORT (R163), the transmitter (R162), the
answer to a request (R161), and the handling of a valid telegram up to its owner (R158). -/

namespace Sys2Proof.Machine

/-- What an owner gives for a request: the state after it, the result (`none` while a STORE answer
is held), and the arguments of the answer (R161, R168). -/
abbrev Reply := State × Option Result × List Byte

/-- A failed argument check (R158, R159). -/
def State.badArg (s : State) : Reply := (s, some .badArg, [])

/-! ### REPORT (R163) -/

/-- The validity flag: fill of 4 or more (R113). -/
def Attitude.valid (a : Attitude) : Bool := 4 ≤ a.window.length

/-- READY flag (R130). -/
def State.ready (s : State) : Bool :=
  s.mode == .sea || s.mode == .harbour || s.mode == .commission

/-- The unacknowledged count (R153). -/
def AlarmList.unacked (al : AlarmList) : Nat :=
  (al.recs.filter fun a => a.st != .raisedAck).length

/-- State of pump `n` as two bits; 0 for a pump that is not configured (R168). -/
def State.pumpBits (s : State) (n : Nat) : Nat :=
  match s.pump? n with
  | some p => p.st.code
  | none => 0

/-- B as a REPORT carries it: 0 while no configuration is in force (R163). -/
def State.reportB (s : State) : Nat := if s.inForce.isSome then s.budget else 0

/-- F as a REPORT carries it (R81, R163). -/
def State.reportF (s : State) : Nat := if s.inForce.isSome then s.freeFlow else 0

/-- The three bytes of a hatch in the REPORT (R168). -/
def State.reportHatch (s : State) (hr : Hatch) : List Byte :=
  let st := s.opState hr.num
  [byte hr.position.code, byte st.code,
    byte ((s.holder? hr.num).getD 0 + bit (st == .faulted) 3 + bit hr.stale 4)]

/-- Payload of a REPORT (R163, R168). -/
def State.reportPayload (s : State) : List Byte :=
  [byte s.mode.code,
    byte (bit s.latch 0 + bit s.arm.isSome 1 + bit s.ready 2 + bit s.alarms.overflow 3 +
      bit s.att.valid 4)] ++
  be16 s.reportB ++ be16 s.reportF ++ be16 (s.att.peakHeel.getD 0) ++ be16 (s.att.peakTrim.getD 0) ++
  [byte (s.pumpBits 1 + 4 * s.pumpBits 2 + 16 * s.pumpBits 3 + 64 * s.pumps.length),
    byte s.alarms.unacked] ++
  s.hatches.flatMap s.reportHatch

/-- Key of the REPORT's SEQ among the free values (log 16). -/
def reportSeqKey : Nat := 0

/-- A REPORT as it begins transmission; the spec states no SEQ for it (log 16). -/
def State.report (s : State) : Frame :=
  ⟨kindReport, Config.unstatedByte s.free reportSeqKey, s.reportPayload⟩

/-! ### Transmitter (R162) -/

/-- The frame of an answer whose result is filled in (R161, R168). -/
def Answer.frame (a : Answer) (r : Result) : Frame :=
  ⟨kindAnswer, a.seq, a.kind :: byte r.code :: a.args⟩

/-- A free transmitter chooses the next frame: a due REPORT, else the oldest answer that is not held
(R162, R174). -/
def Line.nextFrame (report : Frame) (ln : Line) : Line :=
  if ln.tx.isSome then ln
  else if ln.link = .active ∧ ln.reportIsDue = true then
    { ln with tx := some report, reportIsDue := false }
  else if ln.link = .active ∨ ln.link = .awaiting then
    match ln.queue with
    | [] => ln
    | a :: rest =>
      match a.result with
      | none => ln
      | some r => { ln with tx := some (a.frame r), queue := rest }
  else ln

/-- The transmitter of a line chooses (R162); the free counter steps, so that no two REPORTs share a
free value (log 35). -/
def State.transmit (s : State) (l : Nat) : State :=
  let s1 := s.updLine l (Line.nextFrame s.report)
  { s1 with free := s1.free + 1 }

/-- The result is counted as a refusal (R161). -/
def Result.isRefusal (r : Result) : Bool := r != .done && r != .started

/-- The answer is counted as a refusal; a held one is not (R161, R174). -/
def Answer.isRefused (a : Answer) : Bool :=
  match a.result with
  | some r => r.isRefusal
  | none => false

/-- A line's record with one more answer (R161). -/
def Line.queued (a : Answer) (ln : Line) : Line :=
  { ln with queue := ln.queue ++ [a]
            refusals := if a.isRefused then inc16 ln.refusals else ln.refusals }

/-- A reply joins the transmit queue of its line (R161). -/
def State.answer (s : State) (l : Nat) (seq kind : Byte) (r : Option Result) (args : List Byte) :
    State :=
  (s.updLine l (Line.queued ⟨seq, kind, r, args⟩)).transmit l

/-! ### A valid telegram (R158) -/

/-- Step 1: the good-telegram count, the silence timer, and DOWN to AWAITING (R155, R156, R158). -/
def State.heard (s : State) (l : Nat) : State :=
  s.updLine l fun ln =>
    { ln with good := inc16 ln.good, silence := some s.now, rx := .hunting,
              link := if ln.link = .down then .awaiting else ln.link }

/-- A frame is abandoned (R157). After a gap, a SYNC byte begins a new frame. -/
def State.abandonFrame (s : State) (l : Nat) (cause : FrameBreak) : State :=
  s.updLine l fun ln =>
    { ln with framingErrs := inc16 ln.framingErrs,
              rx := match cause with
                | .gap b => if b = 0xC5 then .receiving else .hunting
                | .stopBit => .hunting
                | .badLen => .hunting }

/-- A valid telegram of payload length `len` on line `l`: steps 1 to 6 of R158, with `act` for what
comes after the overrun check. A length above 48 is a framing error (R157, log 8). -/
def State.onTelegram (s : State) (l len : Nat) (act : State → Line → State) : State :=
  match s.line? l with
  | none => s
  | some ln =>
    if ln.link = .off then s
    else if 48 < len then s.abandonFrame l .badLen
    else
      let s1 := s.heard l
      if 4 ≤ ln.queue.length then
        s1.updLine l fun x => { x with overruns := inc16 x.overruns }
      else act s1 ln

/-- A request of a KIND that the part knows: NOT_READY on a line in AWAITING unless it is ANNOUNCE,
else the owner's reply (R158 steps 5 to 7). -/
def State.request (s : State) (l len : Nat) (seq kind : Byte) (owner : State → Nat → Reply) :
    State :=
  s.onTelegram l len fun s1 ln =>
    if ln.link ≠ .active ∧ kind ≠ kindAnnounce then s1.answer l seq kind (some .notReady) []
    else
      let r := owner s1 l
      r.1.answer l seq kind r.2.1 r.2.2

/-- An event of line `l`: a line other than 1 to 6 does not exist (R155, log 32), and nothing is
processed in reset or in supply hold (R176). -/
def State.onLine (s : State) (dt l : Nat) (f : State → State) :
    Host.Outcome State Fault Refusal :=
  if 1 ≤ l ∧ l ≤ 6 then .next (s.live dt f) else .fault .noSuchLine

/-- The meaning of a station request. -/
def State.onRequest (s : State) (dt l len : Nat) (seq kind : Byte) (owner : State → Nat → Reply) :
    Host.Outcome State Fault Refusal :=
  s.onLine dt l fun x => x.request l len seq kind owner

/-! ### Tests shared by the owners -/

/-- Class of a line. -/
def State.classOf (s : State) (l : Nat) : LineClass :=
  match s.line? l with
  | some ln => ln.cls
  | none => .none

/-- A line covers a hatch (R117). -/
def State.covers (s : State) (l h : Nat) : Bool :=
  match s.line? l with
  | some ln => ln.link == .active && reachHas ln.reach h
  | none => false

/-- Refusal by part mode that comes before any CLASS check (R49, R119, R122, R131). -/
def State.modeGate (s : State) : Option Result :=
  match s.mode with
  | .loading => some .notReady
  | .unconfigured => some .notConfigured
  | _ => none

/-- The same for HOLD, HALT, YIELD, CLEAR FAULT and CLEAR PUMP, which need a configuration in force
(R137). -/
def State.configGate (s : State) : Option Result :=
  match s.modeGate with
  | some r => some r
  | none => if s.inForce.isNone then some .notConfigured else none

end Sys2Proof.Machine
end

