-- ==== Sys2Proof/Machine/Alarms.lean ====
section
/-! DEFINITION. The Alarm List's commands: ACKNOWLEDGE of one record (R148, R150) and of all records
(R149). -/

namespace Sys2Proof.Machine

/-- A line may acknowledge records of a subject (R148). -/
def State.mayAck (s : State) (l : Nat) (sub : Subject) : Bool :=
  match s.classOf l with
  | .console => true
  | .bridge => true
  | .deck => match sub with
    | .hatch h => s.covers l h
    | _ => false
  | .none => false

/-- Acknowledge one record: what stands in its place, `none` when it leaves the list (R148,
R150). -/
def Alarm.acked (a : Alarm) : Option Alarm :=
  match a.st with
  | .raisedUnack => if a.code = .supplyDip then none else some { a with st := .raisedAck }
  | .clearedUnack => none
  | .raisedAck => some a

/-- Acknowledge every record that `may` admits; the first removal clears the overflow indicator
(R149, R151). -/
def AlarmList.ack (al : AlarmList) (may : Alarm → Bool) : AlarmList :=
  let recs := al.recs.filterMap fun a => if may a then a.acked else some a
  { recs := recs, overflow := al.overflow && recs.length == al.recs.length }

/-- The number of records that an acknowledgement changes (R149). -/
def AlarmList.ackCount (al : AlarmList) (may : Alarm → Bool) : Nat :=
  (al.recs.filter fun a => may a && a.st != .raisedAck).length

/-- Form byte of ACKNOWLEDGE of one record (R168). -/
def ackOneForm : Byte := 1

/-- Form byte of ACKNOWLEDGE of all records. -/
def ackAllForm : Byte := 2

/-- ACKNOWLEDGE of one record from a line (R131, R148). -/
def State.ackOne (s : State) (l : Nat) (c : AlarmCode) (sub : Subject) : State × Result :=
  if s.mode = .unconfigured then (s, .notConfigured)
  else if s.mayAck l sub = false then (s, .noReach)
  else
    match s.alarms.find c sub with
    | none => (s, .notRunning)
    | some _ => ({ s with alarms := s.alarms.ack fun a => a.isOf c sub }, .done)

def requestAckOne (p : List Byte) (s : State) (l : Nat) : Reply :=
  match recordArgs p with
  | none => s.badArg
  | some (c, sub) =>
    let r := s.ackOne l c sub
    (r.1, some r.2, p)

def execAcknowledgeOne (dt l : Nat) (seq : Byte) (p : List Byte) (s : State) :
    Host.Outcome State Fault Refusal :=
  s.onRequest dt l (p.length + 1) seq kindAcknowledge (requestAckOne p)

/-- ACKNOWLEDGE of all records from a line, with the number changed (R131, R149). -/
def State.ackAll (s : State) (l : Nat) : State × Result × Nat :=
  if s.mode = .unconfigured then (s, .notConfigured, 0)
  else
    let may := fun (a : Alarm) => s.mayAck l a.subject
    ({ s with alarms := s.alarms.ack may }, .done, s.alarms.ackCount may)

def requestAckAll (p : List Byte) (s : State) (l : Nat) : Reply :=
  match noArgs p with
  | none => s.badArg
  | some _ =>
    let r := s.ackAll l
    (r.1, some r.2.1, [byte r.2.2])

def execAcknowledgeAll (dt l : Nat) (seq : Byte) (p : List Byte) (s : State) :
    Host.Outcome State Fault Refusal :=
  s.onRequest dt l (p.length + 1) seq kindAcknowledge (requestAckAll p)

end Sys2Proof.Machine
end

