-- ==== Sys2Proof/Machine/Attitude.lean ====
section
/-! DEFINITION. The Attitude Unit's commands: a telegram (R102 to R104), a framing error (R102) and
the silence expiry (R105), with the hand-ons of both axes (R110, R111). -/

namespace Sys2Proof.Machine

/-- Clamp of one value of a reading (R103). -/
def clampAngle (v : Int) : Int := max (-450) (min 450 v)

/-- A reading joins the window; the oldest of 8 leaves (R104). -/
def pushReading (w : List (Int × Int)) (r : Int × Int) : List (Int × Int) :=
  (if w.length < 8 then w else w.tail) ++ [r]

/-- Derive permits and fractions after a change of the window and hand both axes on, trim first
where `trimFirst` says so (R110, log 11). -/
def State.attitudeHandOn (s : State) (trimFirst : Bool) : State :=
  let heel := s.att.heel
  let trim := s.att.trim
  let s1 := { s with att := s.deriveFractions }
  let heelOn := fun (x : State) => x.axisHandOn .roll heel s1.att.heel
  let trimOn := fun (x : State) => x.axisHandOn .fold trim s1.att.trim
  if trimFirst then heelOn (trimOn s1) else trimOn (heelOn s1)

/-- An accepted reading (R103, R104, R105, R110). That ATTITUDE_INVALID is cleared before the axes are handed
on is the model's choice (DESIGN CHOICE, log 51). -/
def State.acceptReading (s : State) (heel trim : Int) (trimFirst : Bool) : State :=
  let r := (clampAngle heel, clampAngle trim)
  let w := pushReading s.att.window r
  let s1 := { s with
    att := { s.att with
      window := w
      silence := some s.now
      accepted := inc16 s.att.accepted
      clamped := if r = (heel, trim) then s.att.clamped else inc16 s.att.clamped } }
  let s2 :=
    if s.att.window.length = 3 then s1.clearAlarm .attitudeInvalid .attitude else s1
  s2.attitudeHandOn trimFirst

/-- Judge an attitude telegram by its CRC-8 and its valid flag (R102). -/
def State.attitudeFrame (s : State) (heel trim : Word) (flags crc : Byte) (trimFirst : Bool) :
    State :=
  let s := { s with att := { s.att with rx := .hunting } }
  if crc8 (be16 heel.toNat ++ be16 trim.toNat ++ [flags]) ≠ crc then
    { s with att := { s.att with crc := inc16 s.att.crc } }
  else if flags.getLsbD 0 = false then
    { s with att := { s.att with invalid := inc16 s.att.invalid } }
  else s.acceptReading heel.toInt trim.toInt trimFirst

def execAttitudeTelegram (dt : Nat) (heel trim : Word) (flags crc : Byte) (trimFirst : Bool)
    (s : State) : Host.Outcome State Fault Refusal :=
  .next (s.live dt fun x => x.attitudeFrame heel trim flags crc trimFirst)

/-- A frame of the attitude line is abandoned (R102). -/
def State.attitudeBreak (s : State) : State :=
  { s with att := { s.att with framing := inc16 s.att.framing, rx := .hunting } }

def execAttitudeFramingError (dt : Nat) (s : State) : Host.Outcome State Fault Refusal :=
  .next (s.live dt State.attitudeBreak)

/-- 1000 ms without an accepted reading (R105). That ATTITUDE_INVALID is raised before the axes are handed on
(R110) is the model's choice (DESIGN CHOICE, log 51). -/
def State.attitudeSilent (s : State) (trimFirst : Bool) : State :=
  if elapsed s.att.silence 1000 s.now then
    let s1 := { s with att := { s.att with window := [], silence := none } }
    (s1.raiseAlarm .attitudeInvalid .attitude).attitudeHandOn trimFirst
  else s

def execAttitudeSilence (dt : Nat) (trimFirst : Bool) (s : State) :
    Host.Outcome State Fault Refusal :=
  .next (s.live dt fun x => x.attitudeSilent trimFirst)

end Sys2Proof.Machine
end

