-- ==== Sys2Proof/Machine/Authority.lean ====
section
/-! DEFINITION. The Authority Table's commands: TAKE (R119 to R121), YIELD (R122) and the claim idle
expiry (R124), with the reach of a line (R116), the loss of a line (R123) and the release of all
claims (R125). -/

namespace Sys2Proof.Machine

/-! ### Reach -/

/-- Resolved reach of a line by its class, announced reach and the configuration in force (R116). -/
def resolveReach (inForce : Option Items) (ln : Line) : Word :=
  match inForce with
  | none => 0
  | some c =>
    if ln.link = .active then
      match ln.cls with
      | .none => 0
      | .deck => ln.annReach.getD 0 &&& cfgReach c ln.num &&& reachUpTo (cfgHatches c)
      | .console => reachUpTo (cfgHatches c)
      | .bridge => reachUpTo (cfgHatches c)
    else 0

/-- Resolve the reach of every line again (R116, R125). -/
def State.resolveAll (s : State) : State :=
  { s with lines := s.lines.map fun ln => { ln with reach := resolveReach s.inForce ln } }

/-! ### Release -/

/-- Release the claim on a hatch and hand the loss to the Hatch Engine (R118, R69). -/
def State.release (s : State) (h : Nat) : State := (s.claimFree h).claimLoss h

/-- A line leaves ACTIVE: its claims are released, STATION_LOST is raised when one of its hatches
was QUEUED or MOVING, its announced data become absent, and its harbour arm is cleared (R115, R123,
R134, R156; log 12 for the one evaluation). -/
def State.lineLost (s : State) (l : Nat) : State :=
  let held := s.heldBy l
  let moving := held.any s.busy
  let s1 := if moving then s.raiseAlarm .stationLost (.line l) else s
  let s2 := held.foldl State.release s1
  let s3 := s2.updLine l fun ln =>
    { ln with annReach := none, holdAbility := none, estopAbility := none, reach := 0 }
  let s4 := { s3 with arm := match s3.arm with
    | some a => if a.line = l then none else some a
    | none => none }
  if moving then s4.evaluate else s4

/-- Release every claim (R125). -/
def State.releaseAll (s : State) : State :=
  ((s.claims.filter fun c => c.holder.isSome).map Claim.hatch).foldl State.release s

/-! ### TAKE -/

/-- The decision of TAKE on the holder of the hatch (R119 to R121). -/
def State.decideTake (s : State) (l h : Nat) : State × Result :=
  match s.holder? h with
  | none => (s.claimGrant h l, .done)
  | some x =>
    if x = l then (s, .done)
    else if s.classOf x = .deck ∧ s.classOf l = .console then
      if s.busy h then (s, .busy) else ((s.release h).claimGrant h l, .done)
    else (s, .held)

/-- TAKE(hatch) from a line: the checks of R119 in their order. A TAKE of the holder restarts the
claim idle timer whatever its answer (R71), although R119 says that a refused TAKE changes no entry: that
R71 prevails where the holder's TAKE is refused is the model's reading (DEDUCED, log 46). -/
def State.take (s : State) (l h : Nat) : State × Result :=
  match s.modeGate with
  | some r => (s, r)
  | none =>
    if s.classOf l = .bridge then (s, .class)
    else
      let s := s.claimTouch h l
      if s.covers l h = false then (s, .noReach)
      else if s.mode = .commission then (s, .mode)
      else s.decideTake l h

/-- TAKE with its argument check and its answer's arguments: with HELD also the holder (R128,
R168). -/
def requestTake (p : List Byte) (s : State) (l : Nat) : Reply :=
  match s.oneHatch p with
  | none => s.badArg
  | some h =>
    let r := s.take l h
    (r.1, some r.2,
      byte h :: (if r.2 = .held then [byte ((r.1.holder? h).getD 0)] else []))

def execTake (dt l : Nat) (seq : Byte) (p : List Byte) (s : State) :
    Host.Outcome State Fault Refusal :=
  s.onRequest dt l p.length seq kindTake (requestTake p)

/-! ### YIELD -/

/-- YIELD(hatch) from a line (R122). -/
def State.yieldHatch (s : State) (l h : Nat) : State × Result :=
  match s.configGate with
  | some r => (s, r)
  | none =>
    if s.holder? h = some l then
      (if s.busy h then (s.release h).evaluate else s.release h, .done)
    else (s, .notHeld)

def requestYield (p : List Byte) (s : State) (l : Nat) : Reply :=
  match s.oneHatch p with
  | none => s.badArg
  | some h =>
    let r := s.yieldHatch l h
    (r.1, some r.2, [byte h])

def execYield (dt l : Nat) (seq : Byte) (p : List Byte) (s : State) :
    Host.Outcome State Fault Refusal :=
  s.onRequest dt l p.length seq kindYield (requestYield p)

/-! ### Claim idle expiry -/

/-- The claim idle timer of a hatch reaches the limit (R71, R124). -/
def State.claimExpiry (s : State) (h : Nat) : State :=
  match s.inForce, s.claim? h with
  | some c, some cl => if elapsed cl.idle (cfgClaimMs c) s.now then s.release h else s
  | _, _ => s

def execClaimIdleExpiry (dt h : Nat) (s : State) : Host.Outcome State Fault Refusal :=
  .next (s.live dt fun x => x.claimExpiry h)

end Sys2Proof.Machine
end

