-- ==== Sys2Proof/Machine/Pumps.lean ====
section
/-! DEFINITION. Pump Control's commands and events: feedback (R93, R95), failure (R94 to R96), the
end of the settle (R93), the idle stop (R97), the emergency stop (R99) and CLEAR PUMP (R98). -/

namespace Sys2Proof.Machine

/-- A pump becomes FAILED: setpoint 0, PUMP_FAILED raised (R94, R95). -/
def State.failPump (s : State) (n : Nat) : State :=
  let s1 := s.updPump n fun p => { p with st := .failed, deadline := none, settle := none }
  ((s1.drivePump n 0).raiseAlarm .pumpFailed (.pump n)).takeBudget

/-- PUMP_RUNNING of a pump qualifies (R93, R95). -/
def State.pumpFeedback (s : State) (n : Nat) (on : Bool) : State :=
  match s.pump? n with
  | none => s
  | some p =>
    match p.st, on with
    | .starting, true =>
      if p.settle.isNone then
        s.updPump n fun x => { x with deadline := none, settle := some (s.now + 3000) }
      else s
    | .starting, false => if p.settle.isSome then s.failPump n else s
    | .running, false => s.failPump n
    | _, _ => s

/-- A pump's node leaves ONLINE (R96). -/
def State.pumpNodeLost (s : State) (n : Nat) : State :=
  match s.pump? n with
  | none => s
  | some p =>
    match p.st with
    | .starting => s.failPump n
    | .running => s.failPump n
    | _ => s

/-- The feedback deadline of a pump is reached (R94). -/
def State.feedbackDeadline (s : State) (n : Nat) : State :=
  match s.pump? n with
  | none => s
  | some p =>
    if p.st = .starting ∧ reached p.deadline s.now = true then s.failPump n else s

def execFeedbackDeadline (dt n : Nat) (s : State) : Host.Outcome State Fault Refusal :=
  .next (s.live dt fun x => x.feedbackDeadline n)

/-- The settle end of a pump is reached (R93). -/
def State.settleEnd (s : State) (n : Nat) : State :=
  match s.pump? n with
  | none => s
  | some p =>
    if p.st = .starting ∧ reached p.settle s.now = true then
      (s.updPump n fun x => { x with st := .running, settle := none }).takeBudget
    else s

def execSettleEnd (dt n : Nat) (s : State) : Host.Outcome State Fault Refusal :=
  .next (s.live dt fun x => x.settleEnd n)

/-- Stop a pump unless it is FAILED (R97, R99). -/
def State.stopPump (s : State) (n : Nat) : State :=
  match s.pump? n with
  | none => s
  | some p =>
    if p.st = .failed then s
    else
      (s.updPump n fun x => { x with st := .off, deadline := none, settle := none }).drivePump n 0

/-- Stop every pump that is not FAILED; B and MaxB follow (R75, R97, R99). -/
def State.stopPumps (s : State) : State :=
  let s1 := (s.pumps.map Pump.num).foldl State.stopPump s
  { s1 with budget := s1.computeB, maxB := s1.computeMaxB }

/-- The idle timer of the power pack reaches 60 s (R97). -/
def State.idleStop (s : State) : State :=
  if elapsed s.pumpIdle 60000 s.now then State.stopPumps { s with pumpIdle := none } else s

def execPumpIdleStop (dt : Nat) (s : State) : Host.Outcome State Fault Refusal :=
  .next (s.live dt State.idleStop)

/-- CLEAR PUMP(n) from a line (R98). -/
def State.clearPump (s : State) (l n : Nat) : State × Result :=
  match s.configGate with
  | some r => (s, r)
  | none =>
    if s.classOf l ≠ .console then (s, .class)
    else
      match s.pump? n with
      | none => (s, .notRunning)
      | some p =>
        if p.st = .failed then
          (((s.updPump n fun x => { x with st := .off }).clearAlarm .pumpFailed
            (.pump n)).takeBudget, .done)
        else (s, .notRunning)

/-- Target of CLEAR (R169). -/
def clearPumpTarget : Byte := 2

def requestClearPump (p : List Byte) (s : State) (l : Nat) : Reply :=
  match s.pumpArg p with
  | none => s.badArg
  | some n =>
    let r := s.clearPump l n
    (r.1, some r.2, [clearPumpTarget, byte n])

def execClearPump (dt l : Nat) (seq : Byte) (p : List Byte) (s : State) :
    Host.Outcome State Fault Refusal :=
  s.onRequest dt l (p.length + 1) seq kindClear (requestClearPump p)

end Sys2Proof.Machine
end

