-- ==== Sys2Proof/Machine/Store.lean ====
section
/-! DEFINITION. The Configuration Store: validation (R172), the build of every block (R1, R22, R41,
R73, R101, R114, R125), the entry to UNCONFIGURED, start-up (R178), and the commands WRITE (R173),
STORE and STORE_WRITE_COMPLETE (R174). -/

namespace Sys2Proof.Machine

/-! ### Validation (R172) -/

/-- The numbers 1 to `n`. -/
def upTo (n : Nat) : List Nat := (List.range n).map (· + 1)

/-- Check 4: every item within its range, and Fl below Sl on each axis. -/
def limitsOk (c : Items) : Bool :=
  (c.all fun e => indexOk (e.1 / 256) (e.1 % 256) && valueOk (e.1 / 256) e.2) &&
    itemNat c 12 0 < itemNat c 13 0 && itemNat c 15 0 < itemNat c 16 0

/-- Cleat numbers that the entries give a hatch. -/
def cleatNumbers (c : Items) (h : Nat) : List Nat :=
  ((cfgCleats c).filter fun e => e.1 == h).map fun e => e.2.2

/-- Configured cleat count of a hatch (R171). -/
def cleatCount (c : Items) (h : Nat) : Nat := (cleatNumbers c h).length

/-- Check 1: cleat entries on configured hatches and groups, each hatch's cleats numbered from 1
without gap or repeat, 1 to 24 of them. -/
def cleatsOk (c : Items) : Bool :=
  ((cfgCleats c).all fun e => e.1 ≤ cfgHatches c && e.2.1 ≤ cfgGroups c e.1) &&
    (upTo (cfgHatches c)).all fun h =>
      1 ≤ cleatCount c h && cleatCount c h ≤ 24 &&
        (upTo (cleatCount c h)).all fun n => (cleatNumbers c h).contains n

/-- Every nonzero binding item with its point code and node (R171). -/
def allBindings (c : Items) : List (Nat × Point) :=
  c.filterMap fun e =>
    if 32 ≤ e.1 / 256 then
      (bindingOf (e.1 / 256) (e.1 % 256) e.2).map fun p => (e.1 / 256, p)
    else none

/-- The cover type that a role is limited to (R172 check 2; log 41 for the lift and lower valves). -/
def Role.onlyOn (r : Role) : Option Cover :=
  match r with
  | .panelOpen => some .roll
  | .panelLifted => some .roll
  | .panelLowered => some .roll
  | .travelOpenValve => some .roll
  | .travelCloseValve => some .roll
  | .panelFolded => some .fold
  | .foldOpenValve => some .fold
  | .foldCloseValve => some .fold
  | _ => none

/-- Subject and index of a binding lie in range for its role (R31, R172; log 22 for pumps). -/
def subjectOk (c : Items) (p : Point) : Bool :=
  let h := p.subject
  if p.role = .pumpRunning ∨ p.role = .pumpRun then
    1 ≤ h && h ≤ cfgPumps c && (p.index == 0 || p.index == h)
  else if p.role.isThermostat then h == 0 && p.index == 0
  else
    1 ≤ h && h ≤ cfgHatches c &&
      (p.role.onlyOn == none || p.role.onlyOn == some (cfgCover c h)) &&
      (if p.role.isCleatInput then 1 ≤ p.index && p.index ≤ cleatCount c h
       else if p.role = .cleatReleaseValve ∨ p.role = .cleatEngageValve then
         1 ≤ p.index && p.index ≤ cfgGroups c h
       else if p.role = .hatchPressure ∨ p.role = .liftValve ∨ p.role = .lowerValve then
         p.index == 0
       else p.index == 1 || p.index == 2)

/-- Two bindings bind the same role for the same subject and index (R172; log 22 for pumps). -/
def Point.sameRole (p q : Point) : Bool :=
  p.role == q.role && p.subject == q.subject &&
    (p.index == q.index || p.role == .pumpRunning || p.role == .pumpRun)

/-- Check 2 for one binding: its node present, the point of the right kind, subject and index. -/
def bindingOk (c : Items) (b : Nat × Point) : Bool :=
  let p := b.2
  bits (getItem c 8 p.node) 15 1 == 1 &&
    p.role.isInput == decide (b.1 < 48) &&
    (!p.role.isProportional || bits (getItem c 8 p.node) p.point 1 == 1) &&
    subjectOk c p

/-- Check 2: every binding in order, and no role bound twice. -/
def bindingsOk (c : Items) : Bool :=
  let bs := allBindings c
  bs.all (bindingOk c) && bs.all fun b => (bs.filter fun d => d.2.sameRole b.2).length == 1

/-- The roles that a hatch must have, with their indexes (R172 check 3). -/
def requiredOf (c : Items) (h : Nat) : List (Role × Nat) :=
  let panels : List Role := match cfgCover c h with
    | .roll => [.panelClosed, .panelOpen, .panelLifted, .panelLowered, .travelOpenValve,
        .travelCloseValve]
    | .fold => [.panelClosed, .panelFolded, .foldOpenValve, .foldCloseValve]
  let whole : List (Role × Nat) := match cfgCover c h with
    | .roll => [(.hatchPressure, 0), (.liftValve, 0), (.lowerValve, 0)]
    | .fold => [(.hatchPressure, 0)]
  (panels.flatMap fun r => [(r, 1), (r, 2)]) ++ whole ++
    ((upTo (cfgGroups c h)).flatMap fun g => [(.cleatReleaseValve, g), (.cleatEngageValve, g)]) ++
    (upTo (cleatCount c h)).map fun n => (.cleatEngaged, n)

/-- Check 3: every required role is bound. -/
def rolesOk (c : Items) : Bool :=
  let bs := allBindings c
  ((upTo (cfgHatches c)).all fun h =>
    (requiredOf c h).all fun q =>
      bs.any fun b => b.2.role == q.1 && b.2.subject == h && b.2.index == q.2) &&
  (upTo (cfgPumps c)).all fun n =>
    (bs.any fun b => b.2.role == .pumpRun && b.2.subject == n) &&
      bs.any fun b => b.2.role == .pumpRunning && b.2.subject == n

/-- The configuration is valid (R172). -/
def validConfig (c : Items) : Bool := limitsOk c && cleatsOk c && bindingsOk c && rolesOk c

/-! ### The build -/

/-- Start value of a cleat record (R21). -/
def buildCleat (points : List Point) (h n g : Nat) : Cleat :=
  ⟨n, g, points.any fun p => p.role == .cleatReleased && p.subject == h && p.index == n, .idle,
    .unknown⟩

/-- Cleat records of a hatch, in ascending cleat number (R5, R21). -/
def buildCleats (c : Items) (points : List Point) (h : Nat) : List Cleat :=
  (upTo 24).filterMap fun n =>
    ((cfgCleats c).find? fun e => e.1 == h && e.2.2 == n).map fun e => buildCleat points h n e.2.1

/-- Start value of a hatch record (R21). -/
def buildHatch (c : Items) (points : List Point) (h : Nat) : Hatch :=
  { num := h
    cover := cfgCover c h
    groups := (upTo (cfgGroups c h)).map fun g => ⟨g, .none⟩
    cleats := buildCleats c points h
    panel1 := ⟨.unknown, .unknown⟩
    panel2 := ⟨.unknown, .unknown⟩
    engaged := 0
    position := .unknown
    stale := true
    disagree := false
    heavy := 0
    completed := 0
    classifier := .idle }

/-- Start value of an operation record (R73). -/
def Op.idle (h : Nat) : Op :=
  ⟨h, .none, none, [], .idle, 0, none, none, none, none, none⟩

/-- Start value of a node record with its slice of the output image (R41). -/
def buildNode (c : Items) (a : Nat) : Node :=
  ⟨a, byte (getItem c 8 a).toNat, .absent, 0, 0, none, List.replicate 8 0⟩

/-- The alarm codes that a build and the entry to UNCONFIGURED clear (R21, R41, R73, R101). -/
def buildCodes : List AlarmCode :=
  [.sensorDisagree, .nodeLost, .sensorChatter, .stall, .jammed, .timeout, .pressureStuck,
    .pumpFailed, .oilHot]

/-- Every block is built from a valid configuration (R1, R22, R41, R73, R101, R114, R125). -/
def State.build (s : State) (c : Items) : State :=
  let points := cfgPoints c
  let hs := upTo (cfgHatches c)
  let s1 := { s with
    inForce := some c
    nodes := (cfgNodes c).map (buildNode c)
    points := points
    scan := ⟨0, s.now, none, false, false, []⟩
    hatches := hs.map (buildHatch c points)
    ops := hs.map Op.idle
    claims := hs.map fun h => ⟨h, none, none⟩
    queue := []
    granted := []
    pumps := (upTo (cfgPumps c)).map fun n => ⟨n, cfgPumpFlow c n, .off, none, none⟩
    pumpIdle := some s.now }
  let s2 := { s1 with band := s1.deriveBand }
  let s3 := { s2 with budget := s2.computeB, maxB := s2.computeMaxB, att := s2.deriveFractions }
  (s3.clearAlarms buildCodes).resolveAll

/-- The records of every block are discarded at the entry to UNCONFIGURED (R1, R22, R41, R73, R101,
R114, R125). Band NORMAL and a stopped pump idle timer are the model's choice there (DESIGN CHOICE,
log 5). -/
def State.discard (s : State) : State :=
  let s1 := { s with
    inForce := none
    nodes := []
    points := []
    scan := Scan.stopped
    hatches := []
    ops := []
    claims := []
    queue := []
    granted := []
    pumps := []
    pumpIdle := none
    band := .normal
    budget := 0
    maxB := 0
    att := { s.att with heel := none, trim := none } }
  (s1.clearAlarms buildCodes).resolveAll

/-- The part mode becomes UNCONFIGURED, the records are discarded and CONFIG_INVALID is raised (R138,
R178). -/
def State.enterUnconfigured (s : State) : State :=
  State.raiseAlarm { s.discard with mode := .unconfigured } .configInvalid .part

/-- Start-up reads the stored image (R178). -/
def State.startUp (s : State) : State :=
  let s := { s with started := true }
  match s.image with
  | .whole c =>
    if validConfig c then State.build { s with working := c } c
    else State.enterUnconfigured { s with working := c }
  | .bad => State.enterUnconfigured { s with working := [] }

/-- The part with its stored image read, where that has not been done since reset release (R178; at an
idle step or a SCAN: DESIGN CHOICE, log 4). -/
def State.loaded (s : State) : State := if s.started = true then s else s.startUp

/-! ### WRITE -/

/-- The first checks of WRITE and STORE (R173, R174). -/
def State.storeGate (s : State) (l : Nat) : Option Result :=
  if s.classOf l ≠ .console then some .class
  else if s.mode = .loading then some .notReady
  else if s.mode = .sea ∨ s.mode = .harbour then some .mode
  else if s.storing.isSome then some .busy
  else none

/-- WRITE(item, index, value) from a line (R173). -/
def State.writeItem (s : State) (l code idx : Nat) (v : Word) : State × Result :=
  match s.storeGate l with
  | some r => (s, r)
  | none =>
    if indexOk code idx && valueOk code v then
      ({ s with working := setItem s.working code idx v }, .done)
    else (s, .badArg)

def requestWrite (p : List Byte) (s : State) (l : Nat) : Reply :=
  match writeArgs p with
  | none => s.badArg
  | some (code, idx, v) =>
    let r := s.writeItem l code idx v
    (r.1, some r.2, if r.2 = .badArg then [] else [byte code, byte idx])

def execWrite (dt l : Nat) (seq : Byte) (p : List Byte) (s : State) :
    Host.Outcome State Fault Refusal :=
  s.onRequest dt l p.length seq kindWrite (requestWrite p)

/-! ### STORE -/

/-- STORE from a line: the write begins with the stored image erased, and the answer is held
(R174). -/
def State.storeImage (s : State) (l : Nat) : State × Option Result :=
  match s.storeGate l with
  | some r => (s, some r)
  | none =>
    if validConfig s.working then
      ({ s with storing := some s.working, image := .bad }, none)
    else (s, some .invalid)

def requestStore (p : List Byte) (s : State) (l : Nat) : Reply :=
  match noArgs p with
  | none => s.badArg
  | some _ =>
    let r := s.storeImage l
    (r.1, r.2, [])

def execStore (dt l : Nat) (seq : Byte) (p : List Byte) (s : State) :
    Host.Outcome State Fault Refusal :=
  s.onRequest dt l p.length seq kindStore (requestStore p)

/-- The held answers of a line are filled in with DONE (R174). -/
def Line.fillHeld (ln : Line) : Line :=
  { ln with queue := ln.queue.map fun a =>
      { a with result := some (a.result.getD .done) } }

/-- The write of a STORE completes (R174); a free transmitter may now send the answer (R162). -/
def State.storeComplete (s : State) : State :=
  match s.storing with
  | none => s
  | some c =>
    let s1 := { s with storing := none, image := .whole c, lines := s.lines.map Line.fillHeld }
    (upTo 6).foldl State.transmit s1

def execStoreWriteComplete (dt : Nat) (s : State) : Host.Outcome State Fault Refusal :=
  .next (s.live dt State.storeComplete)

end Sys2Proof.Machine
end

