-- ==== Sys2Proof/Machine/Field.lean ====
section
/-! DEFINITION. The Field Scanner's and Qualifier's commands: the start of a scan (R23), a field
reply and the end of a slot (R24), with node states (R25), loss and return of a node (R26 to R28),
debounce and chatter (R33 to R35), and hatch pressure (R38 to R40, R60). -/

namespace Sys2Proof.Machine

/-! ### Loss and return of a node -/

/-- Bring every hatch record up to date. -/
def State.refreshAll (s : State) : State := (s.hatches.map Hatch.num).foldl State.refresh s

/-- A point loses its node: stale, pending value discarded without a chatter (R37). -/
def Point.lose (p : Point) : Point := { p with stale := true, pend := none }

/-- A point's node is ONLINE again (R28, R37). -/
def Point.regain (p : Point) : Point :=
  { p with stale := p.role.isInput && p.qual.isNone }

/-- Update every point of a node. -/
def State.mapPoints (s : State) (a : Nat) (f : Point → Point) : State :=
  { s with points := s.points.map fun p => if p.node = a then f p else p }

/-- Hatches whose pressure point is on a node. -/
def State.pressureHatches (s : State) (a : Nat) : List Nat :=
  (s.points.filter fun p => p.role == .hatchPressure && p.node == a).map Point.subject

/-- The step of a hatch is QUEUED or MOVING and uses a point of a node (R27). -/
def State.motionUses (s : State) (a h : Nat) : Bool :=
  match s.op? h, s.hatch? h with
  | some o, some hr =>
    match o.step? with
    | some st => s.busy h && s.points.any fun p => p.node == a && hr.usesPoint st p
    | none => false
  | _, _ => false

/-- The Engine takes the loss of a node: all halts, then one evaluation (R27, log 12). -/
def State.engineNodeLost (s : State) (a : Nat) : State :=
  let hs := (s.hatches.map Hatch.num).filter (s.motionUses a)
  if hs.isEmpty then s
  else (hs.foldl (fun x h => x.pauseOp h .nodeLost) s).evaluate

/-- Pumps bound on a node (R96). -/
def State.pumpsOn (s : State) (a : Nat) : List Nat :=
  (s.pumps.map Pump.num).filter fun n =>
    s.points.any fun p =>
      p.node == a && p.subject == n && (p.role == .pumpRun || p.role == .pumpRunning)

/-- Pump Control takes the loss of a node, in ascending pump order and then the band (R74, R96,
log 14). -/
def State.supplyNodeLost (s : State) (a : Nat) : State :=
  ((s.pumpsOn a).foldl State.pumpNodeLost s).rederiveBand

/-- A node goes from ONLINE to LOST (R26). -/
def State.nodeLost (s : State) (a : Nat) (pumpsFirst : Bool) : State :=
  let s1 := (s.raiseAlarm .nodeLost (.node a)).mapPoints a Point.lose
  let s2 := s1.refreshAll
  let s3 := (s2.pressureHatches a).foldl
    (fun x h => x.updOp h fun o => { o with watch := none }) s2
  if pumpsFirst then (s3.supplyNodeLost a).engineNodeLost a
  else (s3.engineNodeLost a).supplyNodeLost a

/-- A node comes ONLINE from ABSENT or LOST (R28). R28 fixes no order of the alarms: that NODE_LOST is
cleared before the hatch records and the band follow is the model's choice (DESIGN CHOICE, log 48). -/
def State.nodeReturn (s : State) (a : Nat) (fromLost : Bool) : State :=
  let s1 := if fromLost then s.clearAlarm .nodeLost (.node a) else s
  ((s1.mapPoints a Point.regain).refreshAll).rederiveBand

/-! ### Qualification -/

/-- Update the point of a node's input `k`. -/
def State.updInput (s : State) (a k : Nat) (f : Point → Point) : State :=
  { s with points := s.points.map fun p =>
      if p.node = a ∧ p.point = k ∧ p.role.isInput = true then f p else p }

/-- The binding of input `k` of a node. -/
def State.input? (s : State) (a k : Nat) : Option Point :=
  s.points.find? fun p => p.node == a && p.point == k && p.role.isInput

/-- Subject of SENSOR_CHATTER for a point (R35). -/
def Point.chatterSubject (p : Point) : Subject :=
  if p.role.isPanelInput || p.role.isCleatInput then .hatch p.subject else .powerPack

/-- A debounced point that serves the subject has a chatter count of 50 or more (R35). -/
def State.chatterReached (s : State) (sub : Subject) : Bool :=
  s.points.any fun q =>
    q.role.isInput && q.role != .hatchPressure && q.chatterSubject == sub && decide (50 ≤ q.chatter)

/-- A chatter of a point `p`, whose count is about to rise (R35): the alarm is raised as it goes from 49 to
50, and not again when a second point of the same subject reaches 50. All counts go to 0 together, so the
alarm has been raised when another point of the subject stands at 50. -/
def State.noteChatter (s : State) (p : Point) : State :=
  if p.chatter = 49 ∧ s.chatterReached p.chatterSubject = false then
    s.raiseAlarm .sensorChatter p.chatterSubject
  else s

/-- What a sample does to a debounced point (R33, R34): the point after it, whether a value has
qualified, and whether the sample was a chatter. `n` is the qualification count, `no` the scan. -/
def Point.debounce (p : Point) (n no : Nat) (v : Bool) : Point × Bool × Bool :=
  match p.qual, p.pend with
  | some q, none => if v = q then (p, false, false) else ({ p with pend := some (v, no) }, false, false)
  | some q, some (_, first) =>
    if v = q then ({ p with pend := none, chatter := inc16 p.chatter }, false, true)
    else if first + n ≤ no then
      ({ p with qual := some v, pend := none, stale := false }, true, false)
    else (p, false, false)
  | none, none => ({ p with pend := some (v, no) }, false, false)
  | none, some (pv, first) =>
    if v = pv then
      if first + n ≤ no then ({ p with qual := some v, pend := none, stale := false }, true, false)
      else (p, false, false)
    else ({ p with pend := some (v, no), chatter := inc16 p.chatter }, false, true)

/-- A qualified change is handed to the block that owns the role (R36). -/
def State.handOn (s : State) (p : Point) (v : Bool) : State :=
  if p.role.isPanelInput || p.role.isCleatInput then s.hatchEvent p.subject
  else if p.role = .pumpRunning then s.pumpFeedback p.subject v
  else s.rederiveBand

/-- Qualification count of a role in the configuration in force (R32). -/
def State.scansFor (s : State) (r : Role) : Nat :=
  match s.inForce with
  | some c => cfgScans c r
  | none => 1

/-- The Qualifier takes a sample of a debounced point (R33 to R36). -/
def State.sampleDebounced (s : State) (p : Point) (v : Bool) : State :=
  let (p', qualified, chattered) := p.debounce (s.scansFor p.role) s.scan.no v
  let put := fun (x : State) => x.updInput p.node p.point fun _ => p'
  if qualified then (put s).handOn p' v
  else if chattered then put (s.noteChatter p)
  else put s

/-! ### Hatch pressure -/

/-- The STALL of a MOVING step is taken by the Engine (R60). That the alarm is raised before the evaluation
on the returned grant is the model's choice (DESIGN CHOICE, log 51). -/
def State.takeStall (s : State) (h : Nat) : State :=
  match s.op? h with
  | none => s
  | some o =>
    if o.st = .moving then
      let n := o.stalls + 1
      let s1 := if n < 3 then s.pauseOp h .stall else s.faultOp h .jammed
      let s2 := s1.updOp h fun x => { x with stalls := n, watch := some s.now }
      State.evaluate
        (if n < 3 then s2.raiseAlarm .stall (.hatch h) else s2.raiseAlarm .jammed (.hatch h))
    else s

/-- Spike reject of a hatch (R40). -/
def State.rejectsSpikes (s : State) (h : Nat) : Bool :=
  match s.inForce with
  | some c => cfgSpikeReject c h
  | none => true

/-- What a sample does to a classifier (R39, R40): the state after it, whether the heavy count is
incremented, whether a STALL is reported. -/
def Classifier.sample (c : Classifier) (no : Nat) (reject high : Bool) :
    Classifier × Bool × Bool :=
  match c with
  | .idle => (.idle, false, false)
  | .stalled => (.stalled, false, false)
  | .watching => (if high then .timing (some no) else .watching, false, false)
  | .timing none => (if high then .timing (some no) else .watching, false, false)
  | .timing (some first) =>
    let time := 20 * (no - first)
    if high then
      if 1200 ≤ time then (.stalled, false, true) else (.timing (some first), false, false)
    else (.watching, !(time < 200 && reject), false)

/-- The Qualifier takes a sample of a HATCH_PRESSURE point (R38 to R40, R61). -/
def State.samplePressure (s : State) (p : Point) (high : Bool) : State :=
  let h := p.subject
  let s1 := s.updInput p.node p.point fun x => { x with qual := some high, stale := false }
  let s2 := if high then s1 else s1.updOp h fun o => { o with watch := none }
  match s2.hatch? h with
  | none => s2
  | some hr =>
    let (c, heavy, stall) := hr.classifier.sample s.scan.no (s.rejectsSpikes h) high
    let s3 := s2.updHatch h fun x =>
      { x with classifier := c, heavy := if heavy then inc16 x.heavy else x.heavy }
    if stall then s3.takeStall h else s3

/-- The Qualifier takes the sample of input `k` of a node (R33, R38). -/
def State.sampleInput (s : State) (a : Nat) (w : Word) (k : Nat) : State :=
  match s.input? a k with
  | none => s
  | some p =>
    let v := w.getLsbD k != p.inverted
    if p.role = .hatchPressure then s.samplePressure p v else s.sampleDebounced p v

/-- The inputs 0 to 15 in the order that a command gives, the rest ascending (R36, log 11). -/
def inputOrder (order : List Nat) : List Nat :=
  let given := (order.filter fun k => k < 16).eraseDups
  given ++ (List.range 16).filter fun k => !(given.contains k)

/-- The Qualifier takes the sample of every bound input of a node (R33). -/
def State.sampleNode (s : State) (a : Nat) (w : Word) (order : List Nat) : State :=
  (inputOrder order).foldl (fun x k => x.sampleInput a w k) s

/-! ### Turns -/

/-- The turn of the node in place `k` begins: its poll is sent (R23). -/
def State.beginTurn (s : State) (k : Nat) : State :=
  match s.nodes[k]? with
  | some n => { s with scan := s.scan.polling k n }
  | none => s

/-- A scan begins when its time has come: its first node is polled (R23, log 24). -/
def State.beginScan (s : State) : State :=
  if s.nodes.isEmpty ∨ s.now < s.scan.due then s
  else
    State.beginTurn
      { s with scan := { s.scan with no := s.scan.no + 1, due := s.scan.due + 20 } } 0

/-- The slot of place `k` has begun, and that of place `k - 1` has ended, in whole ms (R23; DESIGN CHOICE,
log 23): between this and `Scan.slotReached` lies less than 1 ms. -/
def State.slotBegun (s : State) (k : Nat) : Bool := s.scan.due + 2 * k / 5 ≤ s.now + 20

/-- A poll is due (R23): the first of a scan, or that of the node after place `k`, whose turn a reply
has ended. The poll carries the output image as it stands now. -/
def State.pollNext (s : State) : State :=
  match s.scan.place with
  | none => s.beginScan
  | some k => if s.scan.replied ∧ s.slotBegun (k + 1) = true then s.beginTurn (k + 1) else s

/-- A SCAN: the first scan begins when the stored image has been loaded (R23, R178), so the image is
read before it where that has not been done (DESIGN CHOICE, log 4). -/
def State.takeScan (s : State) : State := s.loaded.pollNext

def execScan (dt : Nat) (s : State) : Host.Outcome State Fault Refusal :=
  .next (s.live dt State.takeScan)

/-- READY at the end of the first scan after a load (R178, R133, R139). -/
def State.becomeReady (s : State) : State :=
  let s1 := { s with mode := s.retained.mode.part }
  let s2 :=
    if s1.mode = .sea then
      (s1.hatches.filter fun hr => hr.position != .secured).foldl
        (fun x hr => x.raiseAlarm .hatchUnsecuredAtSea (.hatch hr.num)) s1
    else s1
  if s.retained.cause = .supply then s2.raiseAlarm .supplyDip .part else s2

/-- The turn in place `k` has ended: with the last turn of a scan the scan ends, and the first scan
after a load makes the part READY (R23). -/
def State.endTurn (s : State) (k : Nat) : State :=
  if s.nodes.length ≤ k + 1 then
    let s1 := { s with scan := { s.scan with place := none, replied := false, firstOver := true } }
    if s.mode = .loading ∧ s.scan.firstOver = false then s1.becomeReady else s1
  else s

/-- A turn judged a miss (R25). -/
def State.missTurn (s : State) (n : Node) (pumpsFirst : Bool) : State :=
  let m := min (n.misses + 1) 3
  if n.st = .online ∧ m = 3 then
    (s.updNode n.addr fun x => { x with misses := 3, goods := 0, st := .lost }).nodeLost n.addr
      pumpsFirst
  else s.updNode n.addr fun x => { x with misses := if n.st = .lost then 3 else m, goods := 0 }

/-- A turn judged a good reply with its input bits (R24, R25, R28, R37). -/
def State.goodTurn (s : State) (n : Node) (w : Word) (order : List Nat) : State :=
  match n.st with
  | .online =>
    (s.updNode n.addr fun x => { x with misses := 0, goods := 2, sample := some w }).sampleNode
      n.addr w order
  | _ =>
    let s1 := s.updNode n.addr fun x =>
      { x with misses := 0, goods := min (n.goods + 1) 2, sample := some w }
    if n.goods + 1 < 2 then s1
    else
      let s2 := s1.updNode n.addr fun x => { x with st := .online }
      (s2.nodeReturn n.addr (n.st == .lost)).sampleNode n.addr w order

/-- The input bits of a reply that is good for a node; `none` for a miss (R24, R170). Bit `k` is
input `k`. -/
def replyBits (a : Nat) (bytes : List Byte) : Option Word :=
  match bytes with
  | [b0, b1, b2, b3] =>
    if b0 = byte a ∧ crc8 [b0, b1, b2] = b3 then some (word b2 b1) else none
  | _ => none

/-- The turn that a reply or slot end of node `a` belongs to. Where the turn before it has ended with a
reply and this one begins in the present ms, its slot begins just before this command: a reply shows that
the node has been polled (DESIGN CHOICE, log 23). Before the start of its slot a node has no turn (R23,
R24). -/
def State.turnOf (s : State) (a : Nat) : State × Option (Nat × Node) :=
  match s.scan.place with
  | none => (s, none)
  | some k =>
    match s.nodes[k]?, s.nodes[k + 1]? with
    | some n, _ =>
      if n.addr = a then (s, if s.scan.replied then none else some (k, n))
      else if s.scan.replied && s.slotBegun (k + 1) then
        match s.nodes[k + 1]? with
        | some n' =>
          if n'.addr = a then (s.beginTurn (k + 1), some (k + 1, n')) else (s, none)
        | none => (s, none)
      else (s, none)
    | none, _ => (s, none)

/-- A field reply to the poll of node `turn` (R24). A reply whose turn has ended is discarded. -/
def State.fieldReply (s : State) (turn : Nat) (bytes : List Byte) (order : List Nat)
    (pumpsFirst : Bool) : State :=
  match s.turnOf turn with
  | (s1, none) => s1
  | (s1, some (k, n)) =>
    let s2 := { s1 with scan := { s1.scan with replied := true } }
    let s3 :=
      match replyBits n.addr bytes with
      | some w => s2.goodTurn n w order
      | none => s2.missTurn n pumpsFirst
    s3.endTurn k

def execFieldReply (dt turn : Nat) (bytes : List Byte) (order : List Nat) (pumpsFirst : Bool)
    (s : State) : Host.Outcome State Fault Refusal :=
  .next (s.live dt fun x => x.fieldReply turn bytes order pumpsFirst)

/-- The slot of a node ends with no reply taken (R24): the turn is a miss and the next begins. A slot
ends with the start of the next one, (k + 1) × 400 µs after the start of the scan for place `k` (R23); a
slot end that comes before the ms of that time changes nothing (log 2, log 23). -/
def State.slotEnd (s : State) (a : Nat) (pumpsFirst : Bool) : State :=
  match s.turnOf a with
  | (_, none) => s
  | (s1, some (k, n)) =>
    if s.slotBegun (k + 1) = true then ((s1.missTurn n pumpsFirst).endTurn k).beginTurn (k + 1)
    else s

def execSlotEnd (dt node : Nat) (pumpsFirst : Bool) (s : State) :
    Host.Outcome State Fault Refusal :=
  .next (s.live dt fun x => x.slotEnd node pumpsFirst)

end Sys2Proof.Machine
end

