-- ==== Sys2Proof/Machine/Lines.lean ====
section
/-! DEFINITION. The Line Interface's own commands: ANNOUNCE (R160), IDLE (R158), frame errors (R157),
silence expiry (R156), REPORT due and end of a frame (R162), CLEAR COUNTERS (R165). -/

namespace Sys2Proof.Machine

/-! ### ANNOUNCE -/

/-- Put the announced data into a line's record and resolve its reach (R115, R116). -/
def State.enroll (s : State) (l : Nat) (mask : Word) (estop hold : Bool) : State :=
  s.updLine l fun ln =>
    let x := { ln with annReach := some mask, holdAbility := some hold,
                       estopAbility := some estop }
    { x with reach := resolveReach s.inForce x }

/-- Configured hatch count, 0 while no configuration is in force (R160). -/
def State.hatchCount (s : State) : Nat :=
  match s.inForce with
  | some c => cfgHatches c
  | none => 0

/-- ANNOUNCE on a line (R160). -/
def State.announce (s : State) (l : Nat) (c : LineClass) (mask : Word) (estop hold : Bool) :
    State × Result :=
  match s.line? l with
  | none => (s, .class)
  | some ln =>
    if ln.link = .active then
      if s.heldBy l ≠ [] then (s, .held)
      else if c ≠ ln.cls then (s.raiseAlarm .classMismatch (.line l), .class)
      else ((s.enroll l mask estop hold).clearAlarm .classMismatch (.line l), .done)
    else if c ≠ ln.cls then (s.raiseAlarm .classMismatch (.line l), .class)
    else
      let s1 := s.updLine l fun x =>
        { x with link := .active, reportAt := some (s.now + 500), reportIsDue := false }
      let s2 := (s1.enroll l mask estop hold).clearAlarm .classMismatch (.line l)
      (s2.clearAlarm .stationLost (.line l), .done)

/-- ANNOUNCE with its argument check; DONE carries the hatch count and the part mode (R168). -/
def requestAnnounce (p : List Byte) (s : State) (l : Nat) : Reply :=
  match announceArgs p with
  | none => s.badArg
  | some (c, mask, estop, hold) =>
    let r := s.announce l c mask estop hold
    (r.1, some r.2, if r.2 = .done then [byte r.1.hatchCount, byte r.1.mode.code] else [])

def execAnnounce (dt l : Nat) (seq : Byte) (p : List Byte) (s : State) :
    Host.Outcome State Fault Refusal :=
  s.onRequest dt l p.length seq kindAnnounce (requestAnnounce p)

/-! ### IDLE and frame errors -/

/-- An IDLE telegram of payload length `len` (R158 step 2): it ends before the overrun check. -/
def State.idleTelegram (s : State) (l len : Nat) : State :=
  match s.line? l with
  | none => s
  | some ln =>
    if ln.link = .off then s
    else if 48 < len then s.abandonFrame l .badLen
    else s.heard l

def execIdle (dt l : Nat) (_seq : Byte) (p : List Byte) (s : State) :
    Host.Outcome State Fault Refusal :=
  s.onLine dt l fun x => x.idleTelegram l p.length

/-- A frame whose CRC-16 fails (R157); a line that is OFF counts nothing (R165). -/
def State.crcFail (s : State) (l : Nat) : State :=
  s.updLine l fun ln =>
    if ln.link = .off then ln
    else { ln with crcErrs := inc16 ln.crcErrs, rx := .hunting }

def execCrcError (dt l : Nat) (s : State) : Host.Outcome State Fault Refusal :=
  s.onLine dt l fun x => x.crcFail l

/-- A frame is abandoned on a line (R157). -/
def State.framingFail (s : State) (l : Nat) (cause : FrameBreak) : State :=
  match s.line? l with
  | none => s
  | some ln => if ln.link = .off then s else s.abandonFrame l cause

def execFramingError (dt l : Nat) (cause : FrameBreak) (s : State) :
    Host.Outcome State Fault Refusal :=
  s.onLine dt l fun x => x.framingFail l cause

/-! ### Silence -/

/-- The line goes DOWN: its timers stop and its queue is emptied; a frame in transmission is sent to
its end (R156). -/
def Line.goDown (ln : Line) : Line :=
  { ln with link := .down, silence := none, queue := [], reportAt := none, reportIsDue := false }

/-- The silence timer of a line reaches 1500 ms (R156). -/
def State.lineSilent (s : State) (l : Nat) : State :=
  match s.line? l with
  | none => s
  | some ln =>
    if (ln.link = .active ∨ ln.link = .awaiting) ∧ elapsed ln.silence 1500 s.now = true then
      let s1 := (s.updLine l Line.goDown).clearAlarm .classMismatch (.line l)
      if ln.link = .active then s1.lineLost l else s1
    else s

def execSilenceExpiry (dt l : Nat) (s : State) : Host.Outcome State Fault Refusal :=
  s.onLine dt l fun x => x.lineSilent l

/-! ### REPORT timer and transmitter -/

/-- A REPORT falls due on an ACTIVE line (R162). -/
def State.reportFallsDue (s : State) (l : Nat) : State :=
  match s.line? l with
  | none => s
  | some ln =>
    match ln.reportAt with
    | none => s
    | some t =>
      if ln.link = .active ∧ t ≤ s.now then
        (s.updLine l fun x => { x with reportAt := some (t + 500), reportIsDue := true }).transmit l
      else s

def execReportDue (dt l : Nat) (s : State) : Host.Outcome State Fault Refusal :=
  s.onLine dt l fun x => x.reportFallsDue l

/-- The frame in transmission ends and the transmitter chooses the next (R162). -/
def State.frameEnds (s : State) (l : Nat) : State :=
  (s.updLine l fun ln => { ln with tx := none }).transmit l

def execFrameSent (dt l : Nat) (s : State) : Host.Outcome State Fault Refusal :=
  s.onLine dt l fun x => x.frameEnds l

/-! ### CLEAR COUNTERS -/

/-- The five counters of a line at 0 (R165). -/
def Line.zeroCounters (ln : Line) : Line :=
  { ln with good := 0, crcErrs := 0, framingErrs := 0, overruns := 0, refusals := 0 }

/-- The chatter count of a point at 0 (R35). -/
def Point.zeroChatter (p : Point) : Point := { p with chatter := 0 }

/-- CLEAR COUNTERS from a line (R131, R165, R35, R102). -/
def State.clearCounters (s : State) (l : Nat) : State × Result :=
  if s.mode = .unconfigured then (s, .notConfigured)
  else if s.classOf l ≠ .console then (s, .class)
  else
    let s1 := { s with
      lines := s.lines.map Line.zeroCounters
      att := { s.att with accepted := 0, framing := 0, crc := 0, invalid := 0, clamped := 0 }
      points := s.points.map Point.zeroChatter }
    (s1.clearAlarms [.sensorChatter], .done)

/-- Target of CLEAR (R169). -/
def clearCountersTarget : Byte := 4

def requestClearCounters (p : List Byte) (s : State) (l : Nat) : Reply :=
  match anyIndex p with
  | none => s.badArg
  | some i =>
    let r := s.clearCounters l
    (r.1, some r.2, [clearCountersTarget, byte i])

def execClearCounters (dt l : Nat) (seq : Byte) (p : List Byte) (s : State) :
    Host.Outcome State Fault Refusal :=
  s.onRequest dt l (p.length + 1) seq kindClear (requestClearCounters p)

end Sys2Proof.Machine
end

