-- ==== Sys2Proof/Machine/Modes.lean ====
section
/-! DEFINITION. Mode Control's commands: the MODE arguments (R134 to R138), the arm expiry (R134),
ESTOP and ESTOP_IN (R140, R141) and CLEAR ESTOP (R142). -/

namespace Sys2Proof.Machine

/-! ### MODE -/

/-- The ship mode becomes the part mode and the retained mode in one event (R130). -/
def State.setMode (s : State) (m : ShipMode) : State :=
  { s with mode := m.part, retained := { s.retained with mode := m } }

/-- Mode arguments (R169). -/
def modeArmHarbour : Byte := 1
def modeConfirmHarbour : Byte := 2
def modeSea : Byte := 3
def modeCommission : Byte := 4
def modeLeaveCommission : Byte := 5

/-- The reply to a MODE request: the mode argument and the part mode after it (R168). -/
def modeReply (arg : Byte) (p : List Byte) (s : State) (f : State → State × Result) : Reply :=
  match noArgs p with
  | none => s.badArg
  | some _ =>
    let r := f s
    (r.1, some r.2, [arg, byte r.1.mode.code])

/-- MODE ARM_HARBOUR from a line (R131, R134). -/
def State.armHarbour (s : State) (l : Nat) : State × Result :=
  match s.modeGate with
  | some r => (s, r)
  | none =>
    if s.classOf l ≠ .bridge then (s, .class)
    else if s.mode ≠ .sea then (s, .mode)
    else ({ s with arm := some ⟨l, s.now + 10000⟩ }, .done)

def requestArmHarbour (p : List Byte) (s : State) (l : Nat) : Reply :=
  modeReply modeArmHarbour p s fun x => x.armHarbour l

def execArmHarbour (dt l : Nat) (seq : Byte) (p : List Byte) (s : State) :
    Host.Outcome State Fault Refusal :=
  s.onRequest dt l (p.length + 1) seq kindMode (requestArmHarbour p)

/-- The line holds the harbour arm. -/
def State.armedBy (s : State) (l : Nat) : Bool :=
  match s.arm with
  | some a => a.line == l
  | none => false

/-- MODE CONFIRM_HARBOUR from a line (R131, R135). -/
def State.confirmHarbour (s : State) (l : Nat) : State × Result :=
  match s.modeGate with
  | some r => (s, r)
  | none =>
    if s.classOf l ≠ .bridge then (s, .class)
    else if s.mode ≠ .sea then (s, .mode)
    else if s.armedBy l = false then (s, .notArmed)
    else
      let s1 := State.setMode { s with arm := none } .harbour
      (s1.clearAlarms [.hatchUnsecuredAtSea], .done)

def requestConfirmHarbour (p : List Byte) (s : State) (l : Nat) : Reply :=
  modeReply modeConfirmHarbour p s fun x => x.confirmHarbour l

def execConfirmHarbour (dt l : Nat) (seq : Byte) (p : List Byte) (s : State) :
    Host.Outcome State Fault Refusal :=
  s.onRequest dt l (p.length + 1) seq kindMode (requestConfirmHarbour p)

/-- Every configured hatch is SECURED and every operation record IDLE (R136). -/
def State.secured (s : State) : Bool :=
  (s.hatches.all fun hr => hr.position == .secured) && s.ops.all fun o => o.st == .idle

/-- MODE SEA from a line (R131, R136). -/
def State.enterSea (s : State) (l : Nat) : State × Result :=
  match s.modeGate with
  | some r => (s, r)
  | none =>
    if s.classOf l ≠ .bridge then (s, .class)
    else if s.mode = .sea then (s, .done)
    else if s.mode = .commission then (s, .mode)
    else if s.secured = false then (s, .notSecured)
    else ((s.setMode .sea).releaseAll, .done)

def requestModeSea (p : List Byte) (s : State) (l : Nat) : Reply :=
  modeReply modeSea p s fun x => x.enterSea l

def execModeSea (dt l : Nat) (seq : Byte) (p : List Byte) (s : State) :
    Host.Outcome State Fault Refusal :=
  s.onRequest dt l (p.length + 1) seq kindMode (requestModeSea p)

/-- COMMISSION_ENABLE as latched (R175). -/
def State.commissionEnable (s : State) : Bool := s.straps.getLsbD 12

/-- Some operation record is QUEUED, MOVING or PAUSED (R137). -/
def State.underWay (s : State) : Bool :=
  s.ops.any fun o => o.st != .idle && o.st != .faulted

/-- MODE COMMISSION from a line (R131, R137). -/
def State.enterCommission (s : State) (l : Nat) : State × Result :=
  if s.mode = .loading then (s, .notReady)
  else if s.classOf l ≠ .console then (s, .class)
  else if s.commissionEnable = false then (s, .class)
  else
    match s.mode with
    | .loading => (s, .notReady)
    | .commission => (s, .done)
    | .unconfigured => (s.setMode .commission, .done)
    | .sea => (s, .mode)
    | .harbour => if s.underWay then (s, .busy) else (s.setMode .commission, .done)

def requestModeCommission (p : List Byte) (s : State) (l : Nat) : Reply :=
  modeReply modeCommission p s fun x => x.enterCommission l

def execModeCommission (dt l : Nat) (seq : Byte) (p : List Byte) (s : State) :
    Host.Outcome State Fault Refusal :=
  s.onRequest dt l (p.length + 1) seq kindMode (requestModeCommission p)

/-- MODE LEAVE_COMMISSION from a line (R131, R138). -/
def State.leaveCommission (s : State) (l : Nat) : State × Result :=
  match s.modeGate with
  | some r => (s, r)
  | none =>
    if s.classOf l ≠ .console then (s, .class)
    else if s.mode ≠ .commission then (s, .mode)
    else if s.storing.isSome then (s, .busy)
    else if validConfig s.working then
      (((s.build s.working).setMode .harbour).clearAlarm .configInvalid .part, .done)
    else (s.enterUnconfigured, .invalid)

def requestLeaveCommission (p : List Byte) (s : State) (l : Nat) : Reply :=
  modeReply modeLeaveCommission p s fun x => x.leaveCommission l

def execLeaveCommission (dt l : Nat) (seq : Byte) (p : List Byte) (s : State) :
    Host.Outcome State Fault Refusal :=
  s.onRequest dt l (p.length + 1) seq kindMode (requestLeaveCommission p)

/-- The harbour arm reaches its expiry (R134). -/
def State.armExpiry (s : State) : State :=
  match s.arm with
  | some a => if a.expiry ≤ s.now then { s with arm := none } else s
  | none => s

def execArmExpiry (dt : Nat) (s : State) : Host.Outcome State Fault Refusal :=
  .next (s.live dt State.armExpiry)

/-! ### Emergency stop -/

/-- The Arbiter empties its grant queue and granted set (R90); the idle timer begins as the last of
them leaves (R97). -/
def State.emptyGrants (s : State) : State :=
  if s.queue.isEmpty && s.granted.isEmpty then s
  else { s with queue := [], granted := [], pumpIdle := some s.now }

/-- The latch is set: ESTOP_ACTIVE, the abort of every operation, the grants emptied, the pumps
stopped (R141, R68, R90, R99). -/
def State.setLatch (s : State) : State :=
  if s.latch then s
  else
    let s1 := State.raiseAlarm { s with latch := true } .estopActive .part
    (s1.abortAll.emptyGrants).stopPumps

/-- The station on a line announced the emergency-stop ability (R115). -/
def State.canEstop (s : State) (l : Nat) : Bool :=
  match s.line? l with
  | some ln => ln.estopAbility == some true
  | none => false

/-- ESTOP from a line (R131, R140). -/
def State.estopRequest (s : State) (l : Nat) : State × Result :=
  if s.mode = .unconfigured then (s, .notConfigured)
  else if s.canEstop l = false then (s, .class)
  else (s.setLatch, .done)

def requestEstop (p : List Byte) (s : State) (l : Nat) : Reply :=
  match noArgs p with
  | none => s.badArg
  | some _ =>
    let r := s.estopRequest l
    (r.1, some r.2, [])

def execEstop (dt l : Nat) (seq : Byte) (p : List Byte) (s : State) :
    Host.Outcome State Fault Refusal :=
  s.onRequest dt l p.length seq kindEstop (requestEstop p)

/-- ESTOP_IN goes to its active level (R140). The level is seen in reset and in supply hold too
(log 27). -/
def execEstopInActive (dt : Nat) (s : State) : Host.Outcome State Fault Refusal :=
  let was := s.estopIn
  .next (State.live { s with estopIn := true } dt fun x => if was then x else x.setLatch)

/-- ESTOP_IN goes back to its inactive level (R140). -/
def execEstopInInactive (dt : Nat) (s : State) : Host.Outcome State Fault Refusal :=
  .next (State.live { s with estopIn := false } dt id)

/-- CLEAR ESTOP from a line (R131, R142). -/
def State.clearEstop (s : State) (l : Nat) : State × Result :=
  match s.modeGate with
  | some r => (s, r)
  | none =>
    if s.classOf l ≠ .console then (s, .class)
    else if s.latch = false then (s, .notRunning)
    else if s.estopIn then (s, .lineActive)
    else (State.clearAlarm { s with latch := false } .estopActive .part, .done)

/-- Target of CLEAR (R169). -/
def clearEstopTarget : Byte := 3

/-- CLEAR ESTOP with its argument check: the index is ignored, and the answer carries it (R159,
R168). -/
def requestClearEstop (p : List Byte) (s : State) (l : Nat) : Reply :=
  match anyIndex p with
  | none => s.badArg
  | some i =>
    let r := s.clearEstop l
    (r.1, some r.2, [clearEstopTarget, byte i])

def execClearEstop (dt l : Nat) (seq : Byte) (p : List Byte) (s : State) :
    Host.Outcome State Fault Refusal :=
  s.onRequest dt l (p.length + 1) seq kindClear (requestClearEstop p)

end Sys2Proof.Machine
end

