-- ==== Sys2Proof/Machine/Operations.lean ====
section
/-! DEFINITION. The Hatch Engine's commands: RUN (R49, R50), HOLD (R66), HALT (R65), CLEAR FAULT
(R64), and the expiries of the dwell (R8), the step timeout (R59), the hold window (R67) and the
pressure watch (R61). -/

namespace Sys2Proof.Machine

/-! ### RUN -/

/-- The mode forbids an operation kind (R49 check 2, R132). -/
def State.modeForbids (s : State) (k : OpKind) : Bool :=
  match s.mode with
  | .sea => !k.isClosing
  | .commission => true
  | _ => false

/-- The station on a line announced the hold ability (R115). -/
def State.canHold (s : State) (l : Nat) : Bool :=
  match s.line? l with
  | some ln => ln.holdAbility == some true
  | none => false

/-- The front step is a travel or fold step whose permit is absent (R49 check 8). -/
def State.frontLacksPermit (s : State) (prog : List Step) : Bool :=
  match prog.head? with
  | some st => (s.fraction st).isNone
  | none => false

/-- The record of an accepted RUN before its first offer (R50). -/
def Op.accept (o : Op) (k : OpKind) (d : Discipline) (prog : List Step) (now : Nat) : Op :=
  { o with kind := k
           disc := some d
           stalls := if o.st = .paused ∧ o.kind = k then o.stalls else 0
           halt := none
           fault := none
           prog := prog
           hold := if prog ≠ [] ∧ d = .hold then some (now + 300) else none }

/-- An accepted RUN (R50). A CLOSE of a SECURED hatch has an empty program (R46, R47) and is answered
DONE, where row 2 of R144 has STARTED and a MODE SEA after it refused: the model follows R46 to R50 (DEDUCED,
log 49). -/
def State.acceptRun (s : State) (hr : Hatch) (k : OpKind) (d : Discipline) (prog : List Step) :
    State × Result :=
  let s1 := s.updOp hr.num fun o => o.accept k d prog s.now
  match prog with
  | [] => (s1.clearIdle hr.num, .done)
  | _ :: _ =>
    let s2 := s1.offerFrom hr k.isClosing prog
    (if s2.queue = s1.queue then s2 else s2.evaluate, .started)

/-- RUN(hatch, kind) from a line: the checks of R49 in their order, then R50. -/
def State.run (s : State) (l h : Nat) (k : OpKind) : State × Result :=
  match s.modeGate with
  | some r => (s, r)
  | none =>
    if s.classOf l = .bridge then (s, .class)
    else
      let s := s.claimTouch h l
      if s.latch then (s, .estop)
      else if s.modeForbids k then (s, .mode)
      else if s.holder? h ≠ some l then (s, .notHeld)
      else if s.classOf l = .deck ∧ s.canHold l = false then (s, .noHoldControl)
      else
        match s.op? h, s.hatch? h with
        | some o, some hr =>
          match o.st with
          | .queued => (s, .busy)
          | .moving => (s, .busy)
          | .faulted => (s, .faulted)
          | _ =>
            match hr.program k with
            | none => (s, .position)
            | some prog =>
              if s.frontLacksPermit prog then (s, .attitude)
              else s.acceptRun hr k (if s.classOf l = .deck then .hold else .auto) prog
        | _, _ => (s, .notConfigured)

/-- RUN with its argument checks (R159) and its answer's arguments (R168). -/
def requestRun (p : List Byte) (s : State) (l : Nat) : Reply :=
  match s.runArgs p with
  | none => s.badArg
  | some (h, k) =>
    let r := s.run l h k
    (r.1, some r.2, [byte h])

def execRun (dt l : Nat) (seq : Byte) (p : List Byte) (s : State) :
    Host.Outcome State Fault Refusal :=
  s.onRequest dt l p.length seq kindRun (requestRun p)

/-! ### HOLD -/

/-- HOLD(hatch) from a line (R66). -/
def State.renewHold (s : State) (l h : Nat) : State × Result :=
  match s.configGate with
  | some r => (s, r)
  | none =>
    if s.classOf l = .bridge then (s, .class)
    else
      let s := s.claimTouch h l
      if s.holder? h ≠ some l then (s, .notHeld)
      else if s.busy h then
        (s.updOp h fun o => if o.disc = some .hold then { o with hold := some (s.now + 300) } else o,
          .done)
      else (s, .notRunning)

def requestHold (p : List Byte) (s : State) (l : Nat) : Reply :=
  match s.oneHatch p with
  | none => s.badArg
  | some h =>
    let r := s.renewHold l h
    (r.1, some r.2, [byte h])

def execHold (dt l : Nat) (seq : Byte) (p : List Byte) (s : State) :
    Host.Outcome State Fault Refusal :=
  s.onRequest dt l p.length seq kindHold (requestHold p)

/-! ### HALT -/

/-- HALT(hatch) from a line (R65). -/
def State.haltRequest (s : State) (l h : Nat) : State × Result :=
  match s.configGate with
  | some r => (s, r)
  | none =>
    let s := s.claimTouch h l
    if s.covers l h = false then (s, .noReach)
    else if s.busy h then ((s.pauseOp h .halted).evaluate, .done)
    else (s, .notRunning)

def requestHalt (p : List Byte) (s : State) (l : Nat) : Reply :=
  match s.oneHatch p with
  | none => s.badArg
  | some h =>
    let r := s.haltRequest l h
    (r.1, some r.2, [byte h])

def execHalt (dt l : Nat) (seq : Byte) (p : List Byte) (s : State) :
    Host.Outcome State Fault Refusal :=
  s.onRequest dt l p.length seq kindHalt (requestHalt p)

/-! ### CLEAR FAULT -/

/-- CLEAR FAULT(hatch) from a line (R64). -/
def State.clearFault (s : State) (l h : Nat) : State × Result :=
  match s.configGate with
  | some r => (s, r)
  | none =>
    if s.classOf l ≠ .console then (s, .class)
    else if s.opState h = .faulted then
      let s1 := s.clearIdle h
      let s2 := s1.clearAlarm .timeout (.hatch h)
      let s3 := s2.clearAlarm .jammed (.hatch h)
      (s3.clearAlarm .pressureStuck (.hatch h), .done)
    else (s, .notRunning)

/-- Target of CLEAR (R169). -/
def clearFaultTarget : Byte := 1

def requestClearFault (p : List Byte) (s : State) (l : Nat) : Reply :=
  match s.oneHatch p with
  | none => s.badArg
  | some h =>
    let r := s.clearFault l h
    (r.1, some r.2, [clearFaultTarget, byte h])

def execClearFault (dt l : Nat) (seq : Byte) (p : List Byte) (s : State) :
    Host.Outcome State Fault Refusal :=
  s.onRequest dt l (p.length + 1) seq kindClear (requestClearFault p)

/-! ### Expiries -/

/-- The release dwell of a cleat has run 1500 ms (R8). -/
def Cleat.dwellDue (c : Cleat) (now : Nat) : Bool :=
  match c.dwell with
  | .running t => t + 1500 ≤ now
  | _ => false

/-- The dwell of a cleat of a hatch completes (R8). -/
def State.completeDwell (s : State) (h n : Nat) : State :=
  match s.hatch? h with
  | none => s
  | some hr =>
    match findKey Cleat.num n hr.cleats with
    | none => s
    | some c =>
      if c.dwellDue s.now then
        State.hatchEvent
          (s.updHatch h fun x =>
            { x with cleats := updateKey Cleat.num n (fun y => { y with dwell := .complete })
                       x.cleats }) h
      else s

def execDwellComplete (dt h cleat : Nat) (s : State) : Host.Outcome State Fault Refusal :=
  .next (s.live dt fun x => x.completeDwell h cleat)

/-- The step timeout of a MOVING operation has been reached (R59). -/
def State.timeoutDue (s : State) (o : Op) : Bool :=
  match s.inForce, o.step? with
  | some c, some st =>
    o.st == .moving && elapsed o.start (cfgTimeoutMs c o.hatch st) s.now
  | _, _ => false

/-- The step of a hatch reaches its timeout (R59). That TIMEOUT is raised before the evaluation on the
returned grant is the model's choice (DESIGN CHOICE, log 51). -/
def State.stepTimeout (s : State) (h : Nat) : State :=
  match s.op? h with
  | none => s
  | some o =>
    if s.timeoutDue o then
      ((s.faultOp h .timeout).raiseAlarm .timeout (.hatch h)).evaluate
    else s

def execStepTimeout (dt h : Nat) (s : State) : Host.Outcome State Fault Refusal :=
  .next (s.live dt fun x => x.stepTimeout h)

/-- The hold window of a hatch reaches its expiry (R67). -/
def State.holdLapse (s : State) (h : Nat) : State :=
  match s.op? h with
  | none => s
  | some o =>
    if s.busy h ∧ reached o.hold s.now = true then (s.pauseOp h .holdLapsed).evaluate else s

def execHoldWindowExpiry (dt h : Nat) (s : State) : Host.Outcome State Fault Refusal :=
  .next (s.live dt fun x => x.holdLapse h)

/-- The pressure watch of a hatch reaches 5000 ms (R61); log 28 for MOVING. -/
def State.watchExpiry (s : State) (h : Nat) : State :=
  match s.op? h with
  | none => s
  | some o =>
    if elapsed o.watch 5000 s.now then
      let s1 := (s.raiseAlarm .pressureStuck (.hatch h)).updOp h fun x => { x with watch := none }
      let stuck := fun (x : State) => x.updOp h fun y =>
        { y with st := .faulted, halt := some .fault, fault := some .pressureStuck, hold := none }
      match o.st with
      | .idle => stuck s1
      | .paused => stuck s1
      | .faulted => s1
      | .queued => (s1.faultOp h .pressureStuck).evaluate
      | .moving => (s1.faultOp h .pressureStuck).evaluate
    else s

def execPressureWatchExpiry (dt h : Nat) (s : State) : Host.Outcome State Fault Refusal :=
  .next (s.live dt fun x => x.watchExpiry h)

end Sys2Proof.Machine
end

