-- ==== Sys2Proof/Machine/Read.lean ====
section
/-! DEFINITION. READ of the eleven tables (R164): the choice of records, the record layouts of R169,
and the clear flag of the HATCH table (R20). Bytes whose content the spec does not state are free
values (log 16). -/

namespace Sys2Proof.Machine

/-! ### The choice of records (R164) -/

/-- The records from the front of a list that fit whole in `room` bytes; `i` is the index of the
first. -/
def fitRecords {α : Type} (enc : Nat → α → List Byte) (room i : Nat) : List α → List (List Byte)
  | [] => []
  | x :: xs =>
    let b := enc i x
    if b.length ≤ room then b :: fitRecords enc (room - b.length) (i + 1) xs else []

/-- What a READ returns: next index, number of records, their bytes. -/
structure ReadResult where
  first : Nat
  count : Nat
  bytes : List Byte
  deriving DecidableEq, Repr

/-- Read a table whose records `l` have the indexes `base` upward, from index `first` (R164). -/
def readTable {α : Type} (base first room : Nat) (l : List α) (enc : Nat → α → List Byte) :
    ReadResult :=
  let i := max first base
  let recs := fitRecords enc room i (l.drop (i - base))
  ⟨i, recs.length, recs.flatten⟩

/-- Next index of a READ over `n` records from `base` (R164, log 19). -/
def ReadResult.next (r : ReadResult) (base n : Nat) : Nat := min (r.first + r.count) (base + n)

/-- Bytes of records that fit in an answer: 48 less KIND, result, table, next index and number. -/
def readRoom : Nat := 42

/-- Arguments of a READ answer (R168). -/
def readArgsOut (table : Byte) (next : Nat) (extra : List Byte) (r : ReadResult) : List Byte :=
  table :: (be16 next ++ [byte r.count] ++ extra ++ r.bytes)

/-- The reply to a READ of a table whose records are `l`, and the step of the free counter that
keeps the free bytes of two READs apart (log 35). -/
def State.readReply {α : Type} (s : State) (p : List Byte) (table : Byte) (base : Nat)
    (l : List α) (enc : Nat → α → List Byte) : Reply :=
  match readArgs p with
  | none => s.badArg
  | some (first, _) =>
    let r := readTable base first readRoom l enc
    ({ s with free := s.free + 1 }, some .done,
      readArgsOut table (r.next base l.length) [] r)

/-- A byte whose content the spec does not state (log 16): `table`, the record's index and the
place in the record name it. -/
def State.unstated (s : State) (table : Byte) (i place : Nat) : Byte :=
  Config.unstatedByte s.free (table.toNat * 1048576 + i * 16 + place + 1)

/-! ### READ tables (R169) -/

def tableHatch : Byte := 1
def tableCleat : Byte := 2
def tableOperation : Byte := 3
def tableQueue : Byte := 4
def tablePump : Byte := 5
def tableAlarm : Byte := 6
def tableNode : Byte := 7
def tablePoint : Byte := 8
def tableLine : Byte := 9
def tableConfig : Byte := 10
def tableReset : Byte := 11

/-! ### HATCH and CLEAT (R20) -/

/-- Travel state in bits 0 to 3, lift state in bits 4 to 7 (R169). -/
def Panel.wire (cover : Cover) (p : Panel) : Byte :=
  byte (p.travel.code + 16 * p.lift.code cover)

/-- Directions of the groups, 2 bits each (R169; log 17 for groups that do not exist). -/
def Hatch.directions (hr : Hatch) : Nat :=
  (hr.groups.map fun g => g.dir.code * 4 ^ (g.num - 1)).sum

def Hatch.record (hr : Hatch) : List Byte :=
  [byte hr.num,
    byte (bit (hr.cover == .fold) 0 + bit hr.stale 1 + bit hr.disagree 2),
    byte hr.position.code, byte hr.cleats.length, byte hr.engaged, byte hr.groups.length,
    byte hr.directions, hr.panel1.wire hr.cover, hr.panel2.wire hr.cover] ++
  be16 hr.heavy ++ be16 hr.completed

/-- The counters of the hatches whose records were returned go to 0 (R20). -/
def State.zeroCounts (s : State) (first count : Nat) : State :=
  { s with hatches := s.hatches.map fun hr =>
      if first ≤ hr.num ∧ hr.num < first + count then { hr with heavy := 0, completed := 0 }
      else hr }

def requestReadHatch (p : List Byte) (s : State) (l : Nat) : Reply :=
  match readArgs p with
  | none => s.badArg
  | some (first, clear) =>
    let r := readTable 1 first readRoom s.hatches fun _ hr => hr.record
    let s1 := if clear ∧ s.classOf l = .console then s.zeroCounts r.first r.count else s
    (s1, some .done, readArgsOut tableHatch (r.next 1 s.hatches.length) [] r)

def execReadHatch (dt l : Nat) (seq : Byte) (p : List Byte) (s : State) :
    Host.Outcome State Fault Refusal :=
  s.onRequest dt l (p.length + 1) seq kindRead (requestReadHatch p)

/-- Every cleat with its hatch, in order of hatch and cleat number (R5). -/
def State.allCleats (s : State) : List (Nat × Cleat) :=
  s.hatches.flatMap fun hr => hr.cleats.map fun c => (hr.num, c)

def cleatRecord (i : Nat) (hc : Nat × Cleat) : List Byte :=
  let c := hc.2
  [byte i, byte hc.1, byte c.num, byte c.group,
    byte (c.st.code + 8 * c.dwell.code + bit c.hasReleased 5)]

def requestReadCleat (p : List Byte) (s : State) (_l : Nat) : Reply :=
  s.readReply p tableCleat 1 s.allCleats cleatRecord

def execReadCleat (dt l : Nat) (seq : Byte) (p : List Byte) (s : State) :
    Host.Outcome State Fault Refusal :=
  s.onRequest dt l (p.length + 1) seq kindRead (requestReadCleat p)

/-! ### OPERATION (R72) -/

def Op.record (o : Op) (now : Nat) : List Byte :=
  [byte o.hatch, byte o.kind.code, byte (Discipline.code o.disc), byte o.st.code,
    byte (HaltReason.code o.halt), byte (FaultKind.code o.fault), byte o.stalls,
    byte o.prog.length] ++
  o.prog.map Step.wire ++
  be32o (o.start.map fun t => now - t) ++ be16o (o.hold.map fun t => t - now) ++
  be16o (o.watch.map fun t => now - t)

def requestReadOperation (p : List Byte) (s : State) (_l : Nat) : Reply :=
  s.readReply p tableOperation 1 s.ops fun _ o => o.record s.now

def execReadOperation (dt l : Nat) (seq : Byte) (p : List Byte) (s : State) :
    Host.Outcome State Fault Refusal :=
  s.onRequest dt l (p.length + 1) seq kindRead (requestReadOperation p)

/-! ### QUEUE and PUMP (R100) -/

/-- A queue entry; an entry that no evaluation has seen has no demand to send (log 16). -/
def State.entryRecord (s : State) (i : Nat) (e : Entry) : List Byte :=
  [byte (bit e.closing 1 + bit e.blocked 2), byte e.hatch, e.step.wire] ++ be32 e.time ++
  match e.demand with
  | some d => be16 d
  | none => [s.unstated tableQueue i 7, s.unstated tableQueue i 8]

def Grant.record (g : Grant) : List Byte :=
  [byte (1 + bit g.closing 1 + bit g.clamped 2), byte g.hatch, g.step.wire] ++ be32 g.time ++
  be16 g.q ++ be16 g.demand ++ [byte g.speed, byte g.setpoint]

/-- The records of the QUEUE table: the grant queue, then the granted set (R100). -/
def State.queueTable (s : State) : List (Entry ⊕ Grant) :=
  s.queue.map Sum.inl ++ s.granted.map Sum.inr

def State.queueRecord (s : State) (i : Nat) (x : Entry ⊕ Grant) : List Byte :=
  match x with
  | .inl e => s.entryRecord i e
  | .inr g => g.record

def requestReadQueue (p : List Byte) (s : State) (_l : Nat) : Reply :=
  s.readReply p tableQueue 1 s.queueTable s.queueRecord

def execReadQueue (dt l : Nat) (seq : Byte) (p : List Byte) (s : State) :
    Host.Outcome State Fault Refusal :=
  s.onRequest dt l (p.length + 1) seq kindRead (requestReadQueue p)

def State.packRecord (s : State) : List Byte :=
  [byte s.band.code, byte s.band.factor] ++ be16 (qRun s.pumps) ++ be16 (qAll s.pumps) ++
  be16 s.budget ++ be16 s.maxB ++ [byte s.reserve] ++ be16 s.freeFlow ++
  be16o (s.pumpIdle.map fun t => s.now - t)

/-- Feedback byte of a pump: bit 0 on, bit 1 qualified, bit 2 stale (R169). -/
def State.feedbackByte (s : State) (n : Nat) : Byte :=
  match s.pumpPoint? .pumpRunning n with
  | some p => byte (bit (p.qual == some true) 0 + bit p.qual.isSome 1 + bit p.stale 2)
  | none => byte (bit true 2)

/-- Time remaining to the feedback deadline or to the settle end (R100). -/
def Pump.remaining (p : Pump) (now : Nat) : Option Nat :=
  match p.deadline with
  | some t => some (t - now)
  | none => p.settle.map fun t => t - now

def State.pumpRecord (s : State) (p : Pump) : List Byte :=
  [byte p.num] ++ be16 p.flow ++ [byte p.st.code, s.feedbackByte p.num] ++
  be16o (p.remaining s.now)

/-- The records of the PUMP table: the power pack at index 0, then the pumps (R100). -/
def State.pumpTable (s : State) : List (Option Pump) :=
  if s.inForce.isSome then none :: s.pumps.map some else []

def requestReadPump (p : List Byte) (s : State) (_l : Nat) : Reply :=
  s.readReply p tablePump 0 s.pumpTable fun _ x =>
    match x with
    | none => s.packRecord
    | some q => s.pumpRecord q

def execReadPump (dt l : Nat) (seq : Byte) (p : List Byte) (s : State) :
    Host.Outcome State Fault Refusal :=
  s.onRequest dt l (p.length + 1) seq kindRead (requestReadPump p)

/-! ### ALARM (R153) -/

def Alarm.record (i : Nat) (a : Alarm) : List Byte :=
  [byte i, byte a.code.code, byte a.subject.kindCode, byte a.subject.number] ++ be32 a.time ++
  [byte a.st.code]

/-- READ of the ALARM table: two more bytes carry the list count and the overflow indicator. -/
def requestReadAlarm (p : List Byte) (s : State) (_l : Nat) : Reply :=
  match readArgs p with
  | none => s.badArg
  | some (first, _) =>
    let n := s.alarms.recs.length
    let r := readTable 1 first (readRoom - 2) s.alarms.recs Alarm.record
    (s, some .done,
      readArgsOut tableAlarm (r.next 1 n) [byte n, byte (bit s.alarms.overflow 0)] r)

def execReadAlarm (dt l : Nat) (seq : Byte) (p : List Byte) (s : State) :
    Host.Outcome State Fault Refusal :=
  s.onRequest dt l (p.length + 1) seq kindRead (requestReadAlarm p)

/-! ### NODE and POINT (R42) -/

/-- A node record; the input sample is sent as in the reply (R169), and its bytes are not stated
while it is absent (log 16). -/
def State.nodeRecord (s : State) (i : Nat) (n : Node) : List Byte :=
  [byte n.addr, n.kinds, byte n.st.code, byte n.misses, byte n.goods, byte (bit n.sample.isSome 0)] ++
  (match n.sample with
    | some w => [byte w.toNat, byte (w.toNat / 256)]
    | none => [s.unstated tableNode i 6, s.unstated tableNode i 7]) ++
  n.outs.map byte

def requestReadNode (p : List Byte) (s : State) (_l : Nat) : Reply :=
  s.readReply p tableNode 1 s.nodes s.nodeRecord

def execReadNode (dt l : Nat) (seq : Byte) (p : List Byte) (s : State) :
    Host.Outcome State Fault Refusal :=
  s.onRequest dt l (p.length + 1) seq kindRead (requestReadNode p)

/-- Classifier state of a hatch, in the wire's value (R169). -/
def State.classifierCode (s : State) (h : Nat) : Nat :=
  match s.hatch? h with
  | some hr => hr.classifier.code
  | none => 0

/-- Status byte, chatter count and setpoint of a POINT record (R42, R169). What a kind of point does
not have is not stated (log 16). -/
def State.pointStatus (s : State) (i : Nat) (p : Point) : List Byte :=
  let u := s.unstated tablePoint i
  if p.role.isInput then
    if p.role = .hatchPressure then
      [byte (bit (p.qual == some true) 0 + bit p.qual.isSome 1 + bit p.stale 3 +
          16 * s.classifierCode p.subject), u 6, u 7, u 8]
    else
      byte (bit (p.qual == some true) 0 + bit p.qual.isSome 1 + bit p.pend.isSome 2 +
        bit p.stale 3) :: (be16 p.chatter ++ [u 8])
  else [u 5, u 6, u 7, byte (s.outAt p.node p.point)]

/-- A POINT record; bit 7 of an output binding is bit 14 of its item (DESIGN CHOICE, log 44). -/
def State.pointRecord (s : State) (i : Nat) (p : Point) : List Byte :=
  [byte p.role.code, byte p.subject, byte p.index, byte p.node,
    byte (p.point + bit p.inverted 7)] ++ s.pointStatus i p

/-- READ of the POINT table; that its first index is 1 is the model's choice (DESIGN CHOICE, log 43). -/
def requestReadPoint (p : List Byte) (s : State) (_l : Nat) : Reply :=
  s.readReply p tablePoint 1 s.points s.pointRecord

def execReadPoint (dt l : Nat) (seq : Byte) (p : List Byte) (s : State) :
    Host.Outcome State Fault Refusal :=
  s.onRequest dt l (p.length + 1) seq kindRead (requestReadPoint p)

/-! ### LINE (R113, R128) -/

/-- Whole seconds of a remaining time; how a part of a second is rounded is not stated (log 18). -/
def State.seconds (s : State) (ms key : Nat) : Nat :=
  ms / 1000 + (if ms % 1000 ≠ 0 ∧ Config.roundsUp s.free key = true then 1 else 0)

/-- Claim idle time remaining of a held hatch, in seconds; all ones while it is stopped (R169). -/
def State.claimRemaining (s : State) (cl : Claim) : List Byte :=
  be16o (match s.inForce, cl.idle with
    | some c, some t => some (s.seconds (t + cfgClaimMs c - s.now) cl.hatch)
    | _, _ => none)

/-- Record of a station line (R128, R165, R169). The bytes of an absent announced reach are not
stated (log 16). -/
def State.stationRecord (s : State) (ln : Line) : List Byte :=
  let held := s.claims.filter fun c => c.holder == some ln.num
  [byte ln.num, byte (ln.cls.code + 16 * ln.link.code)] ++
  (match ln.annReach with
    | some m => be16 m.toNat
    | none => [s.unstated tableLine ln.num 2, s.unstated tableLine ln.num 3]) ++
  [byte (bit (ln.estopAbility == some true) 0 + bit (ln.holdAbility == some true) 1 +
    bit ln.annReach.isNone 7)] ++
  be16 ln.reach.toNat ++ be16 (reachOf (held.map Claim.hatch)).toNat ++
  be16 ln.good ++ be16 ln.crcErrs ++ be16 ln.framingErrs ++ be16 ln.overruns ++
  be16 ln.refusals ++ held.flatMap s.claimRemaining

/-- A peak in two bytes; an absent peak is not stated (log 16). -/
def State.peakBytes (s : State) (pk : Option Nat) (place : Nat) : List Byte :=
  match pk with
  | some a => be16 a
  | none => [s.unstated tableLine 7 place, s.unstated tableLine 7 (place + 1)]

/-- Record 7 of the LINE table (R113, R169). -/
def State.attitudeRecord (s : State) : List Byte :=
  let a := s.att
  [byte 7, byte a.window.length] ++ be16o (a.silence.map fun t => s.now - t) ++
  s.peakBytes a.peakHeel 4 ++ s.peakBytes a.peakTrim 6 ++
  [byte (bit a.heel.isSome 0 + bit a.trim.isSome 1), byte (a.heel.getD 0), byte (a.trim.getD 0)] ++
  be16 a.accepted ++ be16 a.framing ++ be16 a.crc ++ be16 a.invalid ++ be16 a.clamped

/-- Record 8 of the LINE table (R113, R169). -/
def State.windowRecord (s : State) : List Byte :=
  [byte 8, byte s.att.window.length] ++
  s.att.window.flatMap fun r => be16s r.1 ++ be16s r.2

/-- The records of the LINE table: the station lines, then the two of the attitude line. -/
def State.lineTable (s : State) : List (List Byte) :=
  s.lines.map s.stationRecord ++ [s.attitudeRecord, s.windowRecord]

def requestReadLine (p : List Byte) (s : State) (_l : Nat) : Reply :=
  s.readReply p tableLine 1 s.lineTable fun _ b => b

def execReadLine (dt l : Nat) (seq : Byte) (p : List Byte) (s : State) :
    Host.Outcome State Fault Refusal :=
  s.onRequest dt l (p.length + 1) seq kindRead (requestReadLine p)

/-! ### CONFIG and RESET (R171, R177) -/

/-- Every item code with every index, in ascending order (R171). -/
def configTable : List (Nat × Nat) :=
  itemCodes.flatMap fun code =>
    match itemIndexes code with
    | some (lo, n) => (List.range n).map fun k => (code, lo + k)
    | none => []

def State.configRecord (s : State) (e : Nat × Nat) : List Byte :=
  [byte e.1, byte e.2] ++ be16 (itemNat s.working e.1 e.2) ++
  be16 (match s.inForce with
    | some c => itemNat c e.1 e.2
    | none => 0)

/-- READ of the CONFIG table; that its first index is 1 is the model's choice (DESIGN CHOICE, log 43). -/
def requestReadConfig (p : List Byte) (s : State) (_l : Nat) : Reply :=
  s.readReply p tableConfig 1 configTable fun _ e => s.configRecord e

def execReadConfig (dt l : Nat) (seq : Byte) (p : List Byte) (s : State) :
    Host.Outcome State Fault Refusal :=
  s.onRequest dt l (p.length + 1) seq kindRead (requestReadConfig p)

def State.resetRecord (s : State) : List Byte :=
  [byte s.retained.mode.part.code, byte s.retained.cause.code, byte s.retained.externals,
    byte s.retained.supplies] ++ be32 s.runningTime ++ be16 s.straps.toNat

def requestReadReset (p : List Byte) (s : State) (_l : Nat) : Reply :=
  s.readReply p tableReset 0 [s.resetRecord] fun _ b => b

def execReadReset (dt l : Nat) (seq : Byte) (p : List Byte) (s : State) :
    Host.Outcome State Fault Refusal :=
  s.onRequest dt l (p.length + 1) seq kindRead (requestReadReset p)

end Sys2Proof.Machine
end

