-- ==== Sys2Proof/Machine/Reset.lean ====
section
/-! DEFINITION. The reset sources, the supply hold and the reset release (R175 to R178, R143). -/

namespace Sys2Proof.Machine

/-- What a reset leaves (R21, R41, R73, R101, R114, R129, R139, R143, R154, R167): the values of
`State.reset`, with the queue, the pins, the straps, the stored image and the model's own counter as
they stand, and the retained cell as the reset source gives it. -/
def State.afterReset (s : State) (power : Power) (straps : Straps) (ret : Retained) : State :=
  { State.reset with
    pending := s.pending
    power := power
    estopIn := s.estopIn
    resetIn := s.resetIn
    straps := straps
    retained := ret
    image := s.image
    free := s.free
    lines := (upTo 6).map (Line.reset straps) }

/-- Reset release: ESTOP_IN is read (R143) and start-up begins in LOADING (R178). The stored image is
read by a later step, so that the lines, the attitude receiver and ESTOP_IN run before it (R116, R129;
log 4). -/
def State.releaseReset (s : State) : State :=
  if s.estopIn then State.raiseAlarm { s with latch := true } .estopActive .part else s

/-- A retained COMMISSION becomes HARBOUR (R139, R177). -/
def ShipMode.kept : ShipMode → ShipMode
  | .commission => .harbour
  | m => m

/-- Power applied to a part that had none (R176, R177). -/
def execPowerOn (_dt : Nat) (straps : Straps) (s : State) : Host.Outcome State Fault Refusal :=
  .next (s.afterReset .running straps Retained.powerOn).releaseReset

/-- The retained cell after an EXTERNAL reset (R177). -/
def Retained.external (r : Retained) : Retained :=
  { r with mode := r.mode.kept, cause := .external, externals := satInc 255 r.externals }

/-- RESET_IN is asserted (R176): an EXTERNAL reset, held until RESET_IN is released; no effect but on
the pin in supply hold (log 26). -/
def execExternal (dt : Nat) (s : State) : Host.Outcome State Fault Refusal :=
  let s1 := { s.advance dt with resetIn := true }
  .next (match s.power with
    | .running => s1.afterReset .inReset s1.straps s1.retained.external
    | .inReset => s1
    | .supplyHold => s1)

/-- A line as supply hold leaves it: receiver and transmitter stopped (R167). -/
def Line.inHold (ln : Line) : Line := { ln with rx := .hunting, tx := none }

/-- The supply falls below its threshold (R176, R167, R114, R41): scan, lines, processing, timers and
a STORE write stop. -/
def execSupplyHold (dt : Nat) (s : State) : Host.Outcome State Fault Refusal :=
  let s1 := s.advance dt
  .next { s1 with
    power := .supplyHold
    storing := none
    scan := { s1.scan with place := none, replied := false }
    lines := s1.lines.map Line.inHold
    att := { s1.att with rx := .hunting } }

/-- The retained cell after a SUPPLY reset (R177). -/
def Retained.supply (r : Retained) : Retained :=
  { r with mode := r.mode.kept, cause := .supply, supplies := satInc 255 r.supplies }

/-- The supply recovers: a SUPPLY reset ends the hold (R176). -/
def execSupply (dt : Nat) (straps : Straps) (s : State) : Host.Outcome State Fault Refusal :=
  let s1 := s.advance dt
  .next (match s.power with
    | .supplyHold => (s1.afterReset .running straps s1.retained.supply).releaseReset
    | .running => s1
    | .inReset => s1)

/-- RESET_IN is released: the straps are latched and start-up begins (R175, R176, R178). -/
def execResetRelease (dt : Nat) (straps : Straps) (s : State) :
    Host.Outcome State Fault Refusal :=
  let s1 := { s.advance dt with resetIn := false }
  .next (match s.power with
    | .inReset => (s1.afterReset .running straps s1.retained).releaseReset
    | .running => s1
    | .supplyHold => s1)

end Sys2Proof.Machine
end

