-- ==== Sys2Proof/Machine/Unknown.lean ====
section
/-! DEFINITION. A telegram whose KIND has no row of its own (R158 step 4), and a telegram of a known
KIND whose first payload byte names no row (R159, log 7). -/

namespace Sys2Proof.Machine

/-- The request of KIND CLEAR, by its target (R168, R169). -/
def requestClear (p : List Byte) (s : State) (l : Nat) : Reply :=
  match p with
  | [] => s.badArg
  | t :: rest =>
    if t = clearFaultTarget then requestClearFault rest s l
    else if t = clearPumpTarget then requestClearPump rest s l
    else if t = clearEstopTarget then requestClearEstop rest s l
    else if t = clearCountersTarget then requestClearCounters rest s l
    else s.badArg

/-- The request of KIND MODE, by its argument (R168, R169). -/
def requestMode (p : List Byte) (s : State) (l : Nat) : Reply :=
  match p with
  | [] => s.badArg
  | m :: rest =>
    if m = modeArmHarbour then requestArmHarbour rest s l
    else if m = modeConfirmHarbour then requestConfirmHarbour rest s l
    else if m = modeSea then requestModeSea rest s l
    else if m = modeCommission then requestModeCommission rest s l
    else if m = modeLeaveCommission then requestLeaveCommission rest s l
    else s.badArg

/-- The request of KIND ACKNOWLEDGE, by its form (R168). -/
def requestAcknowledge (p : List Byte) (s : State) (l : Nat) : Reply :=
  match p with
  | [] => s.badArg
  | f :: rest =>
    if f = ackOneForm then requestAckOne rest s l
    else if f = ackAllForm then requestAckAll rest s l
    else s.badArg

/-- The request of KIND READ, by its table (R168, R169). -/
def requestRead (p : List Byte) (s : State) (l : Nat) : Reply :=
  match p with
  | [] => s.badArg
  | t :: rest =>
    if t = tableHatch then requestReadHatch rest s l
    else if t = tableCleat then requestReadCleat rest s l
    else if t = tableOperation then requestReadOperation rest s l
    else if t = tableQueue then requestReadQueue rest s l
    else if t = tablePump then requestReadPump rest s l
    else if t = tableAlarm then requestReadAlarm rest s l
    else if t = tableNode then requestReadNode rest s l
    else if t = tablePoint then requestReadPoint rest s l
    else if t = tableLine then requestReadLine rest s l
    else if t = tableConfig then requestReadConfig rest s l
    else if t = tableReset then requestReadReset rest s l
    else s.badArg

/-- The owner of a request by its KIND (R158 step 7); `none` for a KIND that no station may send. -/
def ownerOf (kind : Byte) : Option (List Byte → State → Nat → Reply) :=
  if kind = kindAnnounce then some requestAnnounce
  else if kind = kindTake then some requestTake
  else if kind = kindYield then some requestYield
  else if kind = kindRun then some requestRun
  else if kind = kindHold then some requestHold
  else if kind = kindHalt then some requestHalt
  else if kind = kindClear then some requestClear
  else if kind = kindEstop then some requestEstop
  else if kind = kindMode then some requestMode
  else if kind = kindAcknowledge then some requestAcknowledge
  else if kind = kindRead then some requestRead
  else if kind = kindWrite then some requestWrite
  else if kind = kindStore then some requestStore
  else none

/-- A telegram by its KIND byte and whole payload: an unknown KIND, ANSWER or REPORT is answered
BAD_REQUEST (R158). -/
def State.anyTelegram (s : State) (l : Nat) (seq kind : Byte) (p : List Byte) : State :=
  if kind = kindIdle then s.idleTelegram l p.length
  else
    match ownerOf kind with
    | some owner => s.request l p.length seq kind (owner p)
    | none => s.onTelegram l p.length fun s1 _ => s1.answer l seq kind (some .badRequest) []

def execUnknownKind (dt l : Nat) (seq kind : Byte) (p : List Byte) (s : State) :
    Host.Outcome State Fault Refusal :=
  s.onLine dt l fun x => x.anyTelegram l seq kind p

end Sys2Proof.Machine
end

