-- ==== Sys2Proof/Machine/Dispatch.lean ====
section
/-! DEFINITION. The dispatch of every command to its meaning. -/

namespace Sys2Proof.Machine

/-- The effect of a command on everything but the queue. -/
def exec (i : Instr) (s : State) : Host.Outcome State Fault Refusal :=
  match i with
  | .announce dt l seq p => Sys2Proof.Machine.execAnnounce dt l seq p s
  | .idle dt l seq p => Sys2Proof.Machine.execIdle dt l seq p s
  | .unknownKind dt l seq kind p => Sys2Proof.Machine.execUnknownKind dt l seq kind p s
  | .take dt l seq p => Sys2Proof.Machine.execTake dt l seq p s
  | .yield dt l seq p => Sys2Proof.Machine.execYield dt l seq p s
  | .run dt l seq p => Sys2Proof.Machine.execRun dt l seq p s
  | .hold dt l seq p => Sys2Proof.Machine.execHold dt l seq p s
  | .halt dt l seq p => Sys2Proof.Machine.execHalt dt l seq p s
  | .clearFault dt l seq p => Sys2Proof.Machine.execClearFault dt l seq p s
  | .clearPump dt l seq p => Sys2Proof.Machine.execClearPump dt l seq p s
  | .clearEstop dt l seq p => Sys2Proof.Machine.execClearEstop dt l seq p s
  | .clearCounters dt l seq p => Sys2Proof.Machine.execClearCounters dt l seq p s
  | .estop dt l seq p => Sys2Proof.Machine.execEstop dt l seq p s
  | .armHarbour dt l seq p => Sys2Proof.Machine.execArmHarbour dt l seq p s
  | .confirmHarbour dt l seq p => Sys2Proof.Machine.execConfirmHarbour dt l seq p s
  | .modeSea dt l seq p => Sys2Proof.Machine.execModeSea dt l seq p s
  | .modeCommission dt l seq p => Sys2Proof.Machine.execModeCommission dt l seq p s
  | .leaveCommission dt l seq p => Sys2Proof.Machine.execLeaveCommission dt l seq p s
  | .acknowledgeOne dt l seq p => Sys2Proof.Machine.execAcknowledgeOne dt l seq p s
  | .acknowledgeAll dt l seq p => Sys2Proof.Machine.execAcknowledgeAll dt l seq p s
  | .readHatch dt l seq p => Sys2Proof.Machine.execReadHatch dt l seq p s
  | .readCleat dt l seq p => Sys2Proof.Machine.execReadCleat dt l seq p s
  | .readOperation dt l seq p => Sys2Proof.Machine.execReadOperation dt l seq p s
  | .readQueue dt l seq p => Sys2Proof.Machine.execReadQueue dt l seq p s
  | .readPump dt l seq p => Sys2Proof.Machine.execReadPump dt l seq p s
  | .readAlarm dt l seq p => Sys2Proof.Machine.execReadAlarm dt l seq p s
  | .readNode dt l seq p => Sys2Proof.Machine.execReadNode dt l seq p s
  | .readPoint dt l seq p => Sys2Proof.Machine.execReadPoint dt l seq p s
  | .readLine dt l seq p => Sys2Proof.Machine.execReadLine dt l seq p s
  | .readConfig dt l seq p => Sys2Proof.Machine.execReadConfig dt l seq p s
  | .readReset dt l seq p => Sys2Proof.Machine.execReadReset dt l seq p s
  | .write dt l seq p => Sys2Proof.Machine.execWrite dt l seq p s
  | .store dt l seq p => Sys2Proof.Machine.execStore dt l seq p s
  | .storeWriteComplete dt => Sys2Proof.Machine.execStoreWriteComplete dt s
  | .crcError dt l => Sys2Proof.Machine.execCrcError dt l s
  | .framingError dt l cause => Sys2Proof.Machine.execFramingError dt l cause s
  | .silenceExpiry dt l => Sys2Proof.Machine.execSilenceExpiry dt l s
  | .reportDue dt l => Sys2Proof.Machine.execReportDue dt l s
  | .frameSent dt l => Sys2Proof.Machine.execFrameSent dt l s
  | .attitudeTelegram dt heel trim flags crc trimFirst => Sys2Proof.Machine.execAttitudeTelegram dt heel trim flags crc trimFirst s
  | .attitudeFramingError dt => Sys2Proof.Machine.execAttitudeFramingError dt s
  | .attitudeSilence dt trimFirst => Sys2Proof.Machine.execAttitudeSilence dt trimFirst s
  | .scan dt => Sys2Proof.Machine.execScan dt s
  | .fieldReply dt turn bytes order pumpsFirst => Sys2Proof.Machine.execFieldReply dt turn bytes order pumpsFirst s
  | .slotEnd dt node pumpsFirst => Sys2Proof.Machine.execSlotEnd dt node pumpsFirst s
  | .dwellComplete dt h cleat => Sys2Proof.Machine.execDwellComplete dt h cleat s
  | .stepTimeout dt h => Sys2Proof.Machine.execStepTimeout dt h s
  | .holdWindowExpiry dt h => Sys2Proof.Machine.execHoldWindowExpiry dt h s
  | .pressureWatchExpiry dt h => Sys2Proof.Machine.execPressureWatchExpiry dt h s
  | .claimIdleExpiry dt h => Sys2Proof.Machine.execClaimIdleExpiry dt h s
  | .feedbackDeadline dt n => Sys2Proof.Machine.execFeedbackDeadline dt n s
  | .settleEnd dt n => Sys2Proof.Machine.execSettleEnd dt n s
  | .pumpIdleStop dt => Sys2Proof.Machine.execPumpIdleStop dt s
  | .armExpiry dt => Sys2Proof.Machine.execArmExpiry dt s
  | .estopInActive dt => Sys2Proof.Machine.execEstopInActive dt s
  | .estopInInactive dt => Sys2Proof.Machine.execEstopInInactive dt s
  | .powerOn dt straps => Sys2Proof.Machine.execPowerOn dt straps s
  | .external dt => Sys2Proof.Machine.execExternal dt s
  | .supplyHold dt => Sys2Proof.Machine.execSupplyHold dt s
  | .supply dt straps => Sys2Proof.Machine.execSupply dt straps s
  | .resetRelease dt straps => Sys2Proof.Machine.execResetRelease dt straps s

end Sys2Proof.Machine
end

