-- ==== Sys2Proof/Machine/Step.lean ====
section
/-! DEFINITION. One step of the part: the command at the front of the queue, or the idle step on an
empty queue (log 3). -/

namespace Sys2Proof.Machine

/-- The step on an empty queue (log 3): the part idles, but for the reading of the stored image where
that has not been done since reset release (R178, log 4). -/
def State.idleStep (s : State) : State := if s.power = .running then s.loaded else s

/-- One step: the command at the front of the queue is taken and run on the queue's rest. -/
def step (s : State) : Host.Outcome State Fault Refusal :=
  match s.pending with
  | [] => .next s.idleStep
  | c :: rest => exec c { s with pending := rest }

/-- The state with the command that a word spells put at the front of its queue; unchanged where the
word spells none. -/
def State.withFetchWord (s : State) (nbits w : Nat) : State :=
  match decodeTableWord nbits w with
  | some c => { s with pending := c :: s.pending }
  | none => s

end Sys2Proof.Machine
end

