-- ==== Sys2Proof/Safety.lean ====
section
/-! DEFINITION. The invariants of the part that the spec states as laws, and the groups of state that
frame statements name. -/

namespace Sys2Proof.Machine

/-! ### Invariants -/

/-- At most 48 alarm records, never two with the same code and subject (R145). -/
abbrev AlarmsOk (s : State) : Prop :=
  s.alarms.recs.length ≤ 48 ∧ (s.alarms.recs.map fun a => (a.code, a.subject)).Nodup

/-- One record per line (R155), and a transmit queue holds at most 4 answers (R161). -/
abbrev QueuesOk (s : State) : Prop :=
  (s.lines.map Line.num).Nodup ∧ ∀ ln ∈ s.lines, ln.queue.length ≤ 4

/-- A stored image that is whole is in canonical form. -/
def imageOk : Image → Bool
  | .whole c => itemsWf c
  | .bad => true

/-- A configuration that may be absent is in canonical form. -/
def itemsOk : Option Items → Bool
  | none => true
  | some c => itemsWf c

/-- Every copy of the configuration is in canonical form (R171). -/
abbrev ConfigsOk (s : State) : Prop :=
  itemsWf s.working = true ∧ itemsOk s.inForce = true ∧ imageOk s.image = true ∧
    itemsOk s.storing = true

/-- The window holds at most 8 readings, each value within the clamp (R103, R104). -/
abbrev WindowOk (s : State) : Prop :=
  s.att.window.length ≤ 8 ∧
    ∀ r ∈ s.att.window, r.1.natAbs ≤ 450 ∧ r.2.natAbs ≤ 450

/-- A holder is an ACTIVE line, and when it is a deck line the hatch lies in its resolved reach
(R118). -/
abbrev HoldersOk (s : State) : Prop :=
  ∀ c ∈ s.claims, ∀ l ∈ c.holder,
    ∃ ln ∈ s.line? l, ln.link = .active ∧ (ln.cls = .deck → reachHas ln.reach c.hatch = true)

/-- One operation record per hatch record; a QUEUED record has an entry and no grant, a MOVING one a
grant and no entry, the others neither; no hatch has two entries or two grants (R43, R79). -/
abbrev MotionOk (s : State) : Prop :=
  s.ops.map Op.hatch = s.hatches.map Hatch.num ∧ (s.hatches.map Hatch.num).Nodup ∧
    (s.queue.map Entry.hatch).Nodup ∧ (s.granted.map Grant.hatch).Nodup ∧
    (∀ e ∈ s.queue, e.hatch ∈ s.ops.map Op.hatch) ∧
    (∀ g ∈ s.granted, g.hatch ∈ s.ops.map Op.hatch) ∧
    ∀ o ∈ s.ops, (o.st = .queued ↔ o.hatch ∈ s.queue.map Entry.hatch) ∧
      (o.st = .moving ↔ o.hatch ∈ s.granted.map Grant.hatch)

/-- Queue order (R79): CLOSE-class before OPEN-class, then the older entry time, then the lower hatch
number. -/
abbrev Entry.InOrder (a b : Entry) : Prop :=
  (a.closing = true ∧ b.closing = false) ∨
    (a.closing = b.closing ∧ (a.time < b.time ∨ (a.time = b.time ∧ a.hatch ≤ b.hatch)))

/-- The granted demands sum to no more than B (R86); a proportional grant holds the flow that its
speed takes (R77, R78, R88); the pump idle timer runs only while nothing is queued or granted
(R97); the grant queue stands in queue order (R79). -/
abbrev FlowOk (s : State) : Prop :=
  grantedSum s.granted ≤ s.budget ∧
    (∀ g ∈ s.granted, g.step.isProportional = true → g.speed * g.q ≤ g.demand * 100) ∧
    (s.pumpIdle.isSome = true → s.queue = [] ∧ s.granted = []) ∧
    s.queue.Pairwise Entry.InOrder

/-- A valve output of a hatch (R31). -/
def Point.isValve (p : Point) : Bool := p.role.isHatch && !p.role.isInput

/-- While the latch is set nothing is queued or granted and every valve output is at 0 (R53). -/
abbrev StopOk (s : State) : Prop :=
  s.latch = true → s.queue = [] ∧ s.granted = [] ∧
    ∀ p ∈ s.points, p.isValve = true → s.outAt p.node p.point = 0

/-- In SEA nothing that is queued, granted or under way is OPEN-class (R132); outside SEA and
HARBOUR nothing is under way (R130, R137, R178). -/
abbrev SeaOk (s : State) : Prop :=
  (s.mode = .sea →
    (∀ e ∈ s.queue, e.closing = true) ∧ (∀ g ∈ s.granted, g.closing = true) ∧
      ∀ o ∈ s.ops, o.st = .queued ∨ o.st = .moving → o.kind.isClosing = true) ∧
  (s.mode ≠ .sea → s.mode ≠ .harbour → s.queue = [] ∧ s.granted = [])

/-- What is queued or granted is the front step of its operation's program and of the class of its kind
(R43, R50, R51, R79, R81), and a CLOSE-class program has no release step (R46 to R48, R132). -/
abbrev StepsOk (s : State) : Prop :=
  (∀ e ∈ s.queue, ∃ o ∈ s.ops, o.hatch = e.hatch ∧ o.prog.head? = some e.step ∧
    o.kind.isClosing = e.closing) ∧
  (∀ g ∈ s.granted, ∃ o ∈ s.ops, o.hatch = g.hatch ∧ o.prog.head? = some g.step ∧
    o.kind.isClosing = g.closing) ∧
  ∀ o ∈ s.ops, o.kind.isClosing = true → ∀ st ∈ o.prog, st.driven ≠ .cleatReleaseValve

/-- Two valves drive the same actuator in opposite directions (R53). -/
abbrev Point.Opposes (p q : Point) : Prop :=
  p.subject = q.subject ∧ p.index = q.index ∧
    (p.role, q.role) ∈ [(Role.cleatReleaseValve, Role.cleatEngageValve), (.liftValve, .lowerValve),
      (.travelOpenValve, .travelCloseValve), (.foldOpenValve, .foldCloseValve)]

/-- No input point and no output point is bound twice (R31), and no role is bound twice for the same subject
and index (R172 check 2). -/
abbrev PointsOk (s : State) : Prop :=
  (s.points.map fun p => (p.role.isInput, p.node, p.point)).Nodup ∧
    (s.points.map fun p => (p.role, p.subject, p.index)).Nodup

/-- No output is bound twice (R31). A valve is energised only while a granted step of its hatch drives it,
and two valves of one actuator are never energised together (R53). -/
abbrev ValvesOk (s : State) : Prop :=
  ((s.points.filter fun p => !p.role.isInput).map fun p => (p.node, p.point)).Nodup ∧
  (∀ p ∈ s.points, p.isValve = true → s.outAt p.node p.point ≠ 0 →
    ∃ g ∈ s.granted, g.hatch = p.subject ∧ p.role = g.step.driven ∧ p.index ∈ g.step.valveIndexes) ∧
  ∀ p ∈ s.points, ∀ q ∈ s.points, p.Opposes q →
    s.outAt p.node p.point = 0 ∨ s.outAt q.node q.point = 0

/-- In SEA no cleat-release valve is energised (R132). -/
abbrev SeaValvesOk (s : State) : Prop :=
  s.mode = .sea → ∀ p ∈ s.points, p.role = .cleatReleaseValve → s.outAt p.node p.point = 0

/-- At most one pump is STARTING (R92), and no two pump records share a number. -/
abbrev PumpsOk (s : State) : Prop :=
  (s.pumps.filter fun p => p.st == .starting).length ≤ 1 ∧ (s.pumps.map Pump.num).Nodup

/-! ### Groups of state for frames -/

/-- A node record without its slice of the output image. -/
def Node.still (n : Node) : Node := { n with outs := [] }

/-- `t` is `s` but for what a motion, a grant, a pump or an alarm may change: the output image, the
hatch and operation records, the holder table, the Flow Arbiter, the pumps and the Alarm List. Node
records keep all but their outputs, and no hatch, operation or pump record comes or goes. -/
structure OnlyMotion (s t : State) : Prop where
  rest : t = { s with
    nodes := t.nodes
    hatches := t.hatches
    ops := t.ops
    claims := t.claims
    queue := t.queue
    granted := t.granted
    pumps := t.pumps
    band := t.band
    budget := t.budget
    maxB := t.maxB
    pumpIdle := t.pumpIdle
    alarms := t.alarms }
  nodes : t.nodes.map Node.still = s.nodes.map Node.still
  hatches : t.hatches.map Hatch.num = s.hatches.map Hatch.num
  ops : t.ops.map Op.hatch = s.ops.map Op.hatch
  pumps : t.pumps.map Pump.num = s.pumps.map Pump.num

/-- `t` is `s` but for what a turn of the field line may change: all that `OnlyMotion` allows, the
scan, the node and point records, and the part mode at READY. -/
def OnlyField (s t : State) : Prop :=
  t = { s with
    mode := t.mode
    scan := t.scan
    nodes := t.nodes
    points := t.points
    hatches := t.hatches
    ops := t.ops
    claims := t.claims
    queue := t.queue
    granted := t.granted
    pumps := t.pumps
    band := t.band
    budget := t.budget
    maxB := t.maxB
    pumpIdle := t.pumpIdle
    alarms := t.alarms }

/-- `t` is `s` but for the line records and the model's own counter. -/
def OnlyLines (s t : State) : Prop := t = { s with lines := t.lines, free := t.free }

/-- Every line record but that of line `l` is the same. -/
structure SameOtherLines (s : State) (l : Nat) (t : State) : Prop where
  same : ∀ k, k ≠ l → t.line? k = s.line? k

/-- Every hatch record, operation record, claim, entry and grant of a hatch other than `h` is the
same. -/
structure SameOtherHatches (s : State) (h : Nat) (t : State) : Prop where
  hatch : ∀ k, k ≠ h → t.hatch? k = s.hatch? k
  op : ∀ k, k ≠ h → t.op? k = s.op? k
  claim : ∀ k, k ≠ h → t.claim? k = s.claim? k
  entry : ∀ k, k ≠ h → t.entry? k = s.entry? k
  grant : ∀ k, k ≠ h → t.grant? k = s.grant? k

/-- An operation record cleared to IDLE (R44). -/
def Op.cleared (o : Op) : Op :=
  { o with kind := .none, disc := none, prog := [], st := .idle, stalls := 0, start := none,
           halt := none, fault := none, hold := none }

/-- Requests that need a ship mode and a configuration in force are taken (R131, R137). -/
abbrev InService (s : State) : Prop :=
  (s.mode = .sea ∨ s.mode = .harbour ∨ s.mode = .commission) ∧ s.inForce.isSome = true

/-- A payload byte that names a hatch in the range of R159. -/
abbrev NamesHatch (s : State) (b : Byte) : Prop := 1 ≤ b.toNat ∧ b.toNat ≤ s.hatchLimit

/-- Every hatch with its holder (R118). -/
def State.holders (s : State) : List (Nat × Option Nat) := s.claims.map fun c => (c.hatch, c.holder)

/-- The operation of a record is QUEUED, MOVING or PAUSED. -/
def Op.atWork (o : Op) : Bool := o.st == .queued || o.st == .moving || o.st == .paused

/-- What the emergency stop makes of `s` (R68, R90, R99, R141): the latch is set and ESTOP_ACTIVE
raised; every operation at work is cleared to IDLE with its STALL, a FAULTED record loses its program
and keeps the rest, an IDLE one stays (its claim idle timer too, log 36); nothing is queued or granted;
every pump that is not FAILED is OFF; every valve output and every PUMP_RUN output of a pump that was
not FAILED is at 0, and no output changes but to 0. -/
structure Stopped (s t : State) : Prop where
  rest : t = { s with
    latch := true
    alarms := (s.ops.filter Op.atWork).foldl (fun al o => al.clear .stall (.hatch o.hatch))
      (s.alarms.raise .estopActive .part s.runningTime)
    ops := s.ops.map fun o =>
      if o.st = .faulted then { o with prog := [] } else if o.st = .idle then o else o.cleared
    claims := s.claims.map fun c =>
      if c.holder.isSome ∧ s.ops.any (fun o => o.hatch == c.hatch && o.atWork) = true then
        { c with idle := some s.now }
      else c
    hatches := s.hatches.map fun hr =>
      if s.opState hr.num = .moving then { hr with classifier := .idle } else hr
    queue := []
    granted := []
    pumpIdle := if s.queue = [] ∧ s.granted = [] then s.pumpIdle else some s.now
    pumps := s.pumps.map fun p =>
      if p.st = .failed then p else { p with st := .off, deadline := none, settle := none }
    nodes := t.nodes
    budget := 0
    maxB := s.computeMaxB }
  still : t.nodes.map Node.still = s.nodes.map Node.still
  valves : ∀ p ∈ s.points, p.isValve = true → t.outAt p.node p.point = 0
  pumps : ∀ p ∈ s.pumps, p.st ≠ .failed → ∀ q, s.pumpPoint? .pumpRun p.num = some q →
    t.outAt q.node q.point = 0
  outs : ∀ a k, t.outAt a k = 0 ∨ t.outAt a k = s.outAt a k

/-- What every reset leaves (R21, R41, R73, R101, R114, R129, R139, R143, R154, R167); that no line has a
frame in transmission is the model's choice (log 47). -/
def AtReset (s : State) : Prop :=
  s.mode = .loading ∧ s.arm = none ∧ s.latch = false ∧ s.inForce = none ∧ s.storing = none ∧
    s.nodes = [] ∧ s.points = [] ∧ s.scan.place = none ∧ s.hatches = [] ∧ s.ops = [] ∧
    s.claims = [] ∧ s.queue = [] ∧ s.granted = [] ∧ s.pumps = [] ∧ s.alarms = ⟨[], false⟩ ∧
    s.att = ⟨[], none, none, some s.now, .hunting, 0, 0, 0, 0, 0⟩ ∧
    ∀ ln ∈ s.lines, ∃ l, 1 ≤ l ∧ l ≤ 6 ∧ ln.num = l ∧ ln.cls = LineClass.ofStraps s.straps l ∧
      ln.link = (if ln.cls = .none then .off else .down) ∧ ln.rx = .hunting ∧
      ln.silence = none ∧ ln.reportAt = none ∧ ln.queue = [] ∧ ln.tx = none ∧ ln.good = 0 ∧ ln.crcErrs = 0 ∧
      ln.framingErrs = 0 ∧ ln.overruns = 0 ∧ ln.refusals = 0 ∧ ln.annReach = none ∧
      ln.holdAbility = none ∧ ln.estopAbility = none ∧ ln.reach = 0

/-! ### Steps -/

/-- The target of a step holds (R45): every cleat of its group RELEASED or ENGAGED, or both panels at
the limit that the step brings them to. -/
abbrev Hatch.AtTarget (hr : Hatch) (st : Step) : Prop :=
  match st with
  | .releaseGroup g => ∀ c ∈ hr.cleats, c.group = g → c.st = .released
  | .engageGroup g => ∀ c ∈ hr.cleats, c.group = g → c.st = .engaged
  | .lift => hr.panel1.lift = .lifted ∧ hr.panel2.lift = .lifted
  | .lower => hr.panel1.lift = .lowered ∧ hr.panel2.lift = .lowered
  | .travelOpen => hr.panel1.travel = .opened ∧ hr.panel2.travel = .opened
  | .travelClose => hr.panel1.travel = .closed ∧ hr.panel2.travel = .closed
  | .foldOpen => hr.panel1.travel = .folded ∧ hr.panel2.travel = .folded
  | .foldClose => hr.panel1.travel = .closed ∧ hr.panel2.travel = .closed

/-- A release or engage step whose group has a DISAGREE cleat (R51, R62). -/
abbrev Hatch.InDisagreement (hr : Hatch) (st : Step) : Prop :=
  match st with
  | .releaseGroup g => ∃ c ∈ hr.cleats, c.group = g ∧ c.st = .disagree
  | .engageGroup g => ∃ c ∈ hr.cleats, c.group = g ∧ c.st = .disagree
  | _ => False

/-- A step of a hatch uses a point (R27): the pressure input, the valves that the step drives and
holds at 0, and the inputs that its target tests. -/
abbrev Hatch.Uses (hr : Hatch) (st : Step) (p : Point) : Prop :=
  p.subject = hr.num ∧ (p.role = .hatchPressure ∨
    match st with
    | .releaseGroup g | .engageGroup g =>
      ((p.role = .cleatReleaseValve ∨ p.role = .cleatEngageValve) ∧ p.index = g) ∨
        ((p.role = .cleatEngaged ∨ p.role = .cleatReleased) ∧
          ∃ c ∈ hr.cleats, c.group = g ∧ c.num = p.index)
    | .lift | .lower =>
      ((p.role = .liftValve ∨ p.role = .lowerValve) ∧ p.index = 0) ∨
        p.role = .panelLifted ∨ p.role = .panelLowered
    | .travelOpen | .travelClose =>
      ((p.role = .travelOpenValve ∨ p.role = .travelCloseValve) ∧ (p.index = 1 ∨ p.index = 2)) ∨
        p.role = .panelClosed ∨ p.role = .panelOpen
    | .foldOpen | .foldClose =>
      ((p.role = .foldOpenValve ∨ p.role = .foldCloseValve) ∧ (p.index = 1 ∨ p.index = 2)) ∨
        p.role = .panelClosed ∨ p.role = .panelFolded)

/-- A write to a valve of a hatch: its role, its index and the setpoint. -/
abbrev ValveWrite := Role × Nat × Nat

/-- The valves that a step holds at 0, as its grant writes them (R45, R53). -/
def Step.opposedWrites : Step → List ValveWrite
  | .releaseGroup g => [(.cleatEngageValve, g, 0)]
  | .engageGroup g => [(.cleatReleaseValve, g, 0)]
  | .lift => [(.lowerValve, 0, 0)]
  | .lower => [(.liftValve, 0, 0)]
  | .travelOpen => [(.travelCloseValve, 1, 0), (.travelCloseValve, 2, 0)]
  | .travelClose => [(.travelOpenValve, 1, 0), (.travelOpenValve, 2, 0)]
  | .foldOpen => [(.foldCloseValve, 1, 0), (.foldCloseValve, 2, 0)]
  | .foldClose => [(.foldOpenValve, 1, 0), (.foldOpenValve, 2, 0)]

/-- The valve `r` of each panel at the setpoint `v`, at 0 for a panel that is at `target` (R54). -/
def Hatch.panelWrites (hr : Hatch) (r : Role) (target : Travel) (v : Nat) : List ValveWrite :=
  [(r, 1, if hr.panel1.travel = target then 0 else v),
    (r, 2, if hr.panel2.travel = target then 0 else v)]

/-- The valves that a step drives: an on/off valve at 100, the proportional valve of each panel at the
granted setpoint `v` unless the panel is at the target (R45, R53, R54). -/
def Hatch.drivenWrites (hr : Hatch) (st : Step) (v : Nat) : List ValveWrite :=
  match st with
  | .releaseGroup g => [(.cleatReleaseValve, g, 100)]
  | .engageGroup g => [(.cleatEngageValve, g, 100)]
  | .lift => [(.liftValve, 0, 100)]
  | .lower => [(.lowerValve, 0, 100)]
  | .travelOpen => hr.panelWrites .travelOpenValve .opened v
  | .travelClose => hr.panelWrites .travelCloseValve .closed v
  | .foldOpen => hr.panelWrites .foldOpenValve .folded v
  | .foldClose => hr.panelWrites .foldCloseValve .closed v

/-- The writes to the valves of hatch `h`, one after the other. -/
def State.writeValves (s : State) (h : Nat) (ws : List ValveWrite) : State :=
  ws.foldl (fun x w => x.drive w.1 h w.2.1 w.2.2) s

/-- The valves of a step of hatch `h` are at 0 in `t` (R53), at the points that `s` binds. -/
def ValvesShut (s t : State) (h : Nat) (st : Step) : Prop :=
  ∀ i ∈ st.valveIndexes, ∀ role ∈ [st.driven, st.opposed],
    ∀ p, s.point? role h i = some p → t.outAt p.node p.point = 0

/-- Output `k` of the node at address `a` is a valve of a step of hatch `h`, by the bindings of `s`. -/
def State.IsValveOf (s : State) (h : Nat) (st : Step) (a k : Nat) : Prop :=
  ∃ i ∈ st.valveIndexes, ∃ role ∈ [st.driven, st.opposed], ∃ p, s.point? role h i = some p ∧
    p.node = a ∧ p.point = k

/-- From `s` to `t` the valves of a step of hatch `h` are set to 0 (R53), and no other output changes. -/
def StepShut (s t : State) (h : Nat) (st : Step) : Prop :=
  ValvesShut s t h st ∧ ∀ a k, ¬s.IsValveOf h st a k → t.outAt a k = s.outAt a k

/-- The outputs after the halt of an operation of hatch `h` with the record `o`: the valves of a MOVING
step are at 0 and nothing else has changed; without a MOVING step no output has (R53, R56). -/
def HaltShut (s t : State) (h : Nat) (o : Op) : Prop :=
  (o.st ≠ .moving → t.nodes = s.nodes) ∧
    ∀ st, o.st = .moving → o.prog.head? = some st → StepShut s t h st

/-- A hatch record with the direction that a grant of a release or engage step records (R4), brought
up to date; for another step the record as it is. -/
def State.directed (s : State) (hr : Hatch) (st : Step) : Hatch :=
  match st with
  | .releaseGroup g => s.deriveHatch { hr with
      groups := updateKey Group.num g (fun x => { x with dir := .release }) hr.groups }
  | .engageGroup g => s.deriveHatch { hr with
      groups := updateKey Group.num g (fun x => { x with dir := .engage }) hr.groups }
  | _ => hr

/-- The alarms that follow a hatch record from `old` to `new`: SENSOR_DISAGREE follows the
disagreement flag (R11), and HATCH_UNSECURED_AT_SEA the position state SECURED in SEA (R133). -/
def followAlarms (sea : Prop) [Decidable sea] (time : Nat) (old new : Hatch) (al : AlarmList) :
    AlarmList :=
  let al1 :=
    if old.disagree = new.disagree then al
    else if new.disagree = true then al.raise .sensorDisagree (.hatch old.num) time
    else al.clear .sensorDisagree (.hatch old.num)
  if sea ∧ old.position = .secured ∧ new.position ≠ .secured then
    al1.raise .hatchUnsecuredAtSea (.hatch old.num) time
  else if sea ∧ old.position ≠ .secured ∧ new.position = .secured then
    al1.clear .hatchUnsecuredAtSea (.hatch old.num)
  else al1

/-! ### Pumps -/

/-- Pump `n`, with the record `p`, fails (R94, R95): it is FAILED without deadline and settle end, its
PUMP_RUN output is at 0, PUMP_FAILED is raised, and the budget is taken (log 38). -/
def Trips (s : State) (n : Nat) (p : Pump) (t : State) : Prop :=
  ∃ u : State, t = u.takeBudget ∧
    u = { s with
      pumps := u.pumps, nodes := u.nodes
      alarms := s.alarms.raise .pumpFailed (.pump n) s.runningTime } ∧
    (∀ k, k ≠ n → u.pump? k = s.pump? k) ∧
    u.pump? n = some { p with st := .failed, deadline := none, settle := none } ∧
    u.nodes.map Node.still = s.nodes.map Node.still ∧
    ∀ q, s.pumpPoint? .pumpRun n = some q → u.outAt q.node q.point = 0 ∧
      ∀ a k, ¬(a = q.node ∧ k = q.point) → u.outAt a k = s.outAt a k

/-! ### Configuration -/

/-- Items whose range is an interval (R171, R107): code, first and last index, least and greatest
value. -/
def itemRows : List (Nat × Nat × Nat × Nat × Nat) :=
  [(1, 0, 0, 1, 11), (2, 1, 11, 0, 1), (3, 1, 11, 1, 4), (4, 1, 11, 0, 1), (5, 1, 88, 1, 400),
    (6, 1, 44, 1, 600), (9, 0, 0, 1, 3), (10, 1, 3, 1, 400), (11, 0, 0, 0, 200),
    (12, 0, 0, 0, 299), (13, 0, 0, 10, 300), (14, 0, 0, 25, 100), (15, 0, 0, 0, 299),
    (16, 0, 0, 10, 300), (17, 0, 0, 25, 100), (19, 0, 0, 0, 63), (20, 1, 6, 0, 2047)]

/-- The item exists and the value lies in its range (R171): an interval, a cleat entry, a node, a
qualification time, or a binding. -/
abbrev ItemRange (code idx v : Nat) : Prop :=
  (∃ r ∈ itemRows, code = r.1 ∧ r.2.1 ≤ idx ∧ idx ≤ r.2.2.1 ∧ r.2.2.2.1 ≤ v ∧ v ≤ r.2.2.2.2) ∨
  (code = 7 ∧ 1 ≤ idx ∧ idx ≤ 160 ∧ (v = 0 ∨
    (v / 4096 = 0 ∧ v / 128 % 2 = 0 ∧ 1 ≤ v / 256 ∧ v / 256 ≤ 11 ∧ 1 ≤ v % 32 ∧ v % 32 ≤ 24))) ∨
  (code = 8 ∧ 1 ≤ idx ∧ idx ≤ 48 ∧ (v = 0 ∨ v / 256 = 128)) ∨
  (code = 18 ∧ 1 ≤ idx ∧ idx ≤ 3 ∧ 20 ≤ v ∧ v ≤ 500 ∧ v % 20 = 0) ∨
  (32 ≤ code ∧ code ≤ 55 ∧ 1 ≤ idx ∧ idx ≤ 48 ∧ (v = 0 ∨
    (v / 32768 = 0 ∧ 1 ≤ v % 32 ∧ v % 32 ≤ 21 ∧ v / 32 % 16 ≤ 11 ∧ v / 512 % 32 ≤ 24)))

/-- Slot `k` holds a cleat entry (R171): cleat `n` of group `g` of hatch `h`. -/
abbrev CleatAt (c : Items) (k h g n : Nat) : Prop :=
  1 ≤ k ∧ k ≤ 160 ∧ itemNat c 7 k ≠ 0 ∧ h = itemNat c 7 k / 256 % 16 ∧
    g = itemNat c 7 k / 32 % 4 + 1 ∧ n = itemNat c 7 k % 32

/-- Item `code` of node `a` binds its point to a role with subject and index (R171). -/
abbrev BoundAt (c : Items) (code a : Nat) (r : Role) (subj idx : Nat) : Prop :=
  32 ≤ code ∧ code ≤ 55 ∧ 1 ≤ a ∧ a ≤ 48 ∧ itemNat c code a ≠ 0 ∧
    Role.ofCode (itemNat c code a % 32) = some r ∧ subj = itemNat c code a / 32 % 16 ∧
    idx = itemNat c code a / 512 % 32

/-- Subject and index lie in range for the role (R31, R172 check 2): a pump (log 22), the power pack, or
a hatch of the right cover type (log 41) with its panel, group or cleat. -/
def Fits (c : Items) (r : Role) (subj idx : Nat) : Prop :=
  let hatch := 1 ≤ subj ∧ subj ≤ itemNat c 1 0
  let panel := hatch ∧ (idx = 1 ∨ idx = 2)
  match r with
  | .pumpRun | .pumpRunning => 1 ≤ subj ∧ subj ≤ itemNat c 9 0 ∧ (idx = 0 ∨ idx = subj)
  | .oilCold | .oilWarm | .oilHot => subj = 0 ∧ idx = 0
  | .cleatEngaged | .cleatReleased => hatch ∧ ∃ k g, CleatAt c k subj g idx
  | .cleatReleaseValve | .cleatEngageValve => hatch ∧ 1 ≤ idx ∧ idx ≤ itemNat c 3 subj
  | .hatchPressure | .liftValve | .lowerValve => hatch ∧ idx = 0
  | .panelClosed => panel
  | .panelOpen | .panelLifted | .panelLowered | .travelOpenValve | .travelCloseValve =>
    panel ∧ itemNat c 2 subj = 0
  | .panelFolded | .foldOpenValve | .foldCloseValve => panel ∧ itemNat c 2 subj = 1

/-- Hatch `h` must have role `r` at index `i` (R172 check 3). -/
def Required (c : Items) (h : Nat) (r : Role) (i : Nat) : Prop :=
  (itemNat c 2 h = 0 ∧ (i = 1 ∨ i = 2) ∧ r ∈ [Role.panelClosed, .panelOpen, .panelLifted,
    .panelLowered, .travelOpenValve, .travelCloseValve]) ∨
  (itemNat c 2 h = 1 ∧ (i = 1 ∨ i = 2) ∧ r ∈ [Role.panelClosed, .panelFolded, .foldOpenValve,
    .foldCloseValve]) ∨
  (i = 0 ∧ (r = .hatchPressure ∨ (itemNat c 2 h = 0 ∧ (r = .liftValve ∨ r = .lowerValve)))) ∨
  (1 ≤ i ∧ i ≤ itemNat c 3 h ∧ (r = .cleatReleaseValve ∨ r = .cleatEngageValve)) ∨
  (r = .cleatEngaged ∧ ∃ k g, CleatAt c k h g i)

/-- A valid configuration (R172): its four checks. `c` holds the items that differ from their default;
every default lies in range. -/
structure ValidItems (c : Items) : Prop where
  ranges : ∀ e ∈ c, ItemRange (e.1 / 256) (e.1 % 256) e.2.toNat
  limits : itemNat c 12 0 < itemNat c 13 0 ∧ itemNat c 15 0 < itemNat c 16 0
  cleats : ∀ k h g n, CleatAt c k h g n → h ≤ itemNat c 1 0 ∧ g ≤ itemNat c 3 h ∧
    ∀ k' g', CleatAt c k' h g' n → k' = k
  numbers : ∀ h, 1 ≤ h → h ≤ itemNat c 1 0 → ∃ m, 1 ≤ m ∧ m ≤ 24 ∧
    ∀ n, (∃ k g, CleatAt c k h g n) ↔ 1 ≤ n ∧ n ≤ m
  bindings : ∀ code a r subj idx, BoundAt c code a r subj idx →
    (getItem c 8 a).getLsbD 15 = true ∧ (r.code ≤ 12 ↔ code < 48) ∧
      (18 ≤ r.code → (getItem c 8 a).getLsbD (code - 48) = true) ∧ Fits c r subj idx ∧
      ∀ code' a' idx', BoundAt c code' a' r subj idx' →
        idx' = idx ∨ r = .pumpRun ∨ r = .pumpRunning → code' = code ∧ a' = a
  required : ∀ h r i, 1 ≤ h → h ≤ itemNat c 1 0 → Required c h r i → ∃ code a, BoundAt c code a r h i
  pumps : ∀ n, 1 ≤ n → n ≤ itemNat c 9 0 → ∀ r ∈ [Role.pumpRun, .pumpRunning],
    ∃ code a i, BoundAt c code a r n i

/-! ### Tables -/

/-- The records that a READ from index `first` returns out of those of a table, whose indexes begin at
`base` (R164): as many whole ones as fit in `room` bytes, in their order. The next index past the end is
that of log 19. -/
structure Selected (recs : List (List Byte)) (base first room next count : Nat) (bytes : List Byte) :
    Prop where
  within : count ≤ recs.length - (max first base - base)
  whole : bytes = ((recs.drop (max first base - base)).take count).flatten
  fits : bytes.length ≤ room
  full : ∀ r ∈ (recs.drop (max first base - base + count)).head?, room < bytes.length + r.length
  beyond : next = min (max first base + count) (base + recs.length)

/-- Command `c`, a READ of `table` from index `first`, is answered DONE with the records of `xs`, each
laid out as `layout` says of its index, and changes nothing but its line (R164, R168). `extra` stands
between the number of records and the records. -/
def Reads {α : Type} (s : State) (dt l : Nat) (seq : Byte) (c : Instr) (table : Byte)
    (base first : Nat) (extra : List Byte) (xs : List α) (layout : Nat → α → List Byte → Prop) :
    Prop :=
  ∃ (u : State) (recs : List (List Byte)) (next count : Nat) (bytes : List Byte),
    exec c s = .next (u.answer l seq kindRead (some .done)
      (table :: (be16 next ++ [byte count] ++ extra ++ bytes))) ∧
    u = { (s.advance dt).heard l with free := u.free } ∧
    Selected recs base first (42 - extra.length) next count bytes ∧ recs.length = xs.length ∧
    ∀ k x r, xs[k]? = some x → recs[k]? = some r → layout (base + k) x r

/-- A HATCH record (R20, R169); the lift states of a FOLD hatch are 15. -/
def HatchRow (hr : Hatch) : List Byte :=
  let panel := fun p : Panel =>
    byte (p.travel.code + 16 * (if hr.cover = .fold then 15 else p.lift.code .roll))
  [byte hr.num, byte ((if hr.cover = .fold then 1 else 0) + (if hr.stale then 2 else 0) +
      (if hr.disagree then 4 else 0)), byte hr.position.code, byte hr.cleats.length,
    byte hr.engaged, byte hr.groups.length,
    byte (hr.groups.map fun g => g.dir.code * 4 ^ (g.num - 1)).sum, panel hr.panel1,
    panel hr.panel2] ++ be16 hr.heavy ++ be16 hr.completed

/-- A CLEAT record (R20, R169). -/
def CleatRow (i : Nat) (x : Nat × Cleat) (r : List Byte) : Prop :=
  r = [byte i, byte x.1, byte x.2.num, byte x.2.group,
    byte (x.2.st.code + 8 * x.2.dwell.code + if x.2.hasReleased then 32 else 0)]

/-- A step in one byte (R169): its kind, and its group or 0 (log 17) in bits 4 to 7. -/
def stepByte : Step → Byte
  | .releaseGroup g => byte (1 + 16 * g)
  | .engageGroup g => byte (2 + 16 * g)
  | .lift => 3
  | .lower => 4
  | .travelOpen => 5
  | .travelClose => 6
  | .foldOpen => 7
  | .foldClose => 8

/-- An OPERATION record (R72, R169). -/
def OperationRow (now : Nat) (o : Op) (r : List Byte) : Prop :=
  r = [byte o.hatch, byte o.kind.code, byte (Discipline.code o.disc), byte o.st.code,
      byte (HaltReason.code o.halt), byte (FaultKind.code o.fault), byte o.stalls,
      byte o.prog.length] ++ o.prog.map stepByte ++
    be32 (match o.start with | some t => now - t | none => 0xFFFFFFFF) ++
    be16 (match o.hold with | some t => t - now | none => 0xFFFF) ++
    be16 (match o.watch with | some t => now - t | none => 0xFFFF)

/-- A QUEUE record (R100, R169): an entry, or a grant. The demand of an entry that no evaluation has
seen is a free value (log 16). -/
def QueueRow (x : Entry ⊕ Grant) (r : List Byte) : Prop :=
  match x with
  | .inl e => ∃ d0 d1 : Byte,
    r = [byte ((if e.closing then 2 else 0) + if e.blocked then 4 else 0), byte e.hatch,
      stepByte e.step] ++ be32 e.time ++ (match e.demand with | some d => be16 d | none => [d0, d1])
  | .inr g =>
    r = [byte (1 + (if g.closing then 2 else 0) + if g.clamped then 4 else 0), byte g.hatch,
      stepByte g.step] ++ be32 g.time ++ be16 g.q ++ be16 g.demand ++ [byte g.speed, byte g.setpoint]

/-- A PUMP record (R100, R169): the power pack, or a pump. -/
def PumpRow (s : State) (x : Option Pump) (r : List Byte) : Prop :=
  match x with
  | none =>
    r = [byte s.band.code,
        byte (match s.band with | .cold => 60 | .normal => 100 | .warm => 85 | .hot => 0)] ++
      be16 ((s.pumps.filter fun p => p.st = .running).map Pump.flow).sum ++
      be16 ((s.pumps.filter fun p => p.st ≠ .failed).map Pump.flow).sum ++ be16 s.budget ++
      be16 s.maxB ++ [byte (match s.inForce with | some c => itemNat c 11 0 | none => 0)] ++
      be16 (s.budget - (s.granted.map Grant.demand).sum) ++
      be16 (match s.pumpIdle with | some t => s.now - t | none => 0xFFFF)
  | some p =>
    r = [byte p.num] ++ be16 p.flow ++ [byte p.st.code,
        match s.pumpPoint? .pumpRunning p.num with
        | some q => byte ((if q.qual = some true then 1 else 0) +
            (if q.qual = none then 0 else 2) + if q.stale then 4 else 0)
        | none => 4] ++
      be16 (match p.deadline, p.settle with
        | some t, _ => t - s.now
        | none, some t => t - s.now
        | none, none => 0xFFFF)

/-- An ALARM record (R153, R169). -/
def AlarmRow (i : Nat) (a : Alarm) (r : List Byte) : Prop :=
  r = [byte i, byte a.code.code, byte a.subject.kindCode, byte a.subject.number] ++ be32 a.time ++
    [byte a.st.code]

/-- A NODE record (R42, R169). The bytes of an absent sample are free values (log 16). -/
def NodeRow (n : Node) (r : List Byte) : Prop :=
  ∃ w0 w1 : Byte,
    r = [byte n.addr, n.kinds, byte n.st.code, byte n.misses, byte n.goods,
        if n.sample = none then 0 else 1] ++
      (match n.sample with
        | some w => [byte w.toNat, byte (w.toNat / 256)]
        | none => [w0, w1]) ++ n.outs.map byte

/-- A POINT record (R42, R169). What a kind of point does not have is a free value (log 16). -/
def PointRow (s : State) (p : Point) (r : List Byte) : Prop :=
  ∃ x y z : Byte,
    r = [byte p.role.code, byte p.subject, byte p.index, byte p.node,
        byte (p.point + if p.inverted then 128 else 0)] ++
      if 12 < p.role.code then [x, y, z, byte (s.outAt p.node p.point)]
      else if p.role = .hatchPressure then
        [byte ((if p.qual = some true then 1 else 0) + (if p.qual = none then 0 else 2) +
          (if p.stale then 8 else 0) +
          16 * (match s.hatch? p.subject with | some hr => hr.classifier.code | none => 0)), x, y, z]
      else
        byte ((if p.qual = some true then 1 else 0) + (if p.qual = none then 0 else 2) +
          (if p.pend = none then 0 else 4) + if p.stale then 8 else 0) :: (be16 p.chatter ++ [z])

/-- The claim idle time that remains in whole seconds (R128, R169), all ones while the timer is
stopped; how a part of a second is rounded is a free value (log 18). -/
def ClaimSeconds (s : State) (cl : Claim) (n : Nat) : Prop :=
  (cl.idle = none → n = 0xFFFF) ∧ ∀ t c ms, cl.idle = some t → s.inForce = some c →
    ms = t + cfgClaimMs c - s.now → n = ms / 1000 ∨ (ms % 1000 ≠ 0 ∧ n = ms / 1000 + 1)

/-- A LINE record 1 to 6 (R128, R165, R169). The bytes of an absent reach are free values (log 16). -/
def StationRow (s : State) (ln : Line) (r : List Byte) : Prop :=
  ∃ (x y : Byte) (held : List Claim) (secs : List Nat),
    held = s.claims.filter (fun c => c.holder = some ln.num) ∧
    List.Forall₂ (ClaimSeconds s) held secs ∧
    r = [byte ln.num, byte (ln.cls.code + 16 * ln.link.code)] ++
      (match ln.annReach with | some m => be16 m.toNat | none => [x, y]) ++
      [byte ((if ln.estopAbility = some true then 1 else 0) +
        (if ln.holdAbility = some true then 2 else 0) + if ln.annReach = none then 128 else 0)] ++
      be16 ln.reach.toNat ++ be16 (reachOf (held.map Claim.hatch)).toNat ++ be16 ln.good ++
      be16 ln.crcErrs ++ be16 ln.framingErrs ++ be16 ln.overruns ++ be16 ln.refusals ++
      secs.flatMap be16

/-- The LINE records 7 and 8 (R113, R169). The bytes of an absent peak are free values (log 16). -/
def AttitudeRow (s : State) (i : Nat) (r : List Byte) : Prop :=
  if i = 7 then
    ∃ a b c d : Byte,
      r = [7, byte s.att.window.length] ++
        be16 (match s.att.silence with | some t => s.now - t | none => 0xFFFF) ++
        (if s.att.window = [] then [a, b] else
          be16 ((s.att.window.map fun w => w.1.natAbs).foldr max 0)) ++
        (if s.att.window = [] then [c, d] else
          be16 ((s.att.window.map fun w => w.2.natAbs).foldr max 0)) ++
        [byte ((if s.att.heel = none then 0 else 1) + if s.att.trim = none then 0 else 2),
          byte (s.att.heel.getD 0), byte (s.att.trim.getD 0)] ++ be16 s.att.accepted ++
        be16 s.att.framing ++ be16 s.att.crc ++ be16 s.att.invalid ++ be16 s.att.clamped
  else
    r = [8, byte s.att.window.length] ++ s.att.window.flatMap fun w =>
      be16 (BitVec.ofInt 16 w.1).toNat ++ be16 (BitVec.ofInt 16 w.2).toNat

/-- A LINE record by its index (R164). -/
def LineRow (s : State) (i : Nat) (x : Option Line) (r : List Byte) : Prop :=
  match x with
  | some ln => StationRow s ln r
  | none => AttitudeRow s i r

/-- Every item code with its first and last index, ascending (R171). -/
def configRows : List (Nat × Nat × Nat) :=
  [(1, 0, 0), (2, 1, 11), (3, 1, 11), (4, 1, 11), (5, 1, 88), (6, 1, 44), (7, 1, 160), (8, 1, 48),
    (9, 0, 0), (10, 1, 3), (11, 0, 0), (12, 0, 0), (13, 0, 0), (14, 0, 0), (15, 0, 0), (16, 0, 0),
    (17, 0, 0), (18, 1, 3), (19, 0, 0), (20, 1, 6)] ++
  (List.range 24).map fun k => (32 + k, 1, 48)

/-- A CONFIG record (R169, R171): an item's working value beside its value in force. -/
def ConfigRow (s : State) (x : Nat × Nat) (r : List Byte) : Prop :=
  r = [byte x.1, byte x.2] ++ be16 (itemNat s.working x.1 x.2) ++
    be16 (match s.inForce with | some c => itemNat c x.1 x.2 | none => 0)

/-- The RESET record (R169, R177). -/
def resetRow (s : State) : List Byte :=
  [match s.retained.mode with | .sea => 3 | .harbour => 4 | .commission => 5,
    match s.retained.cause with | .powerOn => 1 | .external => 2 | .supply => 3,
    byte s.retained.externals, byte s.retained.supplies] ++
  be32 (min (s.retained.ranMs / 1000) 4294967295) ++ be16 s.straps.toNat

/-- The payload of a REPORT (R163, R168). -/
def reportBytes (s : State) : List Byte :=
  let pump := fun n => match s.pump? n with | some p => p.st.code | none => 0
  [byte s.mode.code,
    byte ((if s.latch then 1 else 0) + (if s.arm = none then 0 else 2) +
      (if s.mode = .sea ∨ s.mode = .harbour ∨ s.mode = .commission then 4 else 0) +
      (if s.alarms.overflow then 8 else 0) + if 4 ≤ s.att.window.length then 16 else 0)] ++
  be16 (if s.inForce = none then 0 else s.budget) ++
  be16 (if s.inForce = none then 0 else s.budget - (s.granted.map Grant.demand).sum) ++
  be16 ((s.att.window.map fun w => w.1.natAbs).foldr max 0) ++
  be16 ((s.att.window.map fun w => w.2.natAbs).foldr max 0) ++
  [byte (pump 1 + 4 * pump 2 + 16 * pump 3 + 64 * s.pumps.length),
    byte (s.alarms.recs.filter fun a => a.st ≠ .raisedAck).length] ++
  s.hatches.flatMap fun hr =>
    [byte hr.position.code, byte (s.opState hr.num).code,
      byte ((s.holder? hr.num).getD 0 + (if s.opState hr.num = .faulted then 8 else 0) +
        if hr.stale then 16 else 0)]

/-! ### The build -/

/-- The alarm list with the conditions cleared that a build and the entry to UNCONFIGURED clear (R21,
R41, R73, R101). -/
def AlarmList.rebuilt (al : AlarmList) : AlarmList :=
  [AlarmCode.sensorDisagree, .nodeLost, .sensorChatter, .stall, .jammed, .timeout, .pressureStuck,
    .pumpFailed, .oilHot].foldl AlarmList.clearAll al

/-- `hr` is the start value of a hatch record (R21): cover, groups and cleats from the configuration,
all else unknown, absent or 0. The configured cleats stand in ascending number. -/
def HatchBuilt (c : Items) (points : List Point) (hr : Hatch) : Prop :=
  hr = { num := hr.num, cover := if itemNat c 2 hr.num = 1 then .fold else .roll
         groups := (upTo (itemNat c 3 hr.num)).map fun g => ⟨g, .none⟩
         cleats := hr.cleats
         panel1 := ⟨.unknown, .unknown⟩, panel2 := ⟨.unknown, .unknown⟩, engaged := 0
         position := .unknown, stale := true, disagree := false, heavy := 0, completed := 0
         classifier := .idle } ∧
    hr.cleats.map Cleat.num = (upTo 24).filter (fun n =>
      (cfgCleats c).any fun e => e.1 == hr.num && e.2.2 == n) ∧
    ∀ x ∈ hr.cleats, (hr.num, x.group, x.num) ∈ cfgCleats c ∧ x.dwell = .idle ∧ x.st = .unknown ∧
      (x.hasReleased = true ↔
        ∃ p ∈ points, p.role = .cleatReleased ∧ p.subject = hr.num ∧ p.index = x.num)

/-- `p` is the start value of a point record (R31, R41, R171): the binding that a nonzero item 32 to 55
of a present node spells, its point ABSENT without a value and stale. An output keeps the bit 14 of its
item (log 44). -/
def PointBuilt (c : Items) (p : Point) : Prop :=
  ∃ (a k : Nat) (r : Role), 1 ≤ a ∧ a ≤ 48 ∧ (getItem c 8 a).getLsbD 15 = true ∧ k < 24 ∧
    Role.ofCode (itemNat c (32 + k) a % 32) = some r ∧
    p = { role := r, subject := itemNat c (32 + k) a / 32 % 16
          index := itemNat c (32 + k) a / 512 % 32, node := a
          point := if k < 16 then k else k - 16
          inverted := (getItem c (32 + k) a).getLsbD 14
          qual := none, pend := none, chatter := 0, stale := true }

/-- `u` is `s` with every block built from the configuration `c` (R1, R21, R22, R41, R73, R101, R114,
R125, R129): the records of the configured nodes, points, hatches, operations, claims and pumps at
their start values, the reach of every line resolved again, the fractions derived again, and the first
scan due. -/
structure BuiltFrom (s : State) (c : Items) (u : State) : Prop where
  rest : u = { s with
    inForce := some c
    nodes := ((upTo 48).filter fun a => (getItem c 8 a).getLsbD 15).map fun a =>
      ⟨a, byte (itemNat c 8 a), .absent, 0, 0, none, List.replicate 8 0⟩
    points := u.points
    scan := ⟨0, s.now, none, false, false, []⟩
    hatches := u.hatches
    ops := (upTo (itemNat c 1 0)).map fun h =>
      ⟨h, .none, none, [], .idle, 0, none, none, none, none, none⟩
    claims := (upTo (itemNat c 1 0)).map fun h => ⟨h, none, none⟩
    queue := []
    granted := []
    pumps := (upTo (itemNat c 9 0)).map fun n => ⟨n, itemNat c 10 n, .off, none, none⟩
    pumpIdle := some s.now
    band := if u.points.any (fun p => p.role.isThermostat) = true then .cold else .normal
    budget := 0
    maxB := ((upTo (itemNat c 9 0)).map fun n => itemNat c 10 n).sum *
      (if u.points.any (fun p => p.role.isThermostat) = true then 60 else 100) / 100 - itemNat c 11 0
    att := State.deriveFractions { s with inForce := some c }
    alarms := s.alarms.rebuilt
    lines := s.lines.map fun ln => { ln with
      reach := if ln.link = .active then
          (match ln.cls with
          | .none => 0
          | .deck => ln.annReach.getD 0 &&& getItem c 20 ln.num &&& reachUpTo (itemNat c 1 0)
          | .console | .bridge => reachUpTo (itemNat c 1 0))
        else 0 } }
  hatchNums : u.hatches.map Hatch.num = upTo (itemNat c 1 0)
  hatches : ∀ hr ∈ u.hatches, HatchBuilt c u.points hr
  points : ∀ p, p ∈ u.points ↔ PointBuilt c p
  order : u.points = cfgPoints c

/-- `u` is `s` as the entry to UNCONFIGURED leaves it (R138, R178; R1, R22, R41, R73, R101, R114,
R125): no block has a record, no configuration is in force, every reach is empty, CONFIG_INVALID is
raised. Band NORMAL and a stopped pump idle timer are the model's choice there (log 5). -/
def Unbuilt (s u : State) : Prop :=
  u = { s with
    mode := .unconfigured
    inForce := none
    nodes := []
    points := []
    scan := ⟨0, 0, none, false, false, []⟩
    hatches := []
    ops := []
    claims := []
    queue := []
    granted := []
    pumps := []
    pumpIdle := none
    band := .normal
    budget := 0
    maxB := 0
    att := { s.att with heel := none, trim := none }
    alarms := s.alarms.rebuilt.raise .configInvalid .part s.runningTime
    lines := s.lines.map fun ln => { ln with reach := 0 } }

/-! ### Requests -/

/-- A request: its time, line, SEQ, KIND and whole payload length. -/
structure Request where
  dt : Nat
  line : Nat
  seq : Byte
  kind : Byte
  len : Nat
  deriving DecidableEq, Repr

end Sys2Proof.Machine

namespace Sys2Proof

open Machine in
/-- The request that a command is: every station telegram of a KIND the part knows, but IDLE
(R158). -/
def Instr.request? : Instr → Option Request
  | .announce dt l seq p => some ⟨dt, l, seq, kindAnnounce, p.length⟩
  | .take dt l seq p => some ⟨dt, l, seq, kindTake, p.length⟩
  | .yield dt l seq p => some ⟨dt, l, seq, kindYield, p.length⟩
  | .run dt l seq p => some ⟨dt, l, seq, kindRun, p.length⟩
  | .hold dt l seq p => some ⟨dt, l, seq, kindHold, p.length⟩
  | .halt dt l seq p => some ⟨dt, l, seq, kindHalt, p.length⟩
  | .clearFault dt l seq p => some ⟨dt, l, seq, kindClear, p.length + 1⟩
  | .clearPump dt l seq p => some ⟨dt, l, seq, kindClear, p.length + 1⟩
  | .clearEstop dt l seq p => some ⟨dt, l, seq, kindClear, p.length + 1⟩
  | .clearCounters dt l seq p => some ⟨dt, l, seq, kindClear, p.length + 1⟩
  | .estop dt l seq p => some ⟨dt, l, seq, kindEstop, p.length⟩
  | .armHarbour dt l seq p => some ⟨dt, l, seq, kindMode, p.length + 1⟩
  | .confirmHarbour dt l seq p => some ⟨dt, l, seq, kindMode, p.length + 1⟩
  | .modeSea dt l seq p => some ⟨dt, l, seq, kindMode, p.length + 1⟩
  | .modeCommission dt l seq p => some ⟨dt, l, seq, kindMode, p.length + 1⟩
  | .leaveCommission dt l seq p => some ⟨dt, l, seq, kindMode, p.length + 1⟩
  | .acknowledgeOne dt l seq p => some ⟨dt, l, seq, kindAcknowledge, p.length + 1⟩
  | .acknowledgeAll dt l seq p => some ⟨dt, l, seq, kindAcknowledge, p.length + 1⟩
  | .readHatch dt l seq p => some ⟨dt, l, seq, kindRead, p.length + 1⟩
  | .readCleat dt l seq p => some ⟨dt, l, seq, kindRead, p.length + 1⟩
  | .readOperation dt l seq p => some ⟨dt, l, seq, kindRead, p.length + 1⟩
  | .readQueue dt l seq p => some ⟨dt, l, seq, kindRead, p.length + 1⟩
  | .readPump dt l seq p => some ⟨dt, l, seq, kindRead, p.length + 1⟩
  | .readAlarm dt l seq p => some ⟨dt, l, seq, kindRead, p.length + 1⟩
  | .readNode dt l seq p => some ⟨dt, l, seq, kindRead, p.length + 1⟩
  | .readPoint dt l seq p => some ⟨dt, l, seq, kindRead, p.length + 1⟩
  | .readLine dt l seq p => some ⟨dt, l, seq, kindRead, p.length + 1⟩
  | .readConfig dt l seq p => some ⟨dt, l, seq, kindRead, p.length + 1⟩
  | .readReset dt l seq p => some ⟨dt, l, seq, kindRead, p.length + 1⟩
  | .write dt l seq p => some ⟨dt, l, seq, kindWrite, p.length⟩
  | .store dt l seq p => some ⟨dt, l, seq, kindStore, p.length⟩
  | _ => none

/-- The milliseconds that pass before a command (log 1). -/
def Instr.dt : Instr → Nat
  | .announce dt _ _ _ | .idle dt _ _ _ | .unknownKind dt _ _ _ _ | .take dt _ _ _
  | .yield dt _ _ _ | .run dt _ _ _ | .hold dt _ _ _ | .halt dt _ _ _ | .clearFault dt _ _ _
  | .clearPump dt _ _ _ | .clearEstop dt _ _ _ | .clearCounters dt _ _ _ | .estop dt _ _ _
  | .armHarbour dt _ _ _ | .confirmHarbour dt _ _ _ | .modeSea dt _ _ _
  | .modeCommission dt _ _ _ | .leaveCommission dt _ _ _ | .acknowledgeOne dt _ _ _
  | .acknowledgeAll dt _ _ _ | .readHatch dt _ _ _ | .readCleat dt _ _ _
  | .readOperation dt _ _ _ | .readQueue dt _ _ _ | .readPump dt _ _ _ | .readAlarm dt _ _ _
  | .readNode dt _ _ _ | .readPoint dt _ _ _ | .readLine dt _ _ _ | .readConfig dt _ _ _
  | .readReset dt _ _ _ | .write dt _ _ _ | .store dt _ _ _ | .storeWriteComplete dt
  | .crcError dt _ | .framingError dt _ _ | .silenceExpiry dt _ | .reportDue dt _
  | .frameSent dt _ | .attitudeTelegram dt _ _ _ _ _ | .attitudeFramingError dt
  | .attitudeSilence dt _ | .scan dt | .fieldReply dt _ _ _ _ | .slotEnd dt _ _
  | .dwellComplete dt _ _ | .stepTimeout dt _ | .holdWindowExpiry dt _
  | .pressureWatchExpiry dt _ | .claimIdleExpiry dt _ | .feedbackDeadline dt _ | .settleEnd dt _
  | .pumpIdleStop dt | .armExpiry dt | .estopInActive dt | .estopInInactive dt | .powerOn dt _
  | .external dt | .supplyHold dt | .supply dt _ | .resetRelease dt _ => dt

/-- The commands that act in reset and in supply hold: the reset sources, the supply and the pins
(R176; log 27 for ESTOP_IN). -/
def Instr.actsUnpowered : Instr → Bool
  | .powerOn _ _ | .external _ | .supplyHold _ | .supply _ _ | .resetRelease _ _ => true
  | .estopInActive _ | .estopInInactive _ => true
  | _ => false

end Sys2Proof

namespace Sys2Proof.Machine

/-- Line `l` takes telegrams: the part is running, and the line is one of the six, with the record
`ln`, not OFF (R155, R176). -/
abbrev Hears (s : State) (l : Nat) (ln : Line) : Prop :=
  s.power = .running ∧ 1 ≤ l ∧ l ≤ 6 ∧ s.line? l = some ln ∧ ln.link ≠ .off

/-- A request on line `l` reaches its owner (R158): the line hears, is ACTIVE, and its transmit
queue has room. -/
def Served (s : State) (l : Nat) : Prop :=
  ∃ ln, Hears s l ln ∧ ln.link = .active ∧ ln.queue.length < 4

/-- The state in which the owner of a request finds the part: `dt` ms have passed and step 1 of R158
is done. -/
def State.taken (s : State) (dt l : Nat) : State := (s.advance dt).heard l

end Sys2Proof.Machine
end

