-- ==== Sys2Proof/WellFormed.lean ====
section
/-! DEFINITION. When a command is well formed: its numbers lie in the ranges that the spec's wire
formats and tables allow, and an UNKNOWN_KIND spells a telegram that has no row of its own. -/

namespace Sys2Proof

/-- Lines 1 to 6 (R155). -/
def lineOk (l : Nat) : Bool := 1 ≤ l && l ≤ 6

/-- A payload of at most `n` bytes (R168: LEN 0 to 48; 47 after a byte that names the row). -/
def payloadOk (n : Nat) (p : List Byte) : Bool := p.length ≤ n

/-- Hatches 1 to 11 (R2). -/
def hatchOk (h : Nat) : Bool := 1 ≤ h && h ≤ 11

/-- Cleat numbers 1 to 24 (R5). -/
def cleatOk (n : Nat) : Bool := 1 ≤ n && n ≤ 24

/-- Pumps 1 to 3 (R91). -/
def pumpOk (n : Nat) : Bool := 1 ≤ n && n ≤ 3

/-- Node addresses 1 to 48 (R22). -/
def nodeOk (a : Nat) : Bool := 1 ≤ a && a ≤ 48

/-- An order of input points 0 to 15, none twice (R31). -/
def orderOk (o : List Nat) : Bool := o.all (· < 16) && decide o.Nodup

/-- KINDs that have a row for every payload (R168). -/
def plainKinds : List Byte :=
  [0x01, 0x02, 0x10, 0x11, 0x20, 0x21, 0x22, 0x31, 0x60, 0x61]

/-- How many values of the first payload byte have a row of their own (R168, R169): the targets of
CLEAR, the arguments of MODE, the forms of ACKNOWLEDGE, the tables of READ. -/
def rowsOfKind (kind : Byte) : Nat :=
  if kind = 0x30 then 4
  else if kind = 0x32 then 5
  else if kind = 0x40 then 2
  else if kind = 0x50 then 11
  else 0

/-- The telegram has no row of its own (log 7). -/
def unknownOk (kind : Byte) (p : List Byte) : Bool :=
  !(plainKinds.contains kind) &&
    match p with
    | [] => true
    | b :: _ => !(1 ≤ b.toNat && b.toNat ≤ rowsOfKind kind)

/-- The command is well formed. -/
def Instr.wellFormed : Instr → Bool
  | .announce _ l _ p => lineOk l && payloadOk 48 p
  | .idle _ l _ p => lineOk l && payloadOk 48 p
  | .unknownKind _ l _ k p => lineOk l && payloadOk 48 p && unknownOk k p
  | .take _ l _ p => lineOk l && payloadOk 48 p
  | .yield _ l _ p => lineOk l && payloadOk 48 p
  | .run _ l _ p => lineOk l && payloadOk 48 p
  | .hold _ l _ p => lineOk l && payloadOk 48 p
  | .halt _ l _ p => lineOk l && payloadOk 48 p
  | .clearFault _ l _ p => lineOk l && payloadOk 47 p
  | .clearPump _ l _ p => lineOk l && payloadOk 47 p
  | .clearEstop _ l _ p => lineOk l && payloadOk 47 p
  | .clearCounters _ l _ p => lineOk l && payloadOk 47 p
  | .estop _ l _ p => lineOk l && payloadOk 48 p
  | .armHarbour _ l _ p => lineOk l && payloadOk 47 p
  | .confirmHarbour _ l _ p => lineOk l && payloadOk 47 p
  | .modeSea _ l _ p => lineOk l && payloadOk 47 p
  | .modeCommission _ l _ p => lineOk l && payloadOk 47 p
  | .leaveCommission _ l _ p => lineOk l && payloadOk 47 p
  | .acknowledgeOne _ l _ p => lineOk l && payloadOk 47 p
  | .acknowledgeAll _ l _ p => lineOk l && payloadOk 47 p
  | .readHatch _ l _ p => lineOk l && payloadOk 47 p
  | .readCleat _ l _ p => lineOk l && payloadOk 47 p
  | .readOperation _ l _ p => lineOk l && payloadOk 47 p
  | .readQueue _ l _ p => lineOk l && payloadOk 47 p
  | .readPump _ l _ p => lineOk l && payloadOk 47 p
  | .readAlarm _ l _ p => lineOk l && payloadOk 47 p
  | .readNode _ l _ p => lineOk l && payloadOk 47 p
  | .readPoint _ l _ p => lineOk l && payloadOk 47 p
  | .readLine _ l _ p => lineOk l && payloadOk 47 p
  | .readConfig _ l _ p => lineOk l && payloadOk 47 p
  | .readReset _ l _ p => lineOk l && payloadOk 47 p
  | .write _ l _ p => lineOk l && payloadOk 48 p
  | .store _ l _ p => lineOk l && payloadOk 48 p
  | .storeWriteComplete _ => true
  | .crcError _ l => lineOk l
  | .framingError _ l _ => lineOk l
  | .silenceExpiry _ l => lineOk l
  | .reportDue _ l => lineOk l
  | .frameSent _ l => lineOk l
  | .attitudeTelegram _ _ _ _ _ _ => true
  | .attitudeFramingError _ => true
  | .attitudeSilence _ _ => true
  | .scan _ => true
  | .fieldReply _ a _ o _ => nodeOk a && orderOk o
  | .slotEnd _ a _ => nodeOk a
  | .dwellComplete _ h c => hatchOk h && cleatOk c
  | .stepTimeout _ h => hatchOk h
  | .holdWindowExpiry _ h => hatchOk h
  | .pressureWatchExpiry _ h => hatchOk h
  | .claimIdleExpiry _ h => hatchOk h
  | .feedbackDeadline _ n => pumpOk n
  | .settleEnd _ n => pumpOk n
  | .pumpIdleStop _ => true
  | .armExpiry _ => true
  | .estopInActive _ => true
  | .estopInInactive _ => true
  | .powerOn _ _ => true
  | .external _ => true
  | .supplyHold _ => true
  | .supply _ _ => true
  | .resetRelease _ _ => true

end Sys2Proof
end

