-- ==== Sys2Proof/Certificates/Slice0/Obligations.lean ====
section
/-! DEFINITION. The statements about the model that the provers are asked for. The `dt` of a command,
the milliseconds that have passed before it, is the model's (DESIGN CHOICE, log 1), and so is that the
expiry of a timer is a command that acts only when it is due (log 2). -/

open Sys2Proof Sys2Proof.Machine

/-! ### The step -/

/-- A step takes the command at the front of the queue and runs it on the queue's rest. -/
def Obligations.StepTakesTheFrontCommand : Prop :=
  ∀ (c : Instr) (s : State) (rest : List Instr),
    step { s with pending := c :: rest } = exec c { s with pending := rest }

/-- `State.reset` has the values that the reset tables give, and the retained cell of a POWER_ON
reset; that no line has a frame in transmission is the model's choice (DESIGN CHOICE, log 47); its queue of
commands is empty. On an empty queue the part idles (the model's choice, log 3),
but for a running part whose stored image has not been read since its reset release: it reads the image
and starts up (R178; that it does so at this step is the model's choice, log 4). From `State.reset`, whose
stored image fails its CRC (log 5), it becomes UNCONFIGURED. -/
def Obligations.ResetStateAndTheIdleStep : Prop :=
  AtReset State.reset ∧ State.reset.retained = ⟨.sea, .powerOn, 0, 0, 0⟩ ∧
    State.reset.pending = [] ∧ State.reset.lines.map Line.num = [1, 2, 3, 4, 5, 6] ∧
    (∀ s : State, s.pending = [] → s.started = true ∨ s.power ≠ .running → step s = .next s) ∧
    (∀ s : State, s.pending = [] → s.started = false → s.power = .running →
      step s = .next s.startUp) ∧
    step State.reset = .next { State.reset with
      started := true
      mode := .unconfigured
      alarms := ⟨[⟨.configInvalid, .part, 0, .raisedUnack⟩], false⟩ }

/-- Every well-formed command is taken; a command of a line that does not exist faults (log 32). -/
def Obligations.EveryWellFormedCommandIsTaken : Prop :=
  (∀ (c : Instr) (s : State), c.wellFormed = true → ∃ t : State, exec c s = .next t) ∧
    (∀ (c : Instr) (r : Request) (s : State), c.request? = some r →
      ¬(1 ≤ r.line ∧ r.line ≤ 6) → exec c s = .fault .noSuchLine) ∧
    ∀ (s : State) (dt l : Nat), ¬(1 ≤ l ∧ l ≤ 6) →
      (∀ seq p, exec (.idle dt l seq p) s = .fault .noSuchLine) ∧
        (∀ seq k p, exec (.unknownKind dt l seq k p) s = .fault .noSuchLine) ∧
        exec (.crcError dt l) s = .fault .noSuchLine ∧
        (∀ b, exec (.framingError dt l b) s = .fault .noSuchLine) ∧
        exec (.silenceExpiry dt l) s = .fault .noSuchLine ∧
        exec (.reportDue dt l) s = .fault .noSuchLine ∧
        exec (.frameSent dt l) s = .fault .noSuchLine

/-- No command changes the queue of waiting commands. -/
def Obligations.CommandsLeaveTheQueue : Prop :=
  ∀ (c : Instr) (s t : State), exec c s = .next t → t.pending = s.pending

/-! ### Station lines -/

/-- An IDLE counts as a good telegram, restarts the silence timer and takes a DOWN line to AWAITING;
it does nothing more (R155, R156, R158). A frame with a bad CRC is counted; an abandoned frame is
counted, and only the SYNC byte that ends a gap begins a new one (R157). On a line that is OFF no station
telegram, frame or expiry changes anything or is counted: only the time passes (R155, R165). (One record
per line is part of `QueuesOk`, which every step keeps.) -/
def Obligations.FramesThatAskNothing : Prop :=
  (∀ (s : State) (dt l : Nat) (ln : Line), Hears s l ln →
    (∀ (seq : Byte) (p : List Byte), p.length ≤ 48 →
      ∃ t : State, exec (.idle dt l seq p) s = .next t ∧ t = s.taken dt l ∧
        t = { s.advance dt with lines := t.lines } ∧ SameOtherLines s l t ∧
        t.line? l = some { ln with
          good := inc16 ln.good
          silence := some (s.now + dt)
          rx := .hunting
          link := if ln.link = .down then .awaiting else ln.link }) ∧
    (∃ t : State, exec (.crcError dt l) s = .next t ∧ t = { s.advance dt with lines := t.lines } ∧
      SameOtherLines s l t ∧
      t.line? l = some { ln with crcErrs := inc16 ln.crcErrs, rx := .hunting }) ∧
    ∀ cause : FrameBreak,
      ∃ t : State, exec (.framingError dt l cause) s = .next t ∧
        t = { s.advance dt with lines := t.lines } ∧ SameOtherLines s l t ∧
        t.line? l = some { ln with
          framingErrs := inc16 ln.framingErrs
          rx := if cause = .gap 0xC5 then .receiving else .hunting }) ∧
  ∀ (s : State) (l : Nat) (ln : Line), s.power = .running → 1 ≤ l → l ≤ 6 → s.line? l = some ln →
    ln.link = .off →
    (∀ (c : Instr) (r : Request), c.request? = some r → r.line = l →
      exec c s = .next (s.advance r.dt)) ∧
    ∀ dt : Nat,
      (∀ (seq : Byte) (p : List Byte), exec (.idle dt l seq p) s = .next (s.advance dt)) ∧
      (∀ (seq kind : Byte) (p : List Byte),
        exec (.unknownKind dt l seq kind p) s = .next (s.advance dt)) ∧
      ((s.lines.map Line.num).Nodup → exec (.crcError dt l) s = .next (s.advance dt)) ∧
      (∀ cause : FrameBreak, exec (.framingError dt l cause) s = .next (s.advance dt)) ∧
      exec (.silenceExpiry dt l) s = .next (s.advance dt) ∧
      exec (.reportDue dt l) s = .next (s.advance dt)

/-- An answer joins the end of its line's queue and is counted as a refusal unless it is DONE or
STARTED; a free transmitter then begins a due REPORT, or else the oldest answer that is not held
(R161, R162). The SEQ `q` of a REPORT is a free value (log 16). -/
def Obligations.AnswerJoinsTheQueue : Prop :=
  ∀ (s : State) (l : Nat) (seq kind : Byte) (r : Option Result) (args : List Byte) (ln : Line),
    s.line? l = some ln →
    OnlyLines s (s.answer l seq kind r args) ∧ SameOtherLines s l (s.answer l seq kind r args) ∧
    ∃ (m : Line) (q : Byte), (s.answer l seq kind r args).line? l = some m ∧
      m = { ln with
        queue := m.queue
        tx := m.tx
        reportIsDue := m.reportIsDue
        refusals :=
          if r = none ∨ r = some .done ∨ r = some .started then ln.refusals
          else inc16 ln.refusals } ∧
      (m.queue, m.tx, m.reportIsDue) =
        if ln.tx.isSome ∨ ¬(ln.link = .active ∨ ln.link = .awaiting) then
          (ln.queue ++ [⟨seq, kind, r, args⟩], ln.tx, ln.reportIsDue)
        else if ln.link = .active ∧ ln.reportIsDue = true then
          (ln.queue ++ [⟨seq, kind, r, args⟩], some ⟨kindReport, q, s.reportPayload⟩, false)
        else
          match ln.queue ++ [⟨seq, kind, r, args⟩] with
          | [] => ([], none, ln.reportIsDue)
          | a :: rest =>
            match a.result with
            | none => (a :: rest, none, ln.reportIsDue)
            | some x => (rest, some (a.frame x), ln.reportIsDue)

/-- Requests that the Line Interface ends itself (R158 steps 3 to 5): with four answers queued an
overrun, on a line that is not ACTIVE a NOT_READY unless it is an ANNOUNCE, and a KIND that the part
does not know a BAD_REQUEST. A telegram without a row of its own (log 7) is an overrun in the same way, and
where its KIND is CLEAR, MODE, ACKNOWLEDGE or READ a NOT_READY. -/
def Obligations.RequestsThatReachNoOwner : Prop :=
  ∀ (s : State) (ln : Line),
    (∀ (c : Instr) (r : Request), c.request? = some r → Hears s r.line ln → r.len ≤ 48 →
      (4 ≤ ln.queue.length → exec c s = .next ((s.taken r.dt r.line).updLine r.line fun x =>
        { x with overruns := inc16 x.overruns })) ∧
      (ln.queue.length < 4 → ln.link ≠ .active → r.kind ≠ kindAnnounce → exec c s =
        .next ((s.taken r.dt r.line).answer r.line r.seq r.kind (some .notReady) []))) ∧
    ∀ (dt l : Nat) (seq kind : Byte) (p : List Byte), Hears s l ln → p.length ≤ 48 →
      (4 ≤ ln.queue.length → kind ≠ kindIdle → exec (.unknownKind dt l seq kind p) s =
        .next ((s.taken dt l).updLine l fun x => { x with overruns := inc16 x.overruns })) ∧
      (ln.queue.length < 4 → kind ∉ stationKinds → exec (.unknownKind dt l seq kind p) s =
        .next ((s.taken dt l).answer l seq kind (some .badRequest) [])) ∧
      (ln.queue.length < 4 → ln.link ≠ .active →
        kind ∈ [kindClear, kindMode, kindAcknowledge, kindRead] →
        exec (.unknownKind dt l seq kind p) s =
          .next ((s.taken dt l).answer l seq kind (some .notReady) []))

/-- Arguments that fail the checks of R159 are answered BAD_ARG, and nothing else changes. Operation
kind NONE is no kind that RUN may carry (DEDUCED, log 9). Requests that the part mode turns away change
nothing either: in LOADING, and without a configuration in force (in UNCONFIGURED, and for YIELD, HOLD,
HALT, CLEAR FAULT and CLEAR PUMP in COMMISSION too), whatever the class of the line (R131, R137). The
count 0 of a refused ACKNOWLEDGE of all records is DEDUCED (log 39). BAD_ARG too: a payload of 48 bytes,
which no request has; an ANNOUNCE that is not of 4 bytes or has class 0 (DEDUCED, log 9) or a class above 3,
on a line that is not ACTIVE too (R160); and a telegram of KIND CLEAR, MODE, ACKNOWLEDGE or READ whose first
payload byte is missing or names no target, argument, form or table (R159, R169; the command that carries
it is the model's, log 7). -/
def Obligations.BadArgumentsAreRefused : Prop :=
  (∀ (s : State) (dt l : Nat) (seq : Byte) (p : List Byte), Served s l → p.length = 48 →
    ∀ c ∈ [(Instr.take dt l seq p, kindTake), (.yield dt l seq p, kindYield),
        (.run dt l seq p, kindRun), (.hold dt l seq p, kindHold), (.halt dt l seq p, kindHalt),
        (.estop dt l seq p, kindEstop), (.write dt l seq p, kindWrite),
        (.store dt l seq p, kindStore), (.announce dt l seq p, kindAnnounce)],
      exec c.1 s = .next ((s.taken dt l).answer l seq c.2 (some .badArg) [])) ∧
  (∀ (s : State) (dt l : Nat) (seq : Byte) (ln : Line), Hears s l ln → ln.queue.length < 4 →
    (∀ c hi lo ab : Byte, c.toNat = 0 ∨ 3 < c.toNat →
      exec (.announce dt l seq [c, hi, lo, ab]) s =
        .next ((s.taken dt l).answer l seq kindAnnounce (some .badArg) [])) ∧
    ∀ p : List Byte, p.length ≠ 4 → p.length ≤ 48 →
      exec (.announce dt l seq p) s =
        .next ((s.taken dt l).answer l seq kindAnnounce (some .badArg) [])) ∧
  (∀ (s : State) (dt l rows : Nat) (seq kind : Byte) (p : List Byte), Served s l → p.length ≤ 48 →
    (kind, rows) ∈ [(kindClear, 4), (kindMode, 5), (kindAcknowledge, 2), (kindRead, 11)] →
    (∀ b ∈ p.head?, b.toNat = 0 ∨ rows < b.toNat) →
    exec (.unknownKind dt l seq kind p) s =
      .next ((s.taken dt l).answer l seq kind (some .badArg) [])) ∧
  ∀ (s : State) (dt l : Nat) (seq : Byte) (p : List Byte), Served s l → p.length ≤ 47 →
    ((¬∃ b, p = [b] ∧ NamesHatch s b) →
      exec (.take dt l seq p) s =
        .next ((s.taken dt l).answer l seq kindTake (some .badArg) []) ∧
      exec (.yield dt l seq p) s =
        .next ((s.taken dt l).answer l seq kindYield (some .badArg) []) ∧
      exec (.hold dt l seq p) s =
        .next ((s.taken dt l).answer l seq kindHold (some .badArg) []) ∧
      exec (.halt dt l seq p) s =
        .next ((s.taken dt l).answer l seq kindHalt (some .badArg) []) ∧
      exec (.clearFault dt l seq p) s =
        .next ((s.taken dt l).answer l seq kindClear (some .badArg) [])) ∧
    ((¬∃ b k, p = [b, k] ∧ NamesHatch s b ∧ 1 ≤ k.toNat ∧ k.toNat ≤ 4) →
      exec (.run dt l seq p) s =
        .next ((s.taken dt l).answer l seq kindRun (some .badArg) [])) ∧
    ((¬∃ b, p = [b] ∧ 1 ≤ b.toNat ∧ b.toNat ≤ s.pumpLimit) →
      exec (.clearPump dt l seq p) s =
        .next ((s.taken dt l).answer l seq kindClear (some .badArg) [])) ∧
    (p.length ≠ 1 →
      exec (.clearEstop dt l seq p) s =
        .next ((s.taken dt l).answer l seq kindClear (some .badArg) []) ∧
      exec (.clearCounters dt l seq p) s =
        .next ((s.taken dt l).answer l seq kindClear (some .badArg) [])) ∧
    (p ≠ [] →
      exec (.estop dt l seq p) s =
        .next ((s.taken dt l).answer l seq kindEstop (some .badArg) []) ∧
      exec (.store dt l seq p) s =
        .next ((s.taken dt l).answer l seq kindStore (some .badArg) []) ∧
      (∀ c ∈ [Instr.armHarbour dt l seq p, .confirmHarbour dt l seq p, .modeSea dt l seq p,
          .modeCommission dt l seq p, .leaveCommission dt l seq p],
        exec c s = .next ((s.taken dt l).answer l seq kindMode (some .badArg) [])) ∧
      exec (.acknowledgeAll dt l seq p) s =
        .next ((s.taken dt l).answer l seq kindAcknowledge (some .badArg) [])) ∧
    (recordArgs p = none →
      exec (.acknowledgeOne dt l seq p) s =
        .next ((s.taken dt l).answer l seq kindAcknowledge (some .badArg) [])) ∧
    (p.length ≠ 3 →
      ∀ c ∈ [Instr.readHatch dt l seq p, .readCleat dt l seq p, .readOperation dt l seq p,
          .readQueue dt l seq p, .readPump dt l seq p, .readAlarm dt l seq p, .readNode dt l seq p,
          .readPoint dt l seq p, .readLine dt l seq p, .readConfig dt l seq p,
          .readReset dt l seq p],
        exec c s = .next ((s.taken dt l).answer l seq kindRead (some .badArg) [])) ∧
    (p.length ≠ 4 →
      exec (.write dt l seq p) s =
        .next ((s.taken dt l).answer l seq kindWrite (some .badArg) []) ∧
      exec (.announce dt l seq p) s =
        .next ((s.taken dt l).answer l seq kindAnnounce (some .badArg) [])) ∧
    (∀ (b i : Byte) (r : Result), NamesHatch s b →
      (s.mode = .loading ∧ r = .notReady) ∨ (s.mode = .unconfigured ∧ r = .notConfigured) →
      exec (.take dt l seq [b]) s =
        .next ((s.taken dt l).answer l seq kindTake (some r) [b]) ∧
      exec (.clearEstop dt l seq [i]) s =
        .next ((s.taken dt l).answer l seq kindClear (some r) [3, i]) ∧
      ∀ c ∈ [(Instr.armHarbour dt l seq [], (1 : Byte)), (.confirmHarbour dt l seq [], 2),
          (.modeSea dt l seq [], 3), (.leaveCommission dt l seq [], 5)],
        exec c.1 s = .next ((s.taken dt l).answer l seq kindMode (some r)
          [c.2, byte s.mode.code])) ∧
    (s.mode = .loading → exec (.modeCommission dt l seq []) s =
      .next ((s.taken dt l).answer l seq kindMode (some .notReady) [4, 1])) ∧
    (∀ (b n : Byte) (r : Result), NamesHatch s b → 1 ≤ n.toNat → n.toNat ≤ s.pumpLimit →
      (s.mode = .loading ∧ r = .notReady) ∨
        ((s.mode = .unconfigured ∨ (s.mode = .commission ∧ s.inForce = none)) ∧
          r = .notConfigured) →
      exec (.yield dt l seq [b]) s =
        .next ((s.taken dt l).answer l seq kindYield (some r) [b]) ∧
      exec (.hold dt l seq [b]) s =
        .next ((s.taken dt l).answer l seq kindHold (some r) [b]) ∧
      exec (.halt dt l seq [b]) s =
        .next ((s.taken dt l).answer l seq kindHalt (some r) [b]) ∧
      exec (.clearFault dt l seq [b]) s =
        .next ((s.taken dt l).answer l seq kindClear (some r) [1, b]) ∧
      exec (.clearPump dt l seq [n]) s =
        .next ((s.taken dt l).answer l seq kindClear (some r) [2, n])) ∧
    (s.mode = .unconfigured →
      exec (.estop dt l seq []) s =
        .next ((s.taken dt l).answer l seq kindEstop (some .notConfigured) []) ∧
      (∀ i, exec (.clearCounters dt l seq [i]) s =
        .next ((s.taken dt l).answer l seq kindClear (some .notConfigured) [4, i])) ∧
      (recordArgs p ≠ none → exec (.acknowledgeOne dt l seq p) s =
        .next ((s.taken dt l).answer l seq kindAcknowledge (some .notConfigured) p)) ∧
      exec (.acknowledgeAll dt l seq []) s =
        .next ((s.taken dt l).answer l seq kindAcknowledge (some .notConfigured) [0]))

/-- An ANNOUNCE of the strapped class is accepted on a line that is not ACTIVE, and on an ACTIVE line
that holds no hatch (R115, R116, R160). -/
def Obligations.AnnounceOfTheStrappedClassIsAccepted : Prop :=
  ∀ (s : State) (dt l : Nat) (seq c hi lo ab : Byte) (ln : Line), Hears s l ln →
    ln.queue.length < 4 → ln.cls ≠ .none → c.toNat = ln.cls.code →
    (ln.link = .active → s.heldBy l = []) →
    ∃ u : State, exec (.announce dt l seq [c, hi, lo, ab]) s =
        .next (u.answer l seq kindAnnounce (some .done)
          [byte (match s.inForce with | none => 0 | some i => cfgHatches i), byte s.mode.code]) ∧
      u = { s.taken dt l with lines := u.lines, alarms := u.alarms } ∧
      u.alarms = (if ln.link = .active then s.alarms.clear .classMismatch (.line l)
        else (s.alarms.clear .classMismatch (.line l)).clear .stationLost (.line l)) ∧
      SameOtherLines s l u ∧
      u.line? l = some { ln with
        good := inc16 ln.good
        silence := some (s.now + dt)
        rx := .hunting
        link := .active
        reportAt := if ln.link = .active then ln.reportAt else some (s.now + dt + 500)
        reportIsDue := if ln.link = .active then ln.reportIsDue else false
        annReach := some ((hi ++ lo : Word) &&& 0x07FF)
        estopAbility := some (ab.getLsbD 0)
        holdAbility := some (ab.getLsbD 1)
        reach := match s.inForce with
          | none => 0
          | some i =>
            if ln.cls = .deck then
              ((hi ++ lo : Word) &&& 0x07FF) &&& cfgReach i l &&& reachUpTo (cfgHatches i)
            else reachUpTo (cfgHatches i) }

/-- An ANNOUNCE of another class is refused CLASS with CLASS_MISMATCH raised; one on an ACTIVE line
that holds a hatch is refused HELD (R160). -/
def Obligations.AnnounceIsRefused : Prop :=
  ∀ (s : State) (dt l : Nat) (seq c hi lo ab : Byte) (ln : Line), Hears s l ln →
    ln.queue.length < 4 → 1 ≤ c.toNat → c.toNat ≤ 3 →
    (ln.link = .active → s.heldBy l ≠ [] →
      exec (.announce dt l seq [c, hi, lo, ab]) s =
        .next ((s.taken dt l).answer l seq kindAnnounce (some .held) [])) ∧
    ((ln.link = .active → s.heldBy l = []) → c.toNat ≠ ln.cls.code →
      exec (.announce dt l seq [c, hi, lo, ab]) s =
        .next (((s.taken dt l).raiseAlarm .classMismatch (.line l)).answer l seq kindAnnounce
          (some .class) []))

/-- After 1500 ms of silence the line goes DOWN: its timers stop, its queue is emptied and
CLASS_MISMATCH is cleared; the claims of an ACTIVE line are released, its announced data and its harbour
arm are cleared (R115, R123, R134, R156). Where one of its hatches is QUEUED or MOVING, STATION_LOST is
raised before the releases (R123) and an evaluation follows them (log 12). A release frees the hatch and
hands the loss to the Engine, which halts and clears an operation that is not IDLE or FAULTED (R69,
R118), its valves shut if it was MOVING (R53, R56). A REPORT that is due is dropped too (log 25). Before
1500 ms, and on a DOWN line, nothing changes but the time (log 2). -/
def Obligations.SilenceTakesTheLineDown : Prop :=
  (∀ (s : State) (dt l t0 : Nat) (ln : Line), Hears s l ln → ln.silence = some t0 →
    t0 + 1500 ≤ s.now + dt →
    (ln.link = .awaiting →
      ∃ t : State, exec (.silenceExpiry dt l) s = .next t ∧
        t = { s.advance dt with
          lines := t.lines, alarms := s.alarms.clear .classMismatch (.line l) } ∧
        SameOtherLines s l t ∧
        t.line? l = some { ln with
          link := .down, silence := none, queue := [], reportAt := none, reportIsDue := false }) ∧
    (ln.link = .active →
      ∃ (t y u : State) (moving : Bool), exec (.silenceExpiry dt l) s = .next t ∧
        SameOtherLines s l t ∧ t.heldBy l = [] ∧
        t.line? l = some { ln with
          link := .down, silence := none, queue := [], reportAt := none, reportIsDue := false
          annReach := none, holdAbility := none, estopAbility := none, reach := 0 } ∧
        t.arm = (match s.arm with
          | some a => if a.line = l then none else some a
          | none => none) ∧
        moving = (s.heldBy l).any s.busy ∧
        y = { s.advance dt with
          lines := s.lines.map fun x => if x.num = l then { x with
            link := .down, silence := none, queue := [], reportAt := none, reportIsDue := false }
            else x
          alarms := if moving then (s.alarms.clear .classMismatch (.line l)).raise .stationLost
              (.line l) (s.advance dt).runningTime
            else s.alarms.clear .classMismatch (.line l) } ∧
        u = { (s.heldBy l).foldl State.release y with lines := t.lines, arm := t.arm } ∧
        t = (if moving then u.evaluate else u))) ∧
  (∀ (s : State) (dt l : Nat) (ln : Line), Hears s l ln →
    (∀ t ∈ ln.silence, s.now + dt < t + 1500) ∨ ln.link = .down →
    exec (.silenceExpiry dt l) s = .next (s.advance dt)) ∧
  ∀ (s : State) (h : Nat) (cl : Claim), s.claim? h = some cl →
    OnlyMotion s (s.release h) ∧ SameOtherHatches s h (s.release h) ∧
    (s.release h).claim? h = some { cl with holder := none, idle := none } ∧
    (s.release h).op? h = (s.op? h).map (fun o =>
      if o.st = .idle ∨ o.st = .faulted then o else o.cleared) ∧
    (s.release h).alarms = (if s.opState h = .idle ∨ s.opState h = .faulted then s.alarms
      else s.alarms.clear .stall (.hatch h)) ∧
    (s.opState h = .queued → (s.release h).entry? h = none) ∧
    (s.opState h = .moving → (s.release h).grant? h = none) ∧
    ∀ o, s.op? h = some o → HaltShut s (s.release h) h o

/-- A REPORT falls due on the 500 ms rhythm; it is sent at once by a free transmitter and waits for a
busy one. When a frame ends the transmitter chooses the next (R162, R163, R168). The SEQ `q` of a
REPORT is a free value (log 16). `reportBytes` spells the payload of a REPORT out, byte by byte; that the
bits of its flag bytes which the spec does not name are 0 is the model's choice (DESIGN CHOICE, log 17). A
REPORT timer that is not due, or a line that is not ACTIVE, changes nothing but the time (log 2). -/
def Obligations.ReportsAndFrames : Prop :=
  (∀ s : State, s.reportPayload = reportBytes s) ∧
  ∀ (s : State) (dt l : Nat) (ln : Line), Hears s l ln →
    (∀ t0, ln.link = .active → ln.reportAt = some t0 → t0 ≤ s.now + dt →
      ∃ (t : State) (m : Line), exec (.reportDue dt l) s = .next t ∧ OnlyLines (s.advance dt) t ∧
        SameOtherLines s l t ∧ t.line? l = some m ∧
        m = { ln with
          reportAt := some (t0 + 500), reportIsDue := m.reportIsDue, tx := m.tx } ∧
        (ln.tx.isSome = true → m.tx = ln.tx ∧ m.reportIsDue = true) ∧
        (ln.tx = none → m.reportIsDue = false ∧
          ∃ q, m.tx = some ⟨kindReport, q, (s.advance dt).reportPayload⟩)) ∧
    ((∀ t0 ∈ ln.reportAt, s.now + dt < t0) ∨ ln.link ≠ .active →
      exec (.reportDue dt l) s = .next (s.advance dt)) ∧
    (∃ (t : State) (m : Line), exec (.frameSent dt l) s = .next t ∧ OnlyLines (s.advance dt) t ∧
      SameOtherLines s l t ∧ t.line? l = some m ∧
      m = { ln with queue := m.queue, tx := m.tx, reportIsDue := m.reportIsDue } ∧
      (ln.link = .active → ln.reportIsDue = true → m.queue = ln.queue ∧ m.reportIsDue = false ∧
        ∃ q, m.tx = some ⟨kindReport, q, (s.advance dt).reportPayload⟩) ∧
      (ln.link = .down ∨ ln.reportIsDue = false → m.reportIsDue = ln.reportIsDue ∧
        ∀ a rest, ln.queue = a :: rest → ∀ r, a.result = some r → ln.link ≠ .down →
          m.tx = some (a.frame r) ∧ m.queue = rest) ∧
      (ln.link = .down ∨ (ln.reportIsDue = false ∧ ∀ a ∈ ln.queue.head?, a.result = none) →
        m.tx = none ∧ m.queue = ln.queue)) ∧
    (s.advance dt).reportPayload.length = 12 + 3 * s.hatches.length

/-- CLEAR COUNTERS from the console sets the counters of all lines, the counts of the attitude
receiver and every chatter count to 0 and clears SENSOR_CHATTER (R35, R165); from another class it is
refused CLASS. -/
def Obligations.ClearCounters : Prop :=
  ∀ (s : State) (dt l : Nat) (seq i : Byte), Served s l → s.mode ≠ .unconfigured →
    (s.classOf l = .console →
      exec (.clearCounters dt l seq [i]) s =
        .next (State.answer { s.taken dt l with
          lines := (s.taken dt l).lines.map fun ln =>
            { ln with good := 0, crcErrs := 0, framingErrs := 0, overruns := 0, refusals := 0 }
          att := { s.att with accepted := 0, framing := 0, crc := 0, invalid := 0, clamped := 0 }
          points := s.points.map fun p => { p with chatter := 0 }
          alarms := s.alarms.clearAll .sensorChatter } l seq kindClear (some .done) [4, i])) ∧
    (s.classOf l ≠ .console →
      exec (.clearCounters dt l seq [i]) s =
        .next ((s.taken dt l).answer l seq kindClear (some .class) [4, i]))

/-! ### Authority -/

/-- TAKE of a hatch that the line covers: a free hatch is granted, and the claim of its holder is
kept with its idle timer started again (R71, R119, R120). -/
def Obligations.TakeGrantsAFreeHatch : Prop :=
  ∀ (s : State) (dt l : Nat) (seq b : Byte) (cl : Claim), Served s l → NamesHatch s b →
    s.mode = .sea ∨ s.mode = .harbour → s.classOf l ≠ .bridge → s.covers l b.toNat = true →
    s.claim? b.toNat = some cl → cl.holder = none ∨ cl.holder = some l →
    ∃ u : State, exec (.take dt l seq [b]) s = .next (u.answer l seq kindTake (some .done) [b]) ∧
      u = { s.taken dt l with claims := u.claims } ∧
      (∀ k, k ≠ b.toNat → u.claim? k = s.claim? k) ∧
      u.claim? b.toNat = some { cl with
        holder := some l
        idle :=
          if s.busy b.toNat then (if cl.holder = none then none else cl.idle)
          else some (s.now + dt) }

/-- TAKE of a hatch that another line holds: HELD with the holder's line, but for a console and a
deck holder: BUSY while the hatch is in motion, else a takeover (R119, R121, R69). Before that, in their
order: CLASS from a bridge line, NO_REACH of a hatch that the line does not cover, MODE in COMMISSION
(R119); what changes there is the claim idle timer of the holder (R71; against R119 where the answer is
MODE: DEDUCED, log 46). -/
def Obligations.TakeOfAHeldHatch : Prop :=
  (∀ (s : State) (dt l : Nat) (seq b : Byte), Served s l → NamesHatch s b →
    s.mode = .sea ∨ s.mode = .harbour ∨ s.mode = .commission →
    (s.classOf l = .bridge → exec (.take dt l seq [b]) s =
      .next ((s.taken dt l).answer l seq kindTake (some .class) [b])) ∧
    (s.classOf l ≠ .bridge → s.covers l b.toNat = false →
      exec (.take dt l seq [b]) s = .next (((s.taken dt l).claimTouch b.toNat l).answer l seq
        kindTake (some .noReach) [b])) ∧
    (s.classOf l ≠ .bridge → s.covers l b.toNat = true → s.mode = .commission →
      exec (.take dt l seq [b]) s = .next (((s.taken dt l).claimTouch b.toNat l).answer l seq
        kindTake (some .mode) [b]))) ∧
  (∀ (s : State) (h l : Nat), s.claimTouch h l =
    if s.holder? h = some l ∧ s.opState h ≠ .queued ∧ s.opState h ≠ .moving then { s with
      claims := s.claims.map fun c =>
        if c.hatch = h ∧ c.holder ≠ none then { c with idle := some s.now } else c }
    else s) ∧
  ∀ (s : State) (dt l x : Nat) (seq b : Byte) (cl : Claim), Served s l → NamesHatch s b →
    s.mode = .sea ∨ s.mode = .harbour → s.classOf l ≠ .bridge → s.covers l b.toNat = true →
    s.claim? b.toNat = some cl → cl.holder = some x → x ≠ l →
    (¬(s.classOf x = .deck ∧ s.classOf l = .console) →
      exec (.take dt l seq [b]) s =
        .next ((s.taken dt l).answer l seq kindTake (some .held) [b, byte x])) ∧
    (s.classOf x = .deck → s.classOf l = .console → s.busy b.toNat = true →
      exec (.take dt l seq [b]) s =
        .next ((s.taken dt l).answer l seq kindTake (some .busy) [b])) ∧
    (s.classOf x = .deck → s.classOf l = .console → s.busy b.toNat = false →
      ∃ u : State, exec (.take dt l seq [b]) s = .next (u.answer l seq kindTake (some .done) [b]) ∧
        u = { s.taken dt l with claims := u.claims, ops := u.ops, alarms := u.alarms } ∧
        u.alarms = (if s.opState b.toNat = .paused then s.alarms.clear .stall (.hatch b.toNat)
          else s.alarms) ∧
        (∀ k, k ≠ b.toNat → u.claim? k = s.claim? k ∧ u.op? k = s.op? k) ∧
        u.claim? b.toNat = some { cl with holder := some l, idle := some (s.now + dt) } ∧
        u.op? b.toNat =
          (s.op? b.toNat).map fun o => if o.st = .paused then o.cleared else o)

/-- YIELD of the holder releases the claim and clears the operation unless it is FAULTED; an entry or
a grant of the hatch is given back first, the valves of a MOVING step shut (R53, R56), and an evaluation
follows (R69, R118, R122). A YIELD of
another line is answered NOT_HELD. -/
def Obligations.YieldReleasesTheHatch : Prop :=
  ∀ (s : State) (dt l : Nat) (seq b : Byte) (cl : Claim), Served s l → NamesHatch s b →
    InService s → s.claim? b.toNat = some cl →
    (cl.holder ≠ some l →
      exec (.yield dt l seq [b]) s =
        .next ((s.taken dt l).answer l seq kindYield (some .notHeld) [b])) ∧
    (cl.holder = some l →
      ∃ u : State, exec (.yield dt l seq [b]) s =
          .next ((if s.busy b.toNat then u.evaluate else u).answer l seq kindYield (some .done)
            [b]) ∧
        OnlyMotion (s.taken dt l) u ∧ SameOtherHatches s b.toNat u ∧
        u.claim? b.toNat = some { cl with holder := none, idle := none } ∧
        u.op? b.toNat = (s.op? b.toNat).map (fun o =>
          if o.st = .idle ∨ o.st = .faulted then o else o.cleared) ∧
        (s.opState b.toNat = .queued → u.entry? b.toNat = none) ∧
        (s.opState b.toNat = .moving → u.grant? b.toNat = none) ∧
        ∀ o, s.op? b.toNat = some o → HaltShut s u b.toNat o)

/-- When the claim idle timer reaches its limit the claim is released; a PAUSED operation is cleared,
a FAULTED or IDLE one unchanged (R71, R124). Before its limit nothing changes but the time (log 2). -/
def Obligations.ClaimIdleExpiryReleasesTheHatch : Prop :=
  (∀ (s : State) (dt h t0 : Nat) (c : Items) (cl : Claim), s.power = .running →
    s.inForce = some c → s.claim? h = some cl → cl.idle = some t0 →
    t0 + (if itemNat c 19 0 = 0 then 1 else itemNat c 19 0) * 60000 ≤ s.now + dt →
    s.busy h = false →
    ∃ t : State, exec (.claimIdleExpiry dt h) s = .next t ∧
      t = { s.advance dt with claims := t.claims, ops := t.ops, alarms := t.alarms } ∧
      t.alarms = (if s.opState h = .paused then s.alarms.clear .stall (.hatch h) else s.alarms) ∧
      (∀ k, k ≠ h → t.claim? k = s.claim? k ∧ t.op? k = s.op? k) ∧
      t.claim? h = some { cl with holder := none, idle := none } ∧
      t.op? h = (s.op? h).map fun o => if o.st = .paused then o.cleared else o) ∧
  ∀ (s : State) (dt h : Nat) (c : Items) (cl : Claim), s.power = .running →
    s.inForce = some c → s.claim? h = some cl →
    (∀ t ∈ cl.idle,
      s.now + dt < t + (if itemNat c 19 0 = 0 then 1 else itemNat c 19 0) * 60000) →
    exec (.claimIdleExpiry dt h) s = .next (s.advance dt)

/-! ### Hatch Table -/

/-- A hatch record brought up to date: the cleat states and dwells (R6 to R9), the panel states (R12),
the stale flag (R16), the engaged count and the disagreement flag (R11, R18), and the position state,
which is the first entry of R13 or R14 whose condition holds. Nothing else of the record changes; of the
part, the record and the alarms SENSOR_DISAGREE (R11) and HATCH_UNSECURED_AT_SEA (R133) that follow it
change; that SENSOR_DISAGREE is raised or cleared before HATCH_UNSECURED_AT_SEA is the model's choice
(DESIGN CHOICE, log 45; R15 fixes no order). -/
def Obligations.PositionFollowsTheTables : Prop :=
  (∀ (s : State) (hr t : Hatch), t = s.deriveHatch hr →
    (s.allQualified hr.num = true ↔ ∀ p ∈ s.points, p.subject = hr.num →
      p.role.isPanelInput = true ∨ p.role.isCleatInput = true → p.qual ≠ none) ∧
    (t.stale = false ↔ s.allQualified hr.num = true ∧
      ∀ p ∈ s.points, p.role.isHatch = true → p.subject = hr.num → s.nodeOnline p.node = true) ∧
    t.engaged = (t.cleats.filter fun c => c.st = .engaged).length ∧
    (t.disagree = true ↔ ∃ c ∈ t.cleats, c.st = .disagree) ∧
    t = { hr with
      cleats := t.cleats, panel1 := t.panel1, panel2 := t.panel2, engaged := t.engaged
      position := t.position, stale := t.stale, disagree := t.disagree } ∧
    (∀ q ∈ [(1, t.panel1), (2, t.panel2)],
      q.2.travel = (match s.qual .panelClosed hr.num q.1,
          s.qual (if hr.cover = .roll then .panelOpen else .panelFolded) hr.num q.1 with
        | some true, some false => .closed
        | some false, some true => if hr.cover = .roll then .opened else .folded
        | some false, some false => .mid
        | some true, some true => .conflict
        | _, _ => .unknown) ∧
      (hr.cover = .roll → q.2.lift = (match s.qual .panelLifted hr.num q.1,
          s.qual .panelLowered hr.num q.1 with
        | some true, some false => .lifted
        | some false, some true => .lowered
        | some false, some false => .mid
        | some true, some true => .conflict
        | _, _ => .unknown))) ∧
    (∀ (T1 T2 : Travel) (L1 L2 : Lift), t.panel1 = ⟨T1, L1⟩ → t.panel2 = ⟨T2, L2⟩ →
      hr.cover = .roll → t.position =
        if s.allQualified hr.num = false then .unknown
        else if T1 = .closed ∧ T2 = .closed ∧ L1 = .lowered ∧ L2 = .lowered ∧
          (∀ c ∈ t.cleats, c.st = .engaged) ∧ t.stale = false then .secured
        else if T1 = .closed ∧ T2 = .closed ∧ L1 = .lowered ∧ L2 = .lowered then .seated
        else if T1 = .closed ∧ T2 = .closed ∧ L1 = .lifted ∧ L2 = .lifted then .raisedClosed
        else if T1 = .opened ∧ T2 = .opened ∧ L1 = .lifted ∧ L2 = .lifted then .raisedOpen
        else if T1 = .opened ∧ T2 = .opened ∧ L1 = .lowered ∧ L2 = .lowered then .parkedOpen
        else if L1 = .lifted ∧ L2 = .lifted ∧ T1 ≠ .conflict ∧ T2 ≠ .conflict ∧
          (T1 = .mid ∨ T2 = .mid) then .inTravel
        else .indeterminate) ∧
    (∀ T1 T2 : Travel, t.panel1.travel = T1 → t.panel2.travel = T2 →
      hr.cover = .fold → t.position =
        if s.allQualified hr.num = false then .unknown
        else if T1 = .conflict ∨ T2 = .conflict then .indeterminate
        else if T1 = .closed ∧ T2 = .closed ∧ (∀ c ∈ t.cleats, c.st = .engaged) ∧ t.stale = false
          then .secured
        else if T1 = .closed ∧ T2 = .closed then .seated
        else if T1 = .folded ∧ T2 = .folded then .foldedOpen
        else if T1 = .mid ∨ T2 = .mid then .inTravel
        else .indeterminate) ∧
    t.cleats = hr.cleats.map fun c => { c with
      dwell :=
        if c.hasReleased = false ∧ s.qual .cleatEngaged hr.num c.num = some false ∧
            (findKey Group.num c.group hr.groups).map Group.dir = some .release then
          if c.dwell = .complete then .complete
          else if (s.point? .cleatEngaged hr.num c.num).map Point.stale = some true then .idle
          else if c.dwell = .idle then .running s.now else c.dwell
        else .idle
      st :=
        if c.hasReleased = true then
          match s.qual .cleatEngaged hr.num c.num, s.qual .cleatReleased hr.num c.num with
          | some true, some false => .engaged
          | some false, some true => .released
          | some false, some false => .between
          | some true, some true => .disagree
          | _, _ => .unknown
        else
          match s.qual .cleatEngaged hr.num c.num with
          | none => .unknown
          | some true => .engaged
          | some false =>
            if c.dwell = .complete ∧
              (findKey Group.num c.group hr.groups).map Group.dir = some .release then .released
            else .between }) ∧
  ∀ (s : State) (h : Nat) (hr : Hatch), s.hatch? h = some hr →
    s.refresh h = { s with
      hatches := s.hatches.map fun x => if x.num = h then s.deriveHatch hr else x
      alarms := followAlarms (s.mode = .sea) s.runningTime hr (s.deriveHatch hr) s.alarms }

/-- The program of an operation kind by cover type and position state (R46, R47, R48): `rel` releases
the groups that are not released, `eng` engages those that are not engaged. -/
def Obligations.ProgramsFollowTheTables : Prop :=
  ∀ (hr : Hatch) (rel eng : List Step),
    rel = (hr.groups.filter fun g =>
      ¬∀ c ∈ hr.cleats, c.group = g.num → c.st = .released).map (fun g => .releaseGroup g.num) →
    eng = (hr.groups.filter fun g =>
      ¬∀ c ∈ hr.cleats, c.group = g.num → c.st = .engaged).map (fun g => .engageGroup g.num) →
    (hr.cover = .roll → hr.program .opening = match hr.position with
      | .secured | .seated => some (rel ++ [.lift, .travelOpen, .lower])
      | .raisedClosed | .inTravel => some [.travelOpen, .lower]
      | .raisedOpen => some [.lower]
      | .parkedOpen => some []
      | .unknown | .foldedOpen | .indeterminate => none) ∧
    (hr.cover = .roll → hr.program .closing = match hr.position with
      | .secured => some []
      | .seated => some eng
      | .raisedClosed => some (.lower :: eng)
      | .inTravel | .raisedOpen => some (.travelClose :: .lower :: eng)
      | .parkedOpen => some (.lift :: .travelClose :: .lower :: eng)
      | .unknown | .foldedOpen | .indeterminate => none) ∧
    (hr.cover = .fold → hr.program .opening = match hr.position with
      | .secured | .seated => some (rel ++ [.foldOpen])
      | .inTravel => some [.foldOpen]
      | .foldedOpen => some []
      | _ => none) ∧
    (hr.cover = .fold → hr.program .closing = match hr.position with
      | .secured => some []
      | .seated => some eng
      | .inTravel | .foldedOpen => some (.foldClose :: eng)
      | _ => none) ∧
    hr.program .release =
      (if hr.position = .secured ∨ hr.position = .seated then some rel else none) ∧
    hr.program .engage =
      if hr.position = .secured ∨ hr.position = .seated then some eng else none

/-! ### Operations -/

/-- The checks of RUN in their order (R49, R131, R132): the first that fails gives the answer, and
nothing changes but the claim idle timer of the holder (R71). In LOADING, in UNCONFIGURED and in
COMMISSION, with a configuration in force or without, a check that needs no record fails. -/
def Obligations.RunIsRefusedInOrder : Prop :=
  (∀ (s : State) (dt l : Nat) (seq b kb : Byte) (k : OpKind), Served s l → NamesHatch s b →
    OpKind.ofByte kb = some k →
    (s.mode = .loading → exec (.run dt l seq [b, kb]) s =
      .next ((s.taken dt l).answer l seq kindRun (some .notReady) [b])) ∧
    (s.mode = .unconfigured → exec (.run dt l seq [b, kb]) s =
      .next ((s.taken dt l).answer l seq kindRun (some .notConfigured) [b])) ∧
    (s.mode = .commission → s.classOf l = .bridge → exec (.run dt l seq [b, kb]) s =
      .next ((s.taken dt l).answer l seq kindRun (some .class) [b])) ∧
    (s.mode = .commission → s.classOf l ≠ .bridge → exec (.run dt l seq [b, kb]) s =
      .next (((s.taken dt l).claimTouch b.toNat l).answer l seq kindRun
        (some (if s.latch = true then .estop else .mode)) [b]))) ∧
  ∀ (s : State) (dt l : Nat) (seq b kb : Byte) (k : OpKind) (o : Op) (hr : Hatch) (r : Result),
    Served s l → NamesHatch s b → OpKind.ofByte kb = some k → s.op? b.toNat = some o →
    s.hatch? b.toNat = some hr →
    (if s.mode = .loading then some Result.notReady
      else if s.mode = .unconfigured then some .notConfigured
      else if s.classOf l = .bridge then some .class
      else if s.latch = true then some .estop
      else if (s.mode = .sea ∧ (k = .opening ∨ k = .release)) ∨ s.mode = .commission then
        some .mode
      else if s.holder? b.toNat ≠ some l then some .notHeld
      else if s.classOf l = .deck ∧
          (s.line? l).bind Line.holdAbility ≠ some true then some .noHoldControl
      else if o.st = .queued ∨ o.st = .moving then some .busy
      else if o.st = .faulted then some .faulted
      else match hr.program k with
        | none => some .position
        | some prog =>
          if ∃ st ∈ prog.head?, s.fraction st = none then some .attitude else none) = some r →
    exec (.run dt l seq [b, kb]) s =
      .next ((if s.mode = .loading ∨ s.mode = .unconfigured ∨ s.classOf l = .bridge then
        s.taken dt l else (s.taken dt l).claimTouch b.toNat l).answer l seq kindRun (some r) [b])

/-- A RUN that passes every check (R49, R50). With an empty program the operation is cleared to IDLE
and the answer is DONE; the completed count is not incremented. A first step that enters sets the
record up: it is QUEUED with the present time, the claim idle and pump idle timers stop, and an
evaluation follows; the answer is STARTED (R51, R71, R97). Whatever its first step finds, a RUN with a
program sets the record up and offers the program (R50, R51), the offer being the one of R51: a step
passed over, a node that is not ONLINE, a disagreeing cleat; an evaluation follows where an entry has
joined, and the answer is STARTED. The entry time is a 48-bit count (R79); that it wraps is the model's
choice (DESIGN CHOICE, log 42). -/
def Obligations.AcceptedRunStartsTheOperation : Prop :=
  ∀ (s : State) (dt l : Nat) (seq b kb : Byte) (k : OpKind) (o : Op) (hr : Hatch) (cl : Claim),
    Served s l → NamesHatch s b → OpKind.ofByte kb = some k → s.op? b.toNat = some o →
    s.hatch? b.toNat = some hr → s.claim? b.toNat = some cl →
    s.mode = .harbour ∨ (s.mode = .sea ∧ (k = .closing ∨ k = .engage)) → s.latch = false →
    s.classOf l ≠ .bridge → cl.holder = some l →
    (s.classOf l = .deck → (s.line? l).bind Line.holdAbility = some true) →
    o.st = .idle ∨ o.st = .paused →
    (hr.program k = some [] →
      ∃ u : State, exec (.run dt l seq [b, kb]) s =
          .next (u.answer l seq kindRun (some .done) [b]) ∧
        u = { s.taken dt l with
          ops := u.ops, claims := u.claims, alarms := s.alarms.clear .stall (.hatch b.toNat) } ∧
        (∀ k, k ≠ b.toNat → u.claim? k = s.claim? k ∧ u.op? k = s.op? k) ∧
        u.op? b.toNat = some o.cleared ∧
        u.claim? b.toNat = some { cl with idle := some (s.now + dt) }) ∧
    (∀ (st : Step) (rest : List Step), hr.program k = some (st :: rest) →
      (s.fraction st).isSome = true →
      ∃ x v : State, exec (.run dt l seq [b, kb]) s =
          .next ((if v.queue = s.queue then v else v.evaluate).answer l seq kindRun (some .started)
            [b]) ∧
        x = { (s.taken dt l).claimTouch b.toNat l with
          ops := s.ops.map fun r =>
            if r.hatch = b.toNat then { r with
              kind := k
              disc := some (if s.classOf l = .deck then .hold else .auto)
              prog := st :: rest
              stalls := if r.st = .paused ∧ r.kind = k then r.stalls else 0
              halt := none
              fault := none
              hold := if s.classOf l = .deck then some (s.now + dt + 300) else none }
            else r } ∧
        v = x.offerFrom hr (k = .closing ∨ k = .engage) (st :: rest)) ∧
    ∀ (st : Step) (rest : List Step), hr.program k = some (st :: rest) →
      (s.fraction st).isSome = true → hr.targetHolds st = false → s.stepOffline hr st = false →
      hr.stepDisagrees st = false →
      ∃ u : State, exec (.run dt l seq [b, kb]) s =
          .next (u.evaluate.answer l seq kindRun (some .started) [b]) ∧
        u = { s.taken dt l with
          ops := u.ops, claims := u.claims, queue := u.queue, pumpIdle := none } ∧
        u.queue = insertEntry
          ⟨b.toNat, st, k = .closing ∨ k = .engage, (s.now + dt) % 2 ^ 48, none, false⟩ s.queue ∧
        (∀ k, k ≠ b.toNat → u.claim? k = s.claim? k ∧ u.op? k = s.op? k) ∧
        u.op? b.toNat = some { o with
          kind := k
          disc := some (if s.classOf l = .deck then .hold else .auto)
          prog := st :: rest
          st := .queued
          stalls := if o.st = .paused ∧ o.kind = k then o.stalls else 0
          start := none
          halt := none
          fault := none
          hold := if s.classOf l = .deck then some (s.now + dt + 300) else none } ∧
        u.claim? b.toNat = some { cl with idle := none }

/-- The tests of an offer in their order (R51): a step whose target holds is passed over, a lost node
pauses, a disagreeing cleat faults, else the step joins the queue; a program that runs out ends
DONE (R55) and clears the STALL of the hatch (R44). The claim idle timer of a held hatch begins from zero
where the offer ends DONE, PAUSED or FAULTED, and stops where the step joins (R71), as the pump idle timer
does (R97). Nothing else changes: no output, no pump, no budget, no grant, no record of another hatch. The
entry time is a 48-bit count (R79); that it wraps is the model's choice (DESIGN CHOICE, log 42). -/
def Obligations.OfferTestsInOrder : Prop :=
  ∀ (s : State) (hr : Hatch) (o : Op) (closing : Bool) (st : Step) (rest : List Step),
    s.op? hr.num = some o →
    (∃ t : State, s.offerFrom hr closing [] = t ∧
      t = { s with
        hatches := t.hatches
        ops := t.ops
        claims := t.claims
        alarms := s.alarms.clear .stall (.hatch hr.num) } ∧
      SameOtherHatches s hr.num t ∧
      t.op? hr.num = some o.cleared ∧
      t.hatch? hr.num =
        (s.hatch? hr.num).map (fun x => { x with completed := inc16 x.completed }) ∧
      t.claim? hr.num = (s.claim? hr.num).map fun c =>
        if c.holder.isSome then { c with idle := some s.now } else c) ∧
    (hr.targetHolds st = true →
      s.offerFrom hr closing (st :: rest) = s.offerFrom hr closing rest) ∧
    (hr.targetHolds st = false →
      s.stepOffline hr st = true ∨ hr.stepDisagrees st = true →
      ∃ t : State, s.offerFrom hr closing (st :: rest) = t ∧
        t = { s with ops := t.ops, claims := t.claims } ∧
        SameOtherHatches s hr.num t ∧
        t.op? hr.num = some (if s.stepOffline hr st = true then
          { o with prog := st :: rest, st := .paused, start := none, halt := some .nodeLost
                   fault := none, hold := none }
        else
          { o with prog := st :: rest, st := .faulted, start := none, halt := some .fault
                   fault := some .disagree, hold := none }) ∧
        t.claim? hr.num = (s.claim? hr.num).map fun c =>
          if c.holder.isSome then { c with idle := some s.now } else c) ∧
    (hr.targetHolds st = false → s.stepOffline hr st = false → hr.stepDisagrees st = false →
      ∃ t : State, s.offerFrom hr closing (st :: rest) = t ∧
        t = { s with
          ops := t.ops
          claims := t.claims
          queue := insertEntry ⟨hr.num, st, closing, s.now % 2 ^ 48, none, false⟩ s.queue
          pumpIdle := none } ∧
        SameOtherHatches s hr.num t ∧
        t.op? hr.num = some { o with prog := st :: rest, st := .queued, start := none } ∧
        t.claim? hr.num = (s.claim? hr.num).map fun c => { c with idle := none })

/-- HOLD from the holder: it renews the window of a HOLD-discipline operation in motion to 300 ms,
leaves an AUTO one as it is, and is answered NOT_RUNNING with no motion (R66, R71). From another line
it is refused. -/
def Obligations.HoldRenewsTheWindow : Prop :=
  ∀ (s : State) (dt l : Nat) (seq b : Byte) (o : Op) (cl : Claim), Served s l → NamesHatch s b →
    InService s → s.op? b.toNat = some o → s.claim? b.toNat = some cl →
    (s.classOf l = .bridge →
      exec (.hold dt l seq [b]) s =
        .next ((s.taken dt l).answer l seq kindHold (some .class) [b])) ∧
    (s.classOf l ≠ .bridge → cl.holder ≠ some l →
      exec (.hold dt l seq [b]) s =
        .next ((s.taken dt l).answer l seq kindHold (some .notHeld) [b])) ∧
    (s.classOf l ≠ .bridge → cl.holder = some l → o.st = .queued ∨ o.st = .moving →
      ∃ u : State, exec (.hold dt l seq [b]) s = .next (u.answer l seq kindHold (some .done) [b]) ∧
        u = { s.taken dt l with ops := u.ops } ∧ (∀ k, k ≠ b.toNat → u.op? k = s.op? k) ∧
        u.op? b.toNat = some { o with
          hold := if o.disc = some .hold then some (s.now + dt + 300) else o.hold }) ∧
    (s.classOf l ≠ .bridge → cl.holder = some l → o.st ≠ .queued → o.st ≠ .moving →
      ∃ u : State, exec (.hold dt l seq [b]) s =
          .next (u.answer l seq kindHold (some .notRunning) [b]) ∧
        u = { s.taken dt l with claims := u.claims } ∧
        (∀ k, k ≠ b.toNat → u.claim? k = s.claim? k) ∧
        u.claim? b.toNat = some { cl with idle := some (s.now + dt) })

/-- HALT from a line that covers the hatch pauses a motion with reason HALTED, gives back its entry or
grant, shuts the valves of a MOVING step and no other (R53), and an evaluation follows (R56, R65). Without a motion it is answered NOT_RUNNING, from a line
that does not cover the hatch NO_REACH; there only the holder's claim idle timer changes (R71). -/
def Obligations.HaltPausesTheMotion : Prop :=
  ∀ (s : State) (dt l : Nat) (seq b : Byte) (o : Op), Served s l → NamesHatch s b →
    InService s → s.op? b.toNat = some o →
    (s.covers l b.toNat = false →
      exec (.halt dt l seq [b]) s = .next (((s.taken dt l).claimTouch b.toNat l).answer l seq
        kindHalt (some .noReach) [b])) ∧
    (s.covers l b.toNat = true → o.st ≠ .queued → o.st ≠ .moving →
      exec (.halt dt l seq [b]) s = .next (((s.taken dt l).claimTouch b.toNat l).answer l seq
        kindHalt (some .notRunning) [b])) ∧
    (s.covers l b.toNat = true → o.st = .queued ∨ o.st = .moving →
      ∃ u : State, exec (.halt dt l seq [b]) s =
          .next (u.evaluate.answer l seq kindHalt (some .done) [b]) ∧
        u = (s.taken dt l).pauseOp b.toNat .halted ∧ HaltShut s u b.toNat o ∧
        OnlyMotion (s.taken dt l) u ∧ SameOtherHatches s b.toNat u ∧ u.alarms = s.alarms ∧
        u.op? b.toNat = some { o with
          st := .paused, start := none, halt := some .halted, fault := none, hold := none } ∧
        (o.st = .queued → u.entry? b.toNat = none) ∧ (o.st = .moving → u.grant? b.toNat = none))

/-- A halt of a MOVING step sets the step's valves to 0 and no other output, returns the grant and idles the classifier;
a halt of a QUEUED step takes its entry out; the claim idle timer of a held hatch begins (R53,
R56). -/
def Obligations.HaltOfAStep : Prop :=
  ∀ (s : State) (h : Nat) (r : HaltReason) (o : Op), s.op? h = some o →
    o.st = .queued ∨ o.st = .moving →
    OnlyMotion s (s.pauseOp h r) ∧ SameOtherHatches s h (s.pauseOp h r) ∧
    (s.pauseOp h r).op? h = some { o with
      st := .paused, start := none, halt := some r, fault := none, hold := none } ∧
    (s.pauseOp h r).claim? h = (s.claim? h).map (fun c =>
      if c.holder.isSome then { c with idle := some s.now } else c) ∧
    (o.st = .queued → (s.pauseOp h r).entry? h = none ∧ (s.pauseOp h r).nodes = s.nodes) ∧
    (o.st = .moving → (s.pauseOp h r).grant? h = none ∧
      (s.pauseOp h r).hatch? h = (s.hatch? h).map (fun x => { x with classifier := .idle })) ∧
    HaltShut s (s.pauseOp h r) h o

/-- An evaluation leaves every hatch without a queue entry as it is, and keeps B and MaxB (R82). -/
def Obligations.EvaluationLeavesUnqueuedHatches : Prop :=
  ∀ (s : State) (h : Nat), s.entry? h = none →
    s.evaluate.op? h = s.op? h ∧ s.evaluate.hatch? h = s.hatch? h ∧
    s.evaluate.claim? h = s.claim? h ∧ s.evaluate.grant? h = s.grant? h ∧
    s.evaluate.entry? h = none ∧ s.evaluate.budget = s.budget ∧ s.evaluate.maxB = s.maxB ∧
    OnlyMotion s s.evaluate

/-- CLEAR FAULT from the console clears a FAULTED record to IDLE and the fault alarms of the hatch
(R64); in any other op state it is answered NOT_RUNNING, from another class CLASS. -/
def Obligations.ClearFaultClearsTheRecord : Prop :=
  ∀ (s : State) (dt l : Nat) (seq b : Byte) (o : Op), Served s l → NamesHatch s b →
    InService s → s.op? b.toNat = some o →
    (s.classOf l ≠ .console →
      exec (.clearFault dt l seq [b]) s =
        .next ((s.taken dt l).answer l seq kindClear (some .class) [1, b])) ∧
    (s.classOf l = .console → o.st ≠ .faulted →
      exec (.clearFault dt l seq [b]) s =
        .next ((s.taken dt l).answer l seq kindClear (some .notRunning) [1, b])) ∧
    (s.classOf l = .console → o.st = .faulted →
      ∃ u : State, exec (.clearFault dt l seq [b]) s =
          .next (u.answer l seq kindClear (some .done) [1, b]) ∧
        u = { s.taken dt l with
          ops := u.ops, claims := u.claims
          alarms := (((s.alarms.clear .stall (.hatch b.toNat)).clear .timeout
            (.hatch b.toNat)).clear .jammed (.hatch b.toNat)).clear .pressureStuck
            (.hatch b.toNat) } ∧
        (∀ k, k ≠ b.toNat → u.op? k = s.op? k ∧ u.claim? k = s.claim? k) ∧
        u.op? b.toNat = some o.cleared ∧
        u.claim? b.toNat = (s.claim? b.toNat).map fun c =>
          if c.holder.isSome then { c with idle := some (s.now + dt) } else c)

/-- A MOVING step that reaches its timeout is FAULTED with TIMEOUT raised (R59), and a motion whose
hold window lapses is PAUSED (R67), the valves of a MOVING step shut (R53, R56); an evaluation follows,
after the raise of TIMEOUT, which is the model's choice (DESIGN CHOICE, log 51). An expiry that is not due
changes nothing (log 2). -/
def Obligations.TimeoutAndHoldLapse : Prop :=
  ∀ (s : State) (dt h t0 : Nat) (o : Op), s.power = .running → s.op? h = some o →
    (∀ c st, s.inForce = some c → o.prog.head? = some st → o.st = .moving → o.start = some t0 →
      (t0 + cfgTimeoutMs c h st ≤ s.now + dt →
        ∃ u : State, exec (.stepTimeout dt h) s = .next u.evaluate ∧ OnlyMotion (s.advance dt) u ∧
          SameOtherHatches s h u ∧
          u.alarms = s.alarms.raise .timeout (.hatch h) (s.advance dt).runningTime ∧
          u.grant? h = none ∧ HaltShut s u h o ∧
          u.op? h = some { o with
            st := .faulted, start := none, halt := some .fault, fault := some .timeout
            hold := none }) ∧
      (s.now + dt < t0 + cfgTimeoutMs c h st →
        exec (.stepTimeout dt h) s = .next (s.advance dt))) ∧
    (o.hold = some t0 → o.st = .queued ∨ o.st = .moving →
      (t0 ≤ s.now + dt →
        ∃ u : State, exec (.holdWindowExpiry dt h) s = .next u.evaluate ∧
          u = (s.advance dt).pauseOp h .holdLapsed ∧ HaltShut s u h o ∧
          OnlyMotion (s.advance dt) u ∧ SameOtherHatches s h u ∧ u.alarms = s.alarms ∧
          (o.st = .queued → u.entry? h = none) ∧ (o.st = .moving → u.grant? h = none) ∧
          u.op? h = some { o with
            st := .paused, start := none, halt := some .holdLapsed, fault := none
            hold := none }) ∧
      (s.now + dt < t0 → exec (.holdWindowExpiry dt h) s = .next (s.advance dt)))

/-- What a sample of the hatch pressure does to the classifier, in scan `no` (R39, R40), and what the
STALL of a MOVING step does (R60): the step is halted, its valves shut (R53), and paused, at the third stall
faulted, the stall counted, the pressure watch started and the alarm raised; an evaluation follows, after
the raise, which is the model's choice (DESIGN CHOICE, log 51). A sample of a
HATCH_PRESSURE point becomes its level at once and the point is no longer stale (R38); a low level stops
the pressure watch of the hatch (R61); the classifier takes the sample, an ignored spike is not counted
(R40), and a STALL goes to the Engine. -/
def Obligations.PressureSamplesFollowTheTables : Prop :=
  (∀ (no first : Nat) (reject high : Bool),
    Classifier.idle.sample no reject high = (.idle, false, false) ∧
    Classifier.stalled.sample no reject high = (.stalled, false, false) ∧
    Classifier.watching.sample no reject high =
      (if high then .timing (some no) else .watching, false, false) ∧
    (Classifier.timing none).sample no reject high =
      (if high then .timing (some no) else .watching, false, false) ∧
    (Classifier.timing (some first)).sample no reject high =
      if high = true then
        if 20 * (no - first) < 1200 then (.timing (some first), false, false)
        else (.stalled, false, true)
      else if 20 * (no - first) < 200 then (.watching, !reject, false)
      else (.watching, true, false)) ∧
  (∀ (s x : State) (p : Point) (high : Bool),
    x = { s with
      points := s.points.map fun q =>
        if q.node = p.node ∧ q.point = p.point ∧ q.role.code ≤ 12 then
          { q with qual := some high, stale := false }
        else q
      ops := s.ops.map fun o =>
        if o.hatch = p.subject ∧ high = false then { o with watch := none } else o } →
    (s.hatch? p.subject = none → s.samplePressure p high = x) ∧
    ∀ (hr : Hatch) (c : Classifier) (heavy stall : Bool) (y : State),
      s.hatch? p.subject = some hr →
      (c, heavy, stall) = hr.classifier.sample s.scan.no
        (match s.inForce with | some i => decide (itemNat i 4 p.subject = 1) | none => true) high →
      y = { x with hatches := s.hatches.map fun r =>
        if r.num = p.subject then
          { r with classifier := c, heavy := if heavy then inc16 r.heavy else r.heavy }
        else r } →
      s.samplePressure p high = if stall then y.takeStall p.subject else y) ∧
  ∀ (s : State) (h : Nat) (o : Op), s.op? h = some o → o.st = .moving →
    ∃ u : State, s.takeStall h = u.evaluate ∧ OnlyMotion s u ∧ SameOtherHatches s h u ∧
      u.grant? h = none ∧ HaltShut s u h o ∧
      u.alarms = s.alarms.raise (if o.stalls < 2 then .stall else .jammed) (.hatch h)
        s.runningTime ∧
      u.op? h = some { o with
        st := if o.stalls < 2 then .paused else .faulted
        start := none
        halt := some (if o.stalls < 2 then .stall else .fault)
        fault := if o.stalls < 2 then none else some .jammed
        hold := none
        stalls := o.stalls + 1
        watch := some s.now }

/-- A pressure watch that reaches 5000 ms raises PRESSURE_STUCK and stops; an IDLE or PAUSED record
becomes FAULTED, a FAULTED one keeps its fault kind, a QUEUED one loses its entry, and an evaluation
follows (R61, R82). A watch that is stopped, or has not come to 5000 ms, changes nothing but the time
(log 2). -/
def Obligations.PressureWatchExpiry : Prop :=
  (∀ (s : State) (dt h t0 : Nat) (o : Op), s.power = .running → s.op? h = some o →
    o.watch = some t0 → t0 + 5000 ≤ s.now + dt →
    (o.st = .idle ∨ o.st = .paused ∨ o.st = .faulted →
      ∃ t : State, exec (.pressureWatchExpiry dt h) s = .next t ∧
        t = { s.advance dt with
          ops := t.ops
          alarms := s.alarms.raise .pressureStuck (.hatch h) (s.advance dt).runningTime } ∧
        (∀ k, k ≠ h → t.op? k = s.op? k) ∧
        t.op? h = some (if o.st = .faulted then { o with watch := none }
          else { o with
            st := .faulted, halt := some .fault, fault := some .pressureStuck, hold := none
            watch := none })) ∧
    (o.st = .queued →
      ∃ u : State, exec (.pressureWatchExpiry dt h) s = .next u.evaluate ∧
        OnlyMotion (s.advance dt) u ∧ SameOtherHatches s h u ∧
        u.alarms = s.alarms.raise .pressureStuck (.hatch h) (s.advance dt).runningTime ∧
        u.entry? h = none ∧
        u.op? h = some { o with
          st := .faulted, start := none, halt := some .fault, fault := some .pressureStuck
          hold := none, watch := none })) ∧
  ∀ (s : State) (dt h : Nat) (o : Op), s.power = .running → s.op? h = some o →
    (∀ t ∈ o.watch, s.now + dt < t + 5000) →
    exec (.pressureWatchExpiry dt h) s = .next (s.advance dt)

/-- A release dwell of 1500 ms is COMPLETE and its cleat RELEASED (R7, R8); where the hatch has an
operation QUEUED or MOVING, the Engine takes the change. A dwell that does not run, or has not run 1500 ms,
changes nothing but the time (log 2). What the Engine does at a change of a hatch
record, brought up to date to `new`: nothing for an operation that is neither QUEUED nor MOVING; the
DISAGREE fault of a release or engage step (R62); for a MOVING travel or fold step the driven valve of
each panel written again, at 0 for a panel at the target (R54); and, when the target holds, completion:
valves at 0, grant returned, classifier idle, the rest of the program offered (R55). A fault and a
completion are followed by an evaluation (R82). R15 fixes no order of these hand-ons: that the record and
the alarms that follow it come before the Engine and its evaluation is the model's choice (DESIGN CHOICE,
log 45). -/
def Obligations.DwellCompletes : Prop :=
  (∀ (s : State) (dt h n t0 : Nat) (hr : Hatch) (c : Cleat), s.power = .running →
    s.hatch? h = some hr → findKey Cleat.num n hr.cleats = some c → c.hasReleased = false →
    c.dwell = .running t0 → t0 + 1500 ≤ s.now + dt → s.qual .cleatEngaged h n = some false →
    hr.dirOf c.group = .release →
    (∃ u : State, exec (.dwellComplete dt h n) s = .next (u.hatchEvent h) ∧
      u = { s.advance dt with hatches := u.hatches } ∧ (∀ k, k ≠ h → u.hatch? k = s.hatch? k) ∧
      u.hatch? h = some { hr with cleats := hr.cleats.map fun x =>
        if x.num = n then { x with dwell := .complete } else x }) ∧
    (s.busy h = false →
      ∃ (t : State) (hr' : Hatch), exec (.dwellComplete dt h n) s = .next t ∧
        t = { s.advance dt with hatches := t.hatches, alarms := t.alarms } ∧
        (∀ k, k ≠ h → t.hatch? k = s.hatch? k) ∧ t.hatch? h = some hr' ∧
        findKey Cleat.num n hr'.cleats = some { c with dwell := .complete, st := .released })) ∧
  (∀ (s : State) (dt h n : Nat) (hr : Hatch) (c : Cleat), s.power = .running →
    s.hatch? h = some hr → findKey Cleat.num n hr.cleats = some c →
    (∀ t, c.dwell = .running t → s.now + dt < t + 1500) →
    exec (.dwellComplete dt h n) s = .next (s.advance dt)) ∧
  (∀ (hr : Hatch) (st : Step), (hr.targetHolds st = true ↔ hr.AtTarget st) ∧
    (hr.stepDisagrees st = true ↔ hr.InDisagreement st)) ∧
  ∀ (s : State) (h : Nat) (o : Op) (hr new : Hatch), s.op? h = some o → s.hatch? h = some hr →
    new = s.deriveHatch hr →
    (o.st ≠ .queued → o.st ≠ .moving → s.hatchEvent h = s.refresh h) ∧
    ∀ st rest, o.prog = st :: rest →
      (new.InDisagreement st → (o.st = .queued ∧ s.entry? h ≠ none) ∨
          (o.st = .moving ∧ s.grant? h ≠ none) →
        ∃ u : State, s.hatchEvent h = u.evaluate ∧ OnlyMotion (s.refresh h) u ∧
          SameOtherHatches s h u ∧ u.alarms = (s.refresh h).alarms ∧
          u.op? h = some { o with
            st := .faulted, start := none, halt := some .fault, fault := some .disagree
            hold := none } ∧
          HaltShut s u h o ∧ (o.st = .queued → u.entry? h = none) ∧
          (o.st = .moving → u.grant? h = none)) ∧
      (¬new.InDisagreement st → o.st = .queued → s.hatchEvent h = s.refresh h) ∧
      ∀ g, ¬new.InDisagreement st → o.st = .moving → s.grant? h = some g →
        (¬new.AtTarget st → s.hatchEvent h =
          if st.isProportional = true then
            (s.refresh h).writeValves h (new.drivenWrites st g.setpoint)
          else s.refresh h) ∧
        (new.AtTarget st →
          ∃ u : State, s.hatchEvent h = (u.offerFrom new o.kind.isClosing rest).evaluate ∧
            OnlyMotion (s.refresh h) u ∧ SameOtherHatches s h u ∧
            u.alarms = (s.refresh h).alarms ∧ u.queue = s.queue ∧ u.pumps = s.pumps ∧
            u.claims = s.claims ∧ u.op? h = some o ∧ u.granted = s.granted.filter (·.hatch ≠ h) ∧
            u.hatch? h = some { new with classifier := .idle } ∧ StepShut s u h st)

/-! ### Flow and pumps -/

/-- The demand of a step and its clamp against MaxB (R77, R78), and an evaluation of a queue of one
entry. An entry without permit or flow is removed and its operation paused with ATTITUDE or NO_FLOW
(R58, R83); an entry whose demand exceeds F is the blocked head, at which a pump may start (R84, R92).
An entry that fits is granted (R52, R53, R54, R84): the operation is MOVING from the present time, the
opposed valves are at 0 and the driven ones at their setpoint, a release or engage step records its
direction (R4), STALL is cleared, the pressure watch stops and the classifier starts (R39). The queue
stands in the order of R79, in which an entry is inserted: CLOSE-class first, then the older entry time,
then the lower hatch. An evaluation of any queue takes the entries without permit or flow out first (R83),
then grants the head, as a queue of one entry, and goes on with the rest; at a head whose demand exceeds
F it stops, and nothing behind that head is granted (R84). A step whose target holds at its grant
completes at once (R52; DEDUCED, log 15, that the pass begins again after each grant). That
SENSOR_DISAGREE comes before HATCH_UNSECURED_AT_SEA in the alarms of a grant is the model's choice (DESIGN
CHOICE, log 45). -/
def Obligations.DemandClampAndTheBlockedHead : Prop :=
  (∀ q p : Nat, q * p ≤ demandAt q p * 100 ∧ demandAt q p * 100 < q * p + 100) ∧
  (∀ (s : State) (h : Nat) (st : Step),
    (s.fraction st = none → s.offerOf h st = .noPermit) ∧
    ∀ p, s.fraction st = some p → s.offerOf h st =
      if demandAt (s.qStep h st) p ≤ s.maxB then .fits (demandAt (s.qStep h st) p) p false
      else if s.maxB * 100 / s.qStep h st < 25 then .noFlow
      else .fits s.maxB (if st.isProportional then s.maxB * 100 / s.qStep h st else 100) true) ∧
  (∀ (s : State) (r : Role) (h i v : Nat),
    (s.point? r h i = none → s.drive r h i v = s) ∧
    ∀ p, s.point? r h i = some p → s.drive r h i v = { s with
      nodes := s.nodes.map fun n =>
        if n.addr = p.node then { n with outs := n.outs.set p.point v } else n }) ∧
  (∀ (e : Entry) (q : List Entry), q.Pairwise Entry.InOrder →
    (insertEntry e q).Pairwise Entry.InOrder ∧
    ∃ before after : List Entry, q = before ++ after ∧ insertEntry e q = before ++ e :: after) ∧
  (∀ (s r : State), MotionOk s → s.removalPass = r →
    r.queue = s.queue.filterMap (fun e => match s.offerOf e.hatch e.step with
      | .fits d _ _ => some { e with demand := some d, blocked := false }
      | _ => none) ∧
    r = { (s.queue.foldl (fun x e => match s.offerOf e.hatch e.step with
        | .noPermit => x.pauseOp e.hatch .attitude
        | .noFlow => x.pauseOp e.hatch .noFlow
        | .fits _ _ _ => x) s) with queue := r.queue } ∧
    (r.queue = [] → s.evaluate = r) ∧
    ∀ (e : Entry) (rest : List Entry) (d speed : Nat) (clamped : Bool), r.queue = e :: rest →
      s.offerOf e.hatch e.step = .fits d speed clamped →
      (r.freeFlow < d → s.evaluate = State.startPump { r with
        queue := { e with blocked := true } :: rest }) ∧
      (d ≤ r.freeFlow → s.evaluate = (r.grantHead e d speed clamped).evaluate)) ∧
  (∀ (s x : State) (e : Entry) (rest : List Entry) (o : Op) (hr new : Hatch) (d speed : Nat)
    (clamped : Bool), MotionOk s → s.queue = e :: rest → s.op? e.hatch = some o →
    o.prog.head? = some e.step → s.hatch? e.hatch = some hr → new = s.directed hr e.step →
    x = { s with
      queue := rest
      granted := s.granted ++ [⟨e.hatch, e.step, e.closing, e.time, s.qStep e.hatch e.step, d,
        speed, speed, clamped⟩]
      nodes := (s.writeValves e.hatch (e.step.opposedWrites ++ hr.drivenWrites e.step speed)).nodes
      ops := s.ops.map fun r =>
        if r.hatch = e.hatch then { r with st := .moving, start := some s.now, watch := none } else r
      hatches := s.hatches.map fun r =>
        if r.num = e.hatch then { (if e.step.direction = none then r else new) with
          classifier := if s.qual .hatchPressure e.hatch 0 = some true then .timing none
            else .watching }
        else r
      alarms := followAlarms (s.mode = .sea) s.runningTime hr new
        (s.alarms.clear .stall (.hatch e.hatch)) } →
    (¬new.AtTarget e.step → s.grantHead e d speed clamped = x) ∧
    (new.AtTarget e.step → s.grantHead e d speed clamped = x.complete e.hatch)) ∧
  ∀ (s : State) (e : Entry) (o : Op), s.queue = [e] → s.op? e.hatch = some o → o.st = .queued →
    (s.offerOf e.hatch e.step = .noPermit → s.evaluate = s.pauseOp e.hatch .attitude) ∧
    (s.offerOf e.hatch e.step = .noFlow → s.evaluate = s.pauseOp e.hatch .noFlow) ∧
    ∀ d speed clamped, s.offerOf e.hatch e.step = .fits d speed clamped →
      (s.freeFlow < d → s.evaluate =
        State.startPump { s with queue := [{ e with demand := some d, blocked := true }] }) ∧
      ∀ hr new, d ≤ s.freeFlow → o.prog.head? = some e.step → s.hatch? e.hatch = some hr →
        new = s.directed hr e.step → ¬new.AtTarget e.step →
        s.evaluate = { s with
          queue := []
          granted := s.granted ++ [⟨e.hatch, e.step, e.closing, e.time, s.qStep e.hatch e.step, d,
            speed, speed, clamped⟩]
          nodes := (s.writeValves e.hatch
            (e.step.opposedWrites ++ hr.drivenWrites e.step speed)).nodes
          ops := s.ops.map fun x =>
            if x.hatch = e.hatch then { x with st := .moving, start := some s.now, watch := none }
            else x
          hatches := s.hatches.map fun x =>
            if x.num = e.hatch then { (if e.step.direction = none then x else new) with
              classifier := if s.qual .hatchPressure e.hatch 0 = some true then .timing none
                else .watching }
            else x
          alarms := followAlarms (s.mode = .sea) s.runningTime hr new
            (s.alarms.clear .stall (.hatch e.hatch)) }

/-- A new budget is the one of R75; after shedding and evaluation the granted demands sum to no more
than it (R86). Newest grant first, and no more than it takes, grants are shed (R57, R86): each re-enters
the queue with its class and entry time, its operation is QUEUED without a start time, its valves are at
0 and its classifier idle, and nothing else changes before the evaluation, no other output either. The
temperature band, and OIL_HOT with it, follow the thermostats; a changed budget is taken (R74), after
OIL_HOT, which is the model's choice (DESIGN CHOICE, log 51). -/
def Obligations.BudgetIsComputedAndKept : Prop :=
  (∀ s : State,
    s.takeBudget.budget =
      ((s.pumps.filter fun p => p.st = .running).map Pump.flow).sum *
        (match s.band with | .cold => 60 | .normal => 100 | .warm => 85 | .hot => 0) / 100 -
        (match s.inForce with | some c => itemNat c 11 0 | none => 0) ∧
    s.takeBudget.maxB =
      ((s.pumps.filter fun p => p.st ≠ .failed).map Pump.flow).sum *
        (match s.band with | .cold => 60 | .normal => 100 | .warm => 85 | .hot => 0) / 100 -
        (match s.inForce with | some c => itemNat c 11 0 | none => 0) ∧
    (s.takeBudget.granted.map Grant.demand).sum ≤ s.takeBudget.budget ∧
    OnlyMotion s s.takeBudget) ∧
  (∀ s : State, MotionOk s →
    ∃ (kept shed : List Grant) (u : State), s.takeBudget = u.evaluate ∧
      s.granted = kept ++ shed ∧ (kept.map Grant.demand).sum ≤ s.computeB ∧
      (∀ g ∈ shed.head?, s.computeB < ((kept ++ [g]).map Grant.demand).sum) ∧
      u = { s with
        budget := s.computeB
        maxB := s.computeMaxB
        granted := kept
        queue := shed.foldr (fun g q => insertEntry ⟨g.hatch, g.step, g.closing, g.time, none, false⟩
          q) s.queue
        ops := s.ops.map fun o =>
          if o.hatch ∈ shed.map Grant.hatch then { o with st := .queued, start := none } else o
        hatches := s.hatches.map fun hr =>
          if hr.num ∈ shed.map Grant.hatch then { hr with classifier := .idle } else hr
        nodes := u.nodes } ∧
      u.nodes.map Node.still = s.nodes.map Node.still ∧
      (∀ g ∈ shed, ValvesShut s u g.hatch g.step) ∧
      ∀ a k, (∀ g ∈ shed, ¬s.IsValveOf g.hatch g.step a k) → u.outAt a k = s.outAt a k) ∧
  (∀ s : State, s.deriveBand =
    if ∀ p ∈ s.points, p.role ≠ .oilCold ∧ p.role ≠ .oilWarm ∧ p.role ≠ .oilHot then .normal
    else if ∃ p ∈ s.points,
      (p.role = .oilCold ∨ p.role = .oilWarm ∨ p.role = .oilHot) ∧ p.stale = true then .cold
    else if s.qual .oilHot 0 0 = some true then .hot
    else if s.qual .oilWarm 0 0 = some true then .warm
    else if s.qual .oilCold 0 0 = some true then .cold
    else .normal) ∧
  ∀ s u : State,
    u = { s with
      band := s.deriveBand
      alarms := if s.deriveBand = .hot then s.alarms.raise .oilHot .powerPack s.runningTime
        else if s.band = .hot then s.alarms.clear .oilHot .powerPack else s.alarms } →
    (s.deriveBand = s.band → s.rederiveBand = s) ∧
    (s.deriveBand ≠ s.band → s.rederiveBand =
      if u.computeB = u.budget ∧ u.computeMaxB = u.maxB then u else u.takeBudget)

/-- A pump is started at a blocked head when none is STARTING: the first startable one, with PUMP_RUN
at 100 and the 10 s feedback deadline, or with its feedback on already the 3 s settle (R91, R92, R93).
Its feedback qualifies on: the settle begins (R93). Off while it is RUNNING or settling, or its node is
lost while it is STARTING or RUNNING: it fails (R95, R96). A start ends at the feedback deadline with
the pump FAILED, its output at 0 and PUMP_FAILED raised (R94), and at the settle end with the pump
RUNNING (R93). At a failure and at the settle end the budget is taken, changed or not (R75; DEDUCED,
log 38). A deadline or a settle end that is not due, or a pump that is not STARTING, changes nothing but the
time (log 2). -/
def Obligations.PumpStartEnds : Prop :=
  (∀ (s : State) (dt n t0 : Nat) (p : Pump), s.power = .running → s.pump? n = some p →
    p.st = .starting → t0 ≤ s.now + dt →
    (p.deadline = some t0 →
      ∃ u : State, exec (.feedbackDeadline dt n) s = .next u.takeBudget ∧
        u = { s.advance dt with
          pumps := u.pumps, nodes := u.nodes
          alarms := s.alarms.raise .pumpFailed (.pump n) (s.advance dt).runningTime } ∧
        (∀ k, k ≠ n → u.pump? k = s.pump? k) ∧
        u.pump? n = some { p with st := .failed, deadline := none, settle := none } ∧
        u.nodes.map Node.still = s.nodes.map Node.still ∧
        ∀ q, s.pumpPoint? .pumpRun n = some q →
          u.outAt q.node q.point = 0 ∧
            ∀ a k, ¬(a = q.node ∧ k = q.point) → u.outAt a k = s.outAt a k) ∧
    (p.settle = some t0 →
      ∃ u : State, exec (.settleEnd dt n) s = .next u.takeBudget ∧
        u = { s.advance dt with pumps := u.pumps } ∧
        (∀ k, k ≠ n → u.pump? k = s.pump? k) ∧
        u.pump? n = some { p with st := .running, settle := none })) ∧
  (∀ (s : State) (dt n : Nat) (p : Pump), s.power = .running → s.pump? n = some p →
    ((∀ t ∈ p.deadline, s.now + dt < t) ∨ p.st ≠ .starting →
      exec (.feedbackDeadline dt n) s = .next (s.advance dt)) ∧
    ((∀ t ∈ p.settle, s.now + dt < t) ∨ p.st ≠ .starting →
      exec (.settleEnd dt n) s = .next (s.advance dt))) ∧
  (∀ (s : State) (p : Pump), s.startable p = true ↔ p.st = .off ∧
    ∃ o i, s.pumpPoint? .pumpRun p.num = some o ∧ s.pumpPoint? .pumpRunning p.num = some i ∧
      s.nodeOnline o.node = true ∧ s.nodeOnline i.node = true ∧ i.qual ≠ none) ∧
  (∀ s : State, (s.pumps.map Pump.num).Nodup →
    ((∃ p ∈ s.pumps, p.st = .starting) ∨ (∀ p ∈ s.pumps, s.startable p = false) →
      s.startPump = s) ∧
    ∀ before p after i, (∀ q ∈ s.pumps, q.st ≠ .starting) → s.pumps = before ++ p :: after →
      (∀ q ∈ before, s.startable q = false) → s.startable p = true →
      s.pumpPoint? .pumpRunning p.num = some i →
      s.startPump = { s with
        pumps := before ++ { p with
          st := .starting
          deadline := if i.qual = some true then none else some (s.now + 10000)
          settle := if i.qual = some true then some (s.now + 3000) else none } :: after
        nodes := s.nodes.map fun n =>
          match s.pumpPoint? .pumpRun p.num with
          | some q => if n.addr = q.node then { n with outs := n.outs.set q.point 100 } else n
          | none => n }) ∧
  ∀ (s : State) (n : Nat) (p : Pump), s.pump? n = some p →
    (p.st = .starting → p.settle = none →
      s.pumpFeedback n false = s ∧
      ∃ u : State, s.pumpFeedback n true = u ∧ u = { s with pumps := u.pumps } ∧
        (∀ k, k ≠ n → u.pump? k = s.pump? k) ∧
        u.pump? n = some { p with deadline := none, settle := some (s.now + 3000) }) ∧
    ((p.st = .starting ∧ p.settle ≠ none) ∨ p.st = .running →
      s.pumpFeedback n true = s ∧ Trips s n p (s.pumpFeedback n false)) ∧
    (p.st = .off ∨ p.st = .failed →
      (∀ on, s.pumpFeedback n on = s) ∧ s.pumpNodeLost n = s) ∧
    (p.st = .starting ∨ p.st = .running → Trips s n p (s.pumpNodeLost n))

/-- When the pump idle timer reaches 60 s it stops and every pump that is not FAILED becomes OFF with
its output at 0, no other output changes; B becomes 0 and MaxB that of the pumps that are not FAILED (R75,
R97). A timer that is stopped, or has not come to 60 s, changes nothing but the time (log 2). -/
def Obligations.PumpIdleStop : Prop :=
  (∀ (s : State) (dt t0 : Nat), s.power = .running → s.pumpIdle = some t0 →
    t0 + 60000 ≤ s.now + dt → (s.pumps.map Pump.num).Nodup →
    ∃ t : State, exec (.pumpIdleStop dt) s = .next t ∧
      t = { s.advance dt with
        pumps := t.pumps, nodes := t.nodes, budget := 0, pumpIdle := none
        maxB := ((s.pumps.filter fun p => p.st ≠ .failed).map Pump.flow).sum *
          (match s.band with | .cold => 60 | .normal => 100 | .warm => 85 | .hot => 0) / 100 -
          (match s.inForce with | some c => itemNat c 11 0 | none => 0) } ∧
      t.nodes.map Node.still = s.nodes.map Node.still ∧
      t.pumps = s.pumps.map (fun p =>
        if p.st = .failed then p else { p with st := .off, deadline := none, settle := none }) ∧
      (∀ p ∈ s.pumps, p.st ≠ .failed → ∀ q, s.pumpPoint? .pumpRun p.num = some q →
        t.outAt q.node q.point = 0) ∧
      ∀ a k, (∀ p ∈ s.pumps, p.st ≠ .failed → ∀ q, s.pumpPoint? .pumpRun p.num = some q →
        ¬(a = q.node ∧ k = q.point)) → t.outAt a k = s.outAt a k) ∧
  ∀ (s : State) (dt : Nat), s.power = .running → (∀ t ∈ s.pumpIdle, s.now + dt < t + 60000) →
    exec (.pumpIdleStop dt) s = .next (s.advance dt)

/-- CLEAR PUMP from the console makes a FAILED pump OFF and clears PUMP_FAILED; the budget is taken,
changed or not (R98; DEDUCED, log 38). Another pump state is answered NOT_RUNNING, another class
CLASS. -/
def Obligations.ClearPumpMakesThePumpOff : Prop :=
  ∀ (s : State) (dt l : Nat) (seq b : Byte) (p : Pump), Served s l → InService s →
    1 ≤ b.toNat → b.toNat ≤ s.pumpLimit → s.pump? b.toNat = some p →
    (s.classOf l ≠ .console →
      exec (.clearPump dt l seq [b]) s =
        .next ((s.taken dt l).answer l seq kindClear (some .class) [2, b])) ∧
    (s.classOf l = .console → p.st ≠ .failed →
      exec (.clearPump dt l seq [b]) s =
        .next ((s.taken dt l).answer l seq kindClear (some .notRunning) [2, b])) ∧
    (s.classOf l = .console → p.st = .failed →
      ∃ u : State, exec (.clearPump dt l seq [b]) s =
          .next (u.takeBudget.answer l seq kindClear (some .done) [2, b]) ∧
        u = { s.taken dt l with
          pumps := u.pumps, alarms := s.alarms.clear .pumpFailed (.pump b.toNat) } ∧
        (∀ k, k ≠ b.toNat → u.pump? k = s.pump? k) ∧
        u.pump? b.toNat = some { p with st := .off })

/-! ### Attitude -/

/-- An accepted reading is clamped and joins the window, from which the oldest of eight leaves, and the
silence timer restarts (R102 to R104); the reading that brings the fill to four clears ATTITUDE_INVALID
(R105). Permits and fractions are derived again from the new window, and each axis is handed on (R108
to R110): a permit gained is followed by an evaluation; a permit lost pauses every granted step of the
axis with ATTITUDE, then an evaluation (R89, R111); a fraction kept or changed is applied to the granted
records of the axis (R88), with an evaluation when a demand or the fraction has changed (log 13). The
order of the two axes is the command's (log 11), and that the clear comes before the hand-ons is the model's
choice (DESIGN CHOICE, log 51). Below a fill of four nothing is handed on. -/
def Obligations.AcceptedReadingJoinsTheWindow : Prop :=
  (∀ (s : State) (dt : Nat) (heel trim : Word) (flags crc : Byte) (order : Bool) (a : Attitude)
    (x : State),
    s.power = .running →
    crc8 (be16 heel.toNat ++ be16 trim.toNat ++ [flags]) = crc → flags.getLsbD 0 = true →
    a = { s.att with
      window := (if s.att.window.length < 8 then s.att.window else s.att.window.tail) ++
        [(max (-450) (min 450 heel.toInt), max (-450) (min 450 trim.toInt))]
      silence := some (s.now + dt)
      rx := .hunting
      accepted := inc16 s.att.accepted
      clamped :=
        if heel.toInt < -450 ∨ 450 < heel.toInt ∨ trim.toInt < -450 ∨ 450 < trim.toInt then
          inc16 s.att.clamped
        else s.att.clamped } →
    x = { s.advance dt with
      att := State.deriveFractions { s.advance dt with att := a }
      alarms := if s.att.window.length = 3 then s.alarms.clear .attitudeInvalid .attitude
        else s.alarms } →
    ∃ t : State, exec (.attitudeTelegram dt heel trim flags crc order) s = .next t ∧
      t = (if order = true then
          (x.axisHandOn .fold s.att.trim x.att.trim).axisHandOn .roll s.att.heel x.att.heel
        else (x.axisHandOn .roll s.att.heel x.att.heel).axisHandOn .fold s.att.trim x.att.trim) ∧
      x.att = { a with heel := x.att.heel, trim := x.att.trim } ∧
      OnlyMotion { s.advance dt with att := x.att } t ∧
      (a.window.length < 4 → t.att.heel = none ∧ t.att.trim = none ∧
        (s.att.heel = none → s.att.trim = none → t = x))) ∧
  (∀ (s : State) (axis : Cover) (on : List Nat),
    on = (s.granted.filter fun g => match axis with
      | .roll => g.step = .travelOpen ∨ g.step = .travelClose
      | .fold => g.step = .foldOpen ∨ g.step = .foldClose).map Grant.hatch →
    s.axisHandOn axis none none = s ∧
    (∀ p, s.axisHandOn axis none (some p) = s.evaluate) ∧
    (∀ p, s.axisHandOn axis (some p) none =
      (on.foldl (fun x h => x.pauseOp h .attitude) s).evaluate) ∧
    ∀ p p' u, u = on.foldl (fun x h => x.followOne p' h) s → s.axisHandOn axis (some p) (some p') =
      if p = p' ∧ u.granted.map Grant.demand = s.granted.map Grant.demand then u else u.evaluate) ∧
  (∀ (s : State) (h p : Nat) (g new : Grant) (hr : Hatch), s.grant? h = some g →
    s.hatch? h = some hr → g.step.isProportional = true →
    new = g.follow s.maxB s.freeFlow p →
    s.followOne p h = { s with
      granted := s.granted.map fun x => if x.hatch = h then new else x
      nodes := if new.setpoint = g.setpoint then s.nodes
        else (s.writeValves h (hr.drivenWrites g.step new.setpoint)).nodes }) ∧
  ∀ (g : Grant) (maxB free p d c : Nat) (clamped : Bool),
    (d, c, clamped) = (if demandAt g.q p ≤ maxB then (demandAt g.q p, p, false)
      else (maxB, maxB * 100 / g.q, true)) →
    (d < g.demand ∨ c < g.speed → g.follow maxB free p =
      { g with demand := d, speed := c, setpoint := c, clamped := clamped }) ∧
    (g.demand ≤ d → g.speed ≤ c → g.follow maxB free p =
      { g with
        demand := min d (g.demand + free)
        speed := min c (min d (g.demand + free) * 100 / g.q)
        setpoint := min c (min d (g.demand + free) * 100 / g.q)
        clamped := clamped })

/-- A telegram with a bad CRC, an invalid reading and a framing error are counted; nothing else
changes but the receiver, which hunts (R102). After 1000 ms without an accepted reading the window is
emptied, the timer stops and no permit is left; ATTITUDE_INVALID is raised, and each axis that had a
permit is handed on as one that lost it (R89, R105, R108, R110, R111), after the raise, which is the model's
choice (DESIGN CHOICE, log 51). The order of the two axes is the command's (log 11). A timer that is stopped,
or has not come to 1000 ms, changes nothing but the time (log 2). -/
def Obligations.TheAttitudeLineWithoutAReading : Prop :=
  ∀ (s : State) (dt : Nat), s.power = .running →
    (∀ (heel trim : Word) (flags crc : Byte) (order : Bool),
      crc8 (be16 heel.toNat ++ be16 trim.toNat ++ [flags]) ≠ crc →
      exec (.attitudeTelegram dt heel trim flags crc order) s = .next { s.advance dt with
        att := { s.att with rx := .hunting, crc := inc16 s.att.crc } }) ∧
    (∀ (heel trim : Word) (flags crc : Byte) (order : Bool),
      crc8 (be16 heel.toNat ++ be16 trim.toNat ++ [flags]) = crc → flags.getLsbD 0 = false →
      exec (.attitudeTelegram dt heel trim flags crc order) s = .next { s.advance dt with
        att := { s.att with rx := .hunting, invalid := inc16 s.att.invalid } }) ∧
    exec (.attitudeFramingError dt) s = .next { s.advance dt with
      att := { s.att with rx := .hunting, framing := inc16 s.att.framing } } ∧
    (∀ order : Bool, (∀ t0 ∈ s.att.silence, s.now + dt < t0 + 1000) →
      exec (.attitudeSilence dt order) s = .next (s.advance dt)) ∧
    ∀ (t0 : Nat) (order : Bool) (x : State), s.att.silence = some t0 → t0 + 1000 ≤ s.now + dt →
      x = { s.advance dt with
        att := { s.att with window := [], silence := none, heel := none, trim := none }
        alarms := s.alarms.raise .attitudeInvalid .attitude (s.advance dt).runningTime } →
      ∃ t : State, exec (.attitudeSilence dt order) s = .next t ∧
        t = (if order = true then
            (x.axisHandOn .fold s.att.trim none).axisHandOn .roll s.att.heel none
          else (x.axisHandOn .roll s.att.heel none).axisHandOn .fold s.att.trim none) ∧
        OnlyMotion { s.advance dt with att := t.att } t ∧
        t.att = { s.att with window := [], silence := none, heel := none, trim := none } ∧
        (s.att.heel = none → s.att.trim = none → t = x)

/-- The speed fractions (R109): with angle the peak of the axis and Fl, Sl, Mn its limits, 100 up to
Fl, 100 - floor((100 - Mn)(angle - Fl) / (Sl - Fl)) up to Sl, none above Sl; a fraction needs a fill
of four and lies between Mn and 100, and it is the P of a step of its cover type (R77). -/
def Obligations.SpeedFraction : Prop :=
  ∀ (s : State) (c : Items), s.inForce = some c →
    (∀ a, s.att.peakHeel = some a → 4 ≤ s.att.window.length →
      s.deriveFractions.heel =
        if a ≤ itemNat c 13 0 then
          if a ≤ itemNat c 12 0 then some 100
          else some (100 - (100 - itemNat c 14 0) * (a - itemNat c 12 0) /
            (itemNat c 13 0 - itemNat c 12 0))
        else none) ∧
    (∀ a, s.att.peakTrim = some a → 4 ≤ s.att.window.length →
      s.deriveFractions.trim =
        if a ≤ itemNat c 16 0 then
          if a ≤ itemNat c 15 0 then some 100
          else some (100 - (100 - itemNat c 17 0) * (a - itemNat c 15 0) /
            (itemNat c 16 0 - itemNat c 15 0))
        else none) ∧
    (s.att.window.length < 4 → s.deriveFractions.heel = none ∧ s.deriveFractions.trim = none) ∧
    (∀ fl sl mn a p : Nat, fl < sl → mn ≤ 100 → fractionAt fl sl mn a = some p →
      mn ≤ p ∧ p ≤ 100 ∧ (a = sl → p = mn)) ∧
    s.fraction .travelOpen = s.att.heel ∧ s.fraction .travelClose = s.att.heel ∧
    s.fraction .foldOpen = s.att.trim ∧ s.fraction .foldClose = s.att.trim

/-! ### Field line -/

/-- A scan begins every 20 ms while node records are present (SCAN acts when its time has come, log
24); the first node in ascending address order is sent its poll: address, eight setpoints, CRC-8
(R23, R170). When a turn has ended with a reply, the node in the next place `k + 1` is sent its poll at
the start of its slot, (k + 1) × 400 µs after the start of the scan, whatever command comes then, with
the setpoints as they stand before that command; a SCAN sends it up to 1 ms before the clock of whole ms
shows that start, not earlier (log 23). Time passes for the running part so and in no other way. A SCAN of
a part that has not yet read its stored image reads it first (R178; DESIGN CHOICE, log 4). -/
def Obligations.ScanPollsTheFirstNode : Prop :=
  (∀ (s : State) (dt : Nat), s.power = .running → s.started = false →
    exec (.scan dt) s = exec (.scan 0) (s.advance dt).startUp) ∧
  (∀ (s : State) (dt : Nat) (n : Node) (rest : List Node), s.power = .running → s.started = true →
    s.nodes = n :: rest → s.scan.place = none → s.scan.due ≤ s.now + dt →
    exec (.scan dt) s = .next { s.advance dt with
      scan := { s.scan with
        no := s.scan.no + 1
        due := s.scan.due + 20
        place := some 0
        replied := false
        poll := (byte n.addr :: n.outs.map byte) ++
          [crc8 (byte n.addr :: n.outs.map byte)] } }) ∧
  (∀ (s : State) (dt k : Nat) (n : Node) (polled : Scan), s.power = .running → s.started = true →
    s.scan.place = some k → s.scan.replied = true → s.nodes[k + 1]? = some n →
    polled = { s.scan with
      place := some (k + 1)
      replied := false
      poll := (byte n.addr :: n.outs.map byte) ++ [crc8 (byte n.addr :: n.outs.map byte)] } →
    (s.advance dt).scan =
      (if 5 * s.scan.due + 2 * (k + 1) ≤ 5 * (s.now + dt + 20) then polled else s.scan) ∧
    (s.scan.due + 2 * (k + 1) / 5 ≤ s.now + dt + 20 →
      exec (.scan dt) s = .next { s.advance dt with scan := polled }) ∧
    (s.now + dt + 20 < s.scan.due + 2 * (k + 1) / 5 →
      exec (.scan dt) s = .next (s.advance dt))) ∧
  ∀ (s : State) (dt : Nat), s.power = .running →
    s.advance dt = { s with
      now := s.now + dt
      scan := (s.advance dt).scan
      retained := { s.retained with ranMs := s.retained.ranMs + dt } } ∧
    (s.scan.place = none ∨ s.scan.replied = false → (s.advance dt).scan = s.scan) ∧
    ((s.scan.place = none ∧ (s.nodes = [] ∨ s.now + dt < s.scan.due)) ∨
        (s.scan.place ≠ none ∧ s.scan.replied = false) → s.started = true →
      exec (.scan dt) s = .next (s.advance dt))

/-- A good reply to the running turn sets the node's counters, its sample and its state as R25 gives,
and ends the turn (R24). Before the end of the turn the reply of a node that is ONLINE, or becomes it, is
sampled; of a node that comes back NODE_LOST is cleared (R28), its points that have a value cease to be
stale (R28, R37), its hatches are brought up to date and the band is derived again (R74). That the clear of
NODE_LOST comes first, before the hatches and the band change their alarms, is the model's choice (DESIGN
CHOICE, log 48; R28 fixes no order). A sample of a
node is taken input by input in the command's order (log 11): bit k of the reply, by the polarity of the
binding of input k (R31, R33); an input without a binding has no effect. What the end of a turn does is
said with the resets: with the last turn of the first scan after a load the part is READY (R23, R178). -/
def Obligations.GoodReplyFollowsTheNodeTable : Prop :=
  (∀ (s : State) (dt k : Nat) (n : Node) (b0 b1 b2 b3 : Byte) (order : List Nat) (first : Bool)
    (x : State), s.power = .running → (s.nodes.map Node.addr).Nodup → s.scan.place = some k →
    s.scan.replied = false → s.nodes[k]? = some n → b0 = byte n.addr → crc8 [b0, b1, b2] = b3 →
    x = { s.advance dt with
      scan := { s.scan with replied := true }
      nodes := s.nodes.map fun m => if m.addr = n.addr then { m with
        misses := 0
        goods := if n.st = .online ∨ 1 ≤ n.goods then 2 else 1
        st := if n.st = .online ∨ 1 ≤ n.goods then .online else n.st
        sample := some (b2 ++ b1) } else m } →
    (n.st = .online → exec (.fieldReply dt n.addr [b0, b1, b2, b3] order first) s =
      .next ((x.sampleNode n.addr (b2 ++ b1) order).endTurn k)) ∧
    (n.st ≠ .online → 1 ≤ n.goods →
      exec (.fieldReply dt n.addr [b0, b1, b2, b3] order first) s =
        .next (((x.nodeReturn n.addr (n.st = .lost)).sampleNode n.addr (b2 ++ b1) order).endTurn k)) ∧
    (n.st ≠ .online → n.goods = 0 →
      exec (.fieldReply dt n.addr [b0, b1, b2, b3] order first) s = .next (x.endTurn k))) ∧
  (∀ (s : State) (a : Nat) (fromLost : Bool), s.nodeReturn a fromLost =
    (State.refreshAll { s with
      alarms := if fromLost then s.alarms.clear .nodeLost (.node a) else s.alarms
      points := s.points.map fun p => if p.node = a then
        { p with stale := decide (p.role.code ≤ 12 ∧ p.qual = none) } else p }).rederiveBand) ∧
  (∀ (s : State) (a : Nat) (w : Word) (order given : List Nat),
    given = (order.filter fun k => k < 16).eraseDups →
    s.sampleNode a w order =
      (given ++ (List.range 16).filter fun k => k ∉ given).foldl (fun x k => x.sampleInput a w k) s) ∧
  (∀ (s : State) (a k : Nat) (w : Word) (found : Option Point),
    found = s.points.find? (fun p => p.node = a ∧ p.point = k ∧ p.role.code ≤ 12) →
    (found = none → s.sampleInput a w k = s) ∧
    ∀ (p : Point) (v : Bool), found = some p →
      v = (if p.inverted then !w.getLsbD k else w.getLsbD k) →
      s.sampleInput a w k =
        if p.role = .hatchPressure then s.samplePressure p v else s.sampleDebounced p v) ∧
  ∀ (s : State) (dt k : Nat) (n : Node) (b0 b1 b2 b3 : Byte) (order : List Nat) (first : Bool),
    s.power = .running → (s.nodes.map Node.addr).Nodup → s.scan.place = some k →
    s.scan.replied = false → s.nodes[k]? = some n → b0 = byte n.addr → crc8 [b0, b1, b2] = b3 →
    ∃ t u : State, exec (.fieldReply dt n.addr [b0, b1, b2, b3] order first) s = .next t ∧
      t = u.endTurn k ∧ u.mode = s.mode ∧ u.scan = { s.scan with replied := true } ∧
      OnlyField (s.advance dt) t ∧
      (t.node? n.addr).map Node.still = some { n with
        outs := []
        misses := 0
        goods := if n.st = .online ∨ 1 ≤ n.goods then 2 else 1
        st := if n.st = .online ∨ 1 ≤ n.goods then .online else n.st
        sample := some (b2 ++ b1) } ∧
      (∀ a, a ≠ n.addr → (t.node? a).map Node.still = (s.node? a).map Node.still) ∧
      (k + 1 < s.nodes.length → t.mode = s.mode ∧ t.scan = { s.scan with replied := true }) ∧
      (s.nodes.length ≤ k + 1 → t.scan = { s.scan with
          place := none, replied := false, firstOver := true } ∧
        t.mode = if s.mode = .loading ∧ s.scan.firstOver = false then s.retained.mode.part
          else s.mode)

/-- A slot that ends without a reply is a miss: the node's counters and state follow R25, the points
of a node that goes LOST become stale and lose their pending values (R37), and the next turn begins
at the end of the slot, (k + 1) × 400 µs after the start of the scan (R23); a slot end before the ms of that
time changes nothing (logs 2, 23). A reply that is not good is the same miss and ends the turn. A reply
or slot end whose turn has ended, or has not come, is discarded (R24); one of the node after a turn that a
reply has ended begins its turn first, from the ms in which its slot begins (DESIGN CHOICE, log 23). A node
that goes LOST raises NODE_LOST and its hatches are brought up to date (R26); the pressure watches of its
pressure inputs stop (R61); the Engine pauses every hatch whose QUEUED or MOVING step uses one of its points, with
NODE_LOST, then one evaluation runs (R27, log 12); its pumps lose their feedback (R96) and the band is
derived again (R74, log 14). Which of the two comes first is the command's (log 11). -/
def Obligations.MissedTurnFollowsTheNodeTable : Prop :=
  (∀ (s : State) (dt k : Nat) (n : Node) (first : Bool),
    s.power = .running → (s.nodes.map Node.addr).Nodup → s.scan.place = some k →
    s.scan.replied = false → s.nodes[k]? = some n →
    (s.now + dt + 20 < s.scan.due + 2 * (k + 1) / 5 →
      exec (.slotEnd dt n.addr first) s = .next (s.advance dt)) ∧
    (s.scan.due + 2 * (k + 1) / 5 ≤ s.now + dt + 20 →
      ∃ t : State, exec (.slotEnd dt n.addr first) s = .next t ∧ OnlyField (s.advance dt) t ∧
      (t.node? n.addr).map Node.still = some { n with
        outs := []
        misses := if n.st = .lost then 3 else min (n.misses + 1) 3
        goods := 0
        st := if n.st = .online ∧ 2 ≤ n.misses then .lost else n.st } ∧
      (∀ a, a ≠ n.addr → (t.node? a).map Node.still = (s.node? a).map Node.still) ∧
      t.points = (if n.st = .online ∧ 2 ≤ n.misses then
        s.points.map fun p => if p.node = n.addr then { p with stale := true, pend := none } else p
        else s.points) ∧
      (∀ n', s.nodes[k + 1]? = some n' → t.mode = s.mode ∧ t.scan.place = some (k + 1) ∧
        t.scan.replied = false) ∧
      (s.nodes.length ≤ k + 1 → t.scan.place = none ∧ t.scan.firstOver = true) ∧
      (¬(n.st = .online ∧ 2 ≤ n.misses) → k + 1 < s.nodes.length →
        t = { s.advance dt with nodes := t.nodes, scan := t.scan }) ∧
      (n.st = .online → 2 ≤ n.misses →
        t = (((State.nodeLost { s.advance dt with
          nodes := s.nodes.map fun x =>
            if x.addr = n.addr then { x with misses := 3, goods := 0, st := .lost } else x }
          n.addr first).endTurn k).beginTurn (k + 1)))) ∧
    (∀ (bytes : List Byte) (order : List Nat), replyBits n.addr bytes = none →
      ∃ t : State, exec (.fieldReply dt n.addr bytes order first) s = .next t ∧
        (t.node? n.addr).map Node.still = some { n with
          outs := []
          misses := if n.st = .lost then 3 else min (n.misses + 1) 3
          goods := 0
          st := if n.st = .online ∧ 2 ≤ n.misses then .lost else n.st }) ∧
    ∀ (bytes : List Byte) (order : List Nat) (x : State), replyBits n.addr bytes = none →
      x = { s.advance dt with
        scan := { s.scan with replied := true }
        nodes := s.nodes.map fun m => if m.addr = n.addr then { m with
          misses := if n.st = .lost then 3 else min (n.misses + 1) 3
          goods := 0
          st := if n.st = .online ∧ 2 ≤ n.misses then .lost else m.st } else m } →
      exec (.fieldReply dt n.addr bytes order first) s =
        .next (if n.st = .online ∧ 2 ≤ n.misses then (x.nodeLost n.addr first).endTurn k
          else x.endTurn k)) ∧
  (∀ (a : Nat) (bytes : List Byte) (w : Word), replyBits a bytes = some w ↔
    ∃ b1 b2 : Byte, bytes = [byte a, b1, b2, crc8 [byte a, b1, b2]] ∧ w = b2 ++ b1) ∧
  (∀ (s y : State) (dt a : Nat) (bytes : List Byte) (order : List Nat) (first : Bool),
    s.power = .running → y = s.advance dt →
    (y.scan.place = none → exec (.fieldReply dt a bytes order first) s = .next y ∧
      exec (.slotEnd dt a first) s = .next y) ∧
    ∀ (k : Nat) (n : Node), y.scan.place = some k → s.nodes[k]? = some n →
      ((n.addr = a ∧ y.scan.replied = true) ∨ (n.addr ≠ a ∧ (y.scan.replied = false ∨
        (∀ n', s.nodes[k + 1]? = some n' → n'.addr ≠ a) ∨
        s.now + dt + 20 < s.scan.due + 2 * (k + 1) / 5)) →
        exec (.fieldReply dt a bytes order first) s = .next y ∧
        exec (.slotEnd dt a first) s = .next y) ∧
      ∀ (n' : Node) (z : State), n.addr ≠ a → y.scan.replied = true → s.nodes[k + 1]? = some n' →
        n'.addr = a → s.scan.due + 2 * (k + 1) / 5 ≤ s.now + dt + 20 →
        z = { y with scan := { y.scan with
          place := some (k + 1)
          replied := false
          poll := (byte a :: n'.outs.map byte) ++ [crc8 (byte a :: n'.outs.map byte)] } } →
        exec (.fieldReply dt a bytes order first) s = exec (.fieldReply 0 a bytes order first) z ∧
        exec (.slotEnd dt a first) s =
          if s.scan.due + 2 * (k + 2) / 5 ≤ s.now + dt + 20 then exec (.slotEnd 0 a first) z
          else .next y) ∧
  (∀ (hr : Hatch) (st : Step) (p : Point), hr.usesPoint st p = true ↔ hr.Uses st p) ∧
  ∀ (s : State) (a : Nat),
    (∀ first : Bool, ∃ u : State,
      s.nodeLost a first =
        (if first = true then (u.supplyNodeLost a).engineNodeLost a
          else (u.engineNodeLost a).supplyNodeLost a) ∧
      u = { s with
        alarms := u.alarms
        points := s.points.map fun p =>
          if p.node = a then { p with stale := true, pend := none } else p
        hatches := u.hatches
        ops := s.ops.map fun o =>
          if ∃ p ∈ s.points, p.role = .hatchPressure ∧ p.node = a ∧ p.subject = o.hatch then
            { o with watch := none }
          else o } ∧
      State.refreshAll { u with
        hatches := s.hatches, alarms := s.alarms.raise .nodeLost (.node a) s.runningTime } = u) ∧
    (∀ h : Nat, s.motionUses a h = true ↔ ∃ o hr st, s.op? h = some o ∧ s.hatch? h = some hr ∧
      o.prog.head? = some st ∧ (o.st = .queued ∨ o.st = .moving) ∧
      ∃ p ∈ s.points, p.node = a ∧ hr.Uses st p) ∧
    (∀ hs : List Nat, hs = (s.hatches.map Hatch.num).filter (s.motionUses a) →
      s.engineNodeLost a =
        if hs = [] then s else (hs.foldl (fun x h => x.pauseOp h .nodeLost) s).evaluate) ∧
    s.supplyNodeLost a = (((s.pumps.map Pump.num).filter fun n => s.points.any fun p =>
      p.node = a ∧ p.subject = n ∧ (p.role = .pumpRun ∨ p.role = .pumpRunning)).foldl
        State.pumpNodeLost s).rederiveBand

/-- The debounce of a sample `v` in scan `no` with qualification count `n` (R33, R34): the point after
it, whether a value has qualified, whether the sample was a chatter. A sample of a point takes the
qualification count of its role class (R32); a qualified change goes to the block that owns the role
(R36), the Hatch Table, Pump Control or the temperature band; the chatter that takes the count from 49 to
50 raises SENSOR_CHATTER for the hatch or the power pack, unless another point of the same subject has
reached 50 before it (R35). -/
def Obligations.DebounceFollowsTheTables : Prop :=
  (∀ (s x : State) (p q : Point) (v qualified chattered : Bool) (ms : Nat),
    (∀ c, s.inForce = some c → ms = itemNat c 18
      (if 3 ≤ p.role.code ∧ p.role.code ≤ 7 then 1 else if p.role.code ≤ 2 then 2 else 3)) →
    (s.inForce = none → ms = 20) →
    (q, qualified, chattered) = p.debounce ((ms + 19) / 20) s.scan.no v →
    x = { s with points := s.points.map fun r =>
      if r.node = p.node ∧ r.point = p.point ∧ r.role.code ≤ 12 then q else r } →
    (qualified = true → s.sampleDebounced p v =
      if p.role.code ≤ 7 then x.hatchEvent p.subject
      else if p.role = .pumpRunning then x.pumpFeedback p.subject v
      else x.rederiveBand) ∧
    (qualified = false → chattered = true → s.sampleDebounced p v =
      let sub : Point → Subject := fun r => if r.role.code ≤ 7 then .hatch r.subject else .powerPack
      if p.chatter = 49 ∧ ∀ r ∈ s.points, r.role.code ≤ 12 → r.role ≠ .hatchPressure →
          sub r = sub p → r.chatter < 50 then
        { x with alarms := s.alarms.raise .sensorChatter (sub p) s.runningTime }
      else x) ∧
    (qualified = false → chattered = false → s.sampleDebounced p v = x)) ∧
  ∀ (p : Point) (n no first : Nat) (v : Bool),
    (p.qual = some v → p.pend = none → p.debounce n no v = (p, false, false)) ∧
    (p.qual = some (!v) → p.pend = none →
      p.debounce n no v = ({ p with pend := some (v, no) }, false, false)) ∧
    (p.qual = some (!v) → p.pend = some (v, first) → no < first + n →
      p.debounce n no v = (p, false, false)) ∧
    (p.qual = some (!v) → p.pend = some (v, first) → first + n ≤ no →
      p.debounce n no v =
        ({ p with qual := some v, pend := none, stale := false }, true, false)) ∧
    (p.qual = some v → p.pend = some (!v, first) →
      p.debounce n no v =
        ({ p with pend := none, chatter := inc16 p.chatter }, false, true)) ∧
    (p.qual = none → p.pend = none →
      p.debounce n no v = ({ p with pend := some (v, no) }, false, false)) ∧
    (p.qual = none → p.pend = some (v, first) → first + n ≤ no →
      p.debounce n no v =
        ({ p with qual := some v, pend := none, stale := false }, true, false)) ∧
    (p.qual = none → p.pend = some (v, first) → no < first + n →
      p.debounce n no v = (p, false, false)) ∧
    (p.qual = none → p.pend = some (!v, first) →
      p.debounce n no v =
        ({ p with pend := some (v, no), chatter := inc16 p.chatter }, false, true))

/-! ### Modes and emergency stop -/

/-- ARM_HARBOUR and CONFIRM_HARBOUR: the first row that applies gives the answer, from a class other
than BRIDGE, in a mode other than SEA, without and with the arm of the line; and the expiry of the arm
(R134, R135). That an arm whose time has come stands until its ARM_EXPIRY is taken, and that an
ARM_EXPIRY before that time changes nothing, is the model's choice (DESIGN CHOICE, log 2). -/
def Obligations.HarbourArmAndConfirmation : Prop :=
  ∀ (s : State) (dt l : Nat) (seq : Byte),
    (Served s l → s.mode = .sea → s.classOf l = .bridge →
      exec (.armHarbour dt l seq []) s =
        .next (State.answer { s.taken dt l with arm := some ⟨l, s.now + dt + 10000⟩ } l seq
          kindMode (some .done) [1, 3]) ∧
      (s.arm.map Arm.line ≠ some l →
        exec (.confirmHarbour dt l seq []) s =
          .next ((s.taken dt l).answer l seq kindMode (some .notArmed) [2, 3])) ∧
      (s.arm.map Arm.line = some l →
        exec (.confirmHarbour dt l seq []) s =
          .next (State.answer { s.taken dt l with
            arm := none
            mode := .harbour
            retained := { (s.advance dt).retained with mode := .harbour }
            alarms := s.alarms.clearAll .hatchUnsecuredAtSea } l seq kindMode (some .done)
            [2, 4]))) ∧
    (Served s l → s.mode = .sea ∨ s.mode = .harbour ∨ s.mode = .commission →
      s.classOf l ≠ .bridge →
      exec (.armHarbour dt l seq []) s =
        .next ((s.taken dt l).answer l seq kindMode (some .class) [1, byte s.mode.code]) ∧
      exec (.confirmHarbour dt l seq []) s =
        .next ((s.taken dt l).answer l seq kindMode (some .class) [2, byte s.mode.code])) ∧
    (Served s l → s.mode = .harbour ∨ s.mode = .commission → s.classOf l = .bridge →
      exec (.armHarbour dt l seq []) s =
        .next ((s.taken dt l).answer l seq kindMode (some .mode) [1, byte s.mode.code]) ∧
      exec (.confirmHarbour dt l seq []) s =
        .next ((s.taken dt l).answer l seq kindMode (some .mode) [2, byte s.mode.code])) ∧
    (s.power = .running → ∀ a, s.arm = some a →
      (a.expiry ≤ s.now + dt → exec (.armExpiry dt) s = .next { s.advance dt with arm := none }) ∧
      (s.now + dt < a.expiry → exec (.armExpiry dt) s = .next (s.advance dt)))

/-- MODE SEA: the first row that applies gives the answer, CLASS from a class other than BRIDGE, DONE
at sea, MODE in COMMISSION, NOT_SECURED while a hatch is not SECURED or a record not IDLE; otherwise the
part mode and the retained mode become SEA and every claim is released, its claim idle timer discarded with
it (R118, R125, R136). -/
def Obligations.SeaIsEnteredSecured : Prop :=
  ∀ (s : State) (dt l : Nat) (seq : Byte), Served s l →
    (s.mode = .sea ∨ s.mode = .harbour ∨ s.mode = .commission → s.classOf l ≠ .bridge →
      exec (.modeSea dt l seq []) s =
        .next ((s.taken dt l).answer l seq kindMode (some .class) [3, byte s.mode.code])) ∧
    (s.classOf l = .bridge →
      (s.mode = .sea → exec (.modeSea dt l seq []) s =
        .next ((s.taken dt l).answer l seq kindMode (some .done) [3, 3])) ∧
      (s.mode = .commission → exec (.modeSea dt l seq []) s =
        .next ((s.taken dt l).answer l seq kindMode (some .mode) [3, 5])) ∧
      (s.mode = .harbour →
        ((∃ hr ∈ s.hatches, hr.position ≠ .secured) ∨ ∃ o ∈ s.ops, o.st ≠ .idle) →
        exec (.modeSea dt l seq []) s =
          .next ((s.taken dt l).answer l seq kindMode (some .notSecured) [3, 4])) ∧
      (s.mode = .harbour → (∀ hr ∈ s.hatches, hr.position = .secured) →
        (∀ o ∈ s.ops, o.st = .idle) →
        ∃ u : State, exec (.modeSea dt l seq []) s =
            .next (u.answer l seq kindMode (some .done) [3, 3]) ∧
          u = { s.taken dt l with
            mode := .sea
            retained := { (s.advance dt).retained with mode := .sea }
            claims := u.claims } ∧
          u.claims = (s.claims.map fun c =>
            if s.claims.any (fun d => d.hatch == c.hatch && d.holder.isSome) = true then
              { c with holder := none, idle := none }
            else c) ∧
          ∀ c ∈ u.claims, c.holder = none))

/-- MODE COMMISSION and LEAVE_COMMISSION (R137, R138), the first row that applies: CLASS from a line
that is no console or with the COMMISSION_ENABLE strap at 0. From the console entry changes the mode
alone, and is DONE in COMMISSION, MODE at sea, BUSY while an operation is under way. Leaving is MODE
outside COMMISSION and BUSY during a STORE write; with a valid working configuration every block is
built from it, the mode is HARBOUR and CONFIG_INVALID is cleared; with an invalid one the mode is
UNCONFIGURED, no block has a record (R1, R22, R41, R73, R101, R114, R125) and CONFIG_INVALID is
raised. The model's choice are the band and the stopped pump idle timer in UNCONFIGURED (log 5), bit 7
INVERTED of an output binding (log 44), and that the first scan is due at the build (log 24). The records
of a build are those of R21, R41, R73, R101, R114 and R116, the band and B those of R74 and R75. -/
def Obligations.CommissionIsEnteredAndLeft : Prop :=
  ∀ (s : State) (dt l : Nat) (seq : Byte), Served s l →
    (s.mode ≠ .loading → s.classOf l ≠ .console ∨ s.commissionEnable = false →
      exec (.modeCommission dt l seq []) s =
        .next ((s.taken dt l).answer l seq kindMode (some .class) [4, byte s.mode.code])) ∧
    (s.classOf l ≠ .console → s.mode = .sea ∨ s.mode = .harbour ∨ s.mode = .commission →
      exec (.leaveCommission dt l seq []) s =
        .next ((s.taken dt l).answer l seq kindMode (some .class) [5, byte s.mode.code])) ∧
    (s.classOf l = .console → s.commissionEnable = true →
      (s.mode = .unconfigured ∨ (s.mode = .harbour ∧ ∀ o ∈ s.ops, o.st = .idle ∨ o.st = .faulted) →
        exec (.modeCommission dt l seq []) s =
          .next (State.answer { s.taken dt l with
            mode := .commission
            retained := { (s.advance dt).retained with mode := .commission } } l seq kindMode
            (some .done) [4, 5])) ∧
      (s.mode = .commission → exec (.modeCommission dt l seq []) s =
        .next ((s.taken dt l).answer l seq kindMode (some .done) [4, 5])) ∧
      (s.mode = .sea → exec (.modeCommission dt l seq []) s =
        .next ((s.taken dt l).answer l seq kindMode (some .mode) [4, 3])) ∧
      (s.mode = .harbour → (∃ o ∈ s.ops, o.st ≠ .idle ∧ o.st ≠ .faulted) →
        exec (.modeCommission dt l seq []) s =
          .next ((s.taken dt l).answer l seq kindMode (some .busy) [4, 4]))) ∧
    (s.classOf l = .console →
      (s.mode = .sea ∨ s.mode = .harbour → exec (.leaveCommission dt l seq []) s =
        .next ((s.taken dt l).answer l seq kindMode (some .mode) [5, byte s.mode.code])) ∧
      (s.mode = .commission → s.storing.isSome = true →
        exec (.leaveCommission dt l seq []) s =
          .next ((s.taken dt l).answer l seq kindMode (some .busy) [5, 5])) ∧
      (s.mode = .commission → s.storing = none → validConfig s.working = true →
        ∃ b : State, BuiltFrom (s.taken dt l) s.working b ∧
          exec (.leaveCommission dt l seq []) s = .next (State.answer { b with
            mode := .harbour
            retained := { (s.advance dt).retained with mode := .harbour }
            alarms := s.alarms.rebuilt.clear .configInvalid .part } l seq kindMode (some .done)
            [5, 4])) ∧
      (s.mode = .commission → s.storing = none → validConfig s.working = false →
        ∃ u : State, Unbuilt (s.taken dt l) u ∧
          exec (.leaveCommission dt l seq []) s =
            .next (u.answer l seq kindMode (some .invalid) [5, 2])))

/-- ESTOP of a station with the ability, and ESTOP_IN going active, set the latch, raise ESTOP_ACTIVE,
abort every operation, empty the grants and stop the pumps (R68, R90, R99, R140, R141): what `Stopped`
spells out. The outputs of a FAILED pump are at 0 already (R94, R95); where they are, every PUMP_RUN
output is at 0 afterwards. That an IDLE record of a held hatch keeps its claim idle timer is DEDUCED (log 36).
A set latch is left as it is, a station without the ability is refused CLASS.
ESTOP_IN going inactive clears nothing. -/
def Obligations.EmergencyStop : Prop :=
  (∀ (s : State) (dt l : Nat) (seq : Byte), MotionOk s → (s.pumps.map Pump.num).Nodup →
    (Served s l → s.mode ≠ .unconfigured →
      ((s.line? l).bind Line.estopAbility = some true → s.latch = false →
        ∃ u : State, exec (.estop dt l seq []) s =
            .next (u.answer l seq kindEstop (some .done) []) ∧ Stopped (s.taken dt l) u) ∧
      ((s.line? l).bind Line.estopAbility = some true → s.latch = true →
        exec (.estop dt l seq []) s =
          .next ((s.taken dt l).answer l seq kindEstop (some .done) [])) ∧
      ((s.line? l).bind Line.estopAbility ≠ some true →
        exec (.estop dt l seq []) s =
          .next ((s.taken dt l).answer l seq kindEstop (some .class) []))) ∧
    (s.power = .running →
      (s.estopIn = false → s.latch = false →
        ∃ t : State, exec (.estopInActive dt) s = .next t ∧
          Stopped { s.advance dt with estopIn := true } t) ∧
      (s.estopIn = true ∨ s.latch = true →
        exec (.estopInActive dt) s = .next { s.advance dt with estopIn := true }) ∧
      exec (.estopInInactive dt) s = .next { s.advance dt with estopIn := false })) ∧
  ∀ s t : State, Stopped s t →
    (∀ p ∈ s.pumps, p.st = .failed → ∀ q, s.pumpPoint? .pumpRun p.num = some q →
      s.outAt q.node q.point = 0) →
    t.holders = s.holders ∧
      ∀ p ∈ t.pumps, ∀ q, t.pumpPoint? .pumpRun p.num = some q → t.outAt q.node q.point = 0

/-- CLEAR ESTOP (R142): the first row that applies gives the answer, and only the last row changes
the latch and ESTOP_ACTIVE. -/
def Obligations.ClearEstop : Prop :=
  ∀ (s : State) (dt l : Nat) (seq i : Byte), Served s l →
    s.mode = .sea ∨ s.mode = .harbour ∨ s.mode = .commission →
    exec (.clearEstop dt l seq [i]) s =
      if s.classOf l ≠ .console then
        .next ((s.taken dt l).answer l seq kindClear (some .class) [3, i])
      else if s.latch = false then
        .next ((s.taken dt l).answer l seq kindClear (some .notRunning) [3, i])
      else if s.estopIn = true then
        .next ((s.taken dt l).answer l seq kindClear (some .lineActive) [3, i])
      else
        .next (State.answer { s.taken dt l with
          latch := false, alarms := s.alarms.clear .estopActive .part } l seq kindClear
          (some .done) [3, i])

/-! ### Alarms -/

/-- A raise and a clear by the record found (R146, R147): the list after it, with every other record
in its place. -/
def Obligations.RaiseAndClearFollowTheTables : Prop :=
  ∀ (al : AlarmList) (c : AlarmCode) (sub : Subject) (now : Nat),
    (al.recs.map fun a => (a.code, a.subject)).Nodup →
    ((∀ a ∈ al.recs, ¬(a.code = c ∧ a.subject = sub)) →
      (al.recs.length < 48 → al.raise c sub now =
        { al with recs := al.recs ++ [⟨c, sub, now, .raisedUnack⟩] }) ∧
      (48 ≤ al.recs.length → al.raise c sub now = { al with overflow := true }) ∧
      al.clear c sub = al) ∧
    ∀ (before after : List Alarm) (t0 : Nat) (st : AlarmState),
      al.recs = before ++ ⟨c, sub, t0, st⟩ :: after →
      (st = .clearedUnack → al.raise c sub now =
          { al with recs := before ++ ⟨c, sub, now, .raisedUnack⟩ :: after } ∧
        al.clear c sub = al) ∧
      (st = .raisedUnack → al.raise c sub now = al ∧ al.clear c sub =
        { al with recs := before ++ ⟨c, sub, t0, .clearedUnack⟩ :: after }) ∧
      (st = .raisedAck → al.raise c sub now = al ∧ al.clear c sub =
        { recs := before ++ after, overflow := false })

/-- ACKNOWLEDGE of one record and of all records (R148 to R151). A line may acknowledge every record
from the console and the bridge, and those of the hatches it covers from a deck, where a line covers a
hatch while it is ACTIVE and the hatch lies in its resolved reach (R117). -/
def Obligations.AcknowledgeFollowsTheTables : Prop :=
  (∀ (s : State) (l : Nat) (sub : Subject) (ln : Line), s.line? l = some ln →
    (s.mayAck l sub = true ↔ ln.cls = .console ∨ ln.cls = .bridge ∨
      (ln.cls = .deck ∧ ln.link = .active ∧ ∃ h, sub = .hatch h ∧ 1 ≤ h ∧
        ln.reach.getLsbD (h - 1) = true))) ∧
  ∀ (s : State) (dt l : Nat) (seq : Byte), Served s l → s.mode ≠ .unconfigured →
    (∀ (b k n : Byte) (c : AlarmCode) (sub : Subject), recordArgs [b, k, n] = some (c, sub) →
      (s.mayAck l sub = false →
        exec (.acknowledgeOne dt l seq [b, k, n]) s =
          .next ((s.taken dt l).answer l seq kindAcknowledge (some .noReach) [b, k, n])) ∧
      (s.mayAck l sub = true → (∀ a ∈ s.alarms.recs, ¬(a.code = c ∧ a.subject = sub)) →
        exec (.acknowledgeOne dt l seq [b, k, n]) s =
          .next ((s.taken dt l).answer l seq kindAcknowledge (some .notRunning) [b, k, n])) ∧
      (s.mayAck l sub = true → AlarmsOk s →
        ∀ (before after : List Alarm) (t0 : Nat) (st : AlarmState),
          s.alarms.recs = before ++ ⟨c, sub, t0, st⟩ :: after →
          exec (.acknowledgeOne dt l seq [b, k, n]) s =
            .next (State.answer { s.taken dt l with
              alarms :=
                if st = .raisedAck then s.alarms
                else if st = .raisedUnack ∧ c ≠ .supplyDip then
                  { s.alarms with recs := before ++ ⟨c, sub, t0, .raisedAck⟩ :: after }
                else ⟨before ++ after, false⟩ } l seq kindAcknowledge (some .done)
              [b, k, n]))) ∧
    ∃ al : AlarmList,
      exec (.acknowledgeAll dt l seq []) s =
        .next (State.answer { s.taken dt l with alarms := al } l seq kindAcknowledge (some .done)
          [byte (s.alarms.recs.filter fun a =>
            s.mayAck l a.subject && a.st != .raisedAck).length]) ∧
      al.recs = s.alarms.recs.filterMap (fun a =>
        if s.mayAck l a.subject = false ∨ a.st = .raisedAck then some a
        else if a.st = .raisedUnack ∧ a.code ≠ .supplyDip then some { a with st := .raisedAck }
        else none) ∧
      al.overflow = (s.alarms.overflow && decide (al.recs.length = s.alarms.recs.length))

/-! ### Tables -/

/-- Every READ is answered DONE with the table, a next index, a count and as many whole records as fit in
the answer, and changes nothing but its line (R164); from the console with the clear flag (the value 1,
log 10), READ HATCH also sets the counters of the hatches it returned to 0 (R20). The records of every
table are written out (R169), with the values of the enumerated fields. That the tables POINT and CONFIG
begin at index 1 is the model's choice (DESIGN CHOICE, log 43), and so are the next index past the end
(log 19), bit 7 of an output binding (log 44), the bits at 0 that the spec does not name and the direction
bits at 0 of groups that the hatch does not have, the group 0 of a step without one (log 17), and times too
wide for their field, of which the low bits are sent (log 30). READ LINE is stated where the six line records
stand, as they always do; bytes whose content the spec does not state are free values (logs 16, 18). -/
def Obligations.ReadsAnswerDone : Prop :=
  (∀ (s u : State) (dt l : Nat) (seq hi lo clear : Byte) (first : Nat), Served s l →
    u = s.taken dt l → first = (hi ++ lo : Word).toNat →
    Reads s dt l seq (.readCleat dt l seq [hi, lo, clear]) 2 1 first []
      (u.hatches.flatMap fun hr => hr.cleats.map fun c => (hr.num, c)) CleatRow ∧
    Reads s dt l seq (.readOperation dt l seq [hi, lo, clear]) 3 1 first [] u.ops
      (fun _ => OperationRow u.now) ∧
    Reads s dt l seq (.readQueue dt l seq [hi, lo, clear]) 4 1 first []
      (u.queue.map Sum.inl ++ u.granted.map Sum.inr) (fun _ => QueueRow) ∧
    Reads s dt l seq (.readPump dt l seq [hi, lo, clear]) 5 0 first []
      (if u.inForce = none then [] else none :: u.pumps.map some) (fun _ => PumpRow u) ∧
    Reads s dt l seq (.readAlarm dt l seq [hi, lo, clear]) 6 1 first
      [byte u.alarms.recs.length, if u.alarms.overflow then 1 else 0] u.alarms.recs AlarmRow ∧
    Reads s dt l seq (.readNode dt l seq [hi, lo, clear]) 7 1 first [] u.nodes (fun _ => NodeRow) ∧
    Reads s dt l seq (.readPoint dt l seq [hi, lo, clear]) 8 1 first [] u.points
      (fun _ => PointRow u) ∧
    (u.lines.length = 6 → Reads s dt l seq (.readLine dt l seq [hi, lo, clear]) 9 1 first []
      (u.lines.map some ++ [none, none]) (LineRow u)) ∧
    Reads s dt l seq (.readConfig dt l seq [hi, lo, clear]) 10 1 first []
      (configRows.flatMap fun c => (List.range (c.2.2 + 1 - c.2.1)).map fun k => (c.1, c.2.1 + k))
      (fun _ => ConfigRow u) ∧
    Reads s dt l seq (.readReset dt l seq [hi, lo, clear]) 11 0 first [] [()]
      (fun _ _ r => r = resetRow u) ∧
    ∃ (v : State) (next count : Nat) (bytes : List Byte),
      exec (.readHatch dt l seq [hi, lo, clear]) s = .next (v.answer l seq kindRead (some .done)
        (1 :: (be16 next ++ [byte count] ++ bytes))) ∧
      Selected (u.hatches.map HatchRow) 1 first 42 next count bytes ∧ count ≤ 3 ∧
      v = { u with
        hatches :=
          if clear = 1 ∧ s.classOf l = .console then
            s.hatches.map fun hr =>
              if max first 1 ≤ hr.num ∧ hr.num < max first 1 + count then
                { hr with heavy := 0, completed := 0 }
              else hr
          else s.hatches }) ∧
  (∀ (hs : List Nat) (h : Nat), (∀ x ∈ hs, 1 ≤ x) → 1 ≤ h → h ≤ 16 →
    ((reachOf hs).getLsbD (h - 1) = true ↔ h ∈ hs)) ∧
  [PartMode.loading, .unconfigured, .sea, .harbour, .commission].map PartMode.code = [1, 2, 3, 4, 5] ∧
  [LineClass.none, .deck, .console, .bridge].map LineClass.code = [0, 1, 2, 3] ∧
  [Link.off, .down, .awaiting, .active].map Link.code = [0, 1, 2, 3] ∧
  [Position.unknown, .secured, .seated, .raisedClosed, .inTravel, .raisedOpen, .parkedOpen,
    .foldedOpen, .indeterminate].map Position.code = [0, 1, 2, 3, 4, 5, 6, 7, 8] ∧
  [OpState.idle, .queued, .moving, .paused, .faulted].map OpState.code = [0, 1, 2, 3, 4] ∧
  [OpKind.none, .opening, .closing, .release, .engage].map OpKind.code = [0, 1, 2, 3, 4] ∧
  [none, some Discipline.hold, some .auto].map Discipline.code = [0, 1, 2] ∧
  [none, some HaltReason.halted, some .holdLapsed, some .stall, some .attitude, some .noFlow,
    some .nodeLost, some .fault].map HaltReason.code = [0, 1, 2, 3, 4, 5, 6, 7] ∧
  [none, some FaultKind.timeout, some .jammed, some .pressureStuck, some .disagree].map
    FaultKind.code = [0, 1, 2, 3, 4] ∧
  [Travel.unknown, .closed, .opened, .folded, .mid, .conflict].map Travel.code =
    [0, 1, 2, 3, 4, 5] ∧
  [Lift.unknown, .lifted, .lowered, .mid, .conflict].map (Lift.code .roll) = [0, 1, 2, 3, 4] ∧
  [Direction.none, .release, .engage].map Direction.code = [0, 1, 2] ∧
  [CleatState.unknown, .engaged, .released, .between, .disagree].map CleatState.code =
    [0, 1, 2, 3, 4] ∧
  [Dwell.idle, .running 0, .complete].map Dwell.code = [0, 1, 2] ∧
  [PumpState.off, .starting, .running, .failed].map PumpState.code = [0, 1, 2, 3] ∧
  [Band.cold, .normal, .warm, .hot].map Band.code = [0, 1, 2, 3] ∧
  [NodeState.absent, .online, .lost].map NodeState.code = [0, 1, 2] ∧
  [Classifier.idle, .watching, .timing none, .stalled].map Classifier.code = [0, 1, 2, 3] ∧
  [AlarmState.raisedUnack, .raisedAck, .clearedUnack].map AlarmState.code = [1, 2, 3] ∧
  [Subject.hatch 1, .node 1, .pump 1, .powerPack, .attitude, .line 1, .part].map
    Subject.kindCode = [1, 2, 3, 4, 5, 6, 7] ∧
  [AlarmCode.hatchUnsecuredAtSea, .stall, .jammed, .pressureStuck, .timeout, .sensorDisagree,
    .sensorChatter, .nodeLost, .pumpFailed, .oilHot, .attitudeInvalid, .stationLost,
    .classMismatch, .estopActive, .configInvalid, .supplyDip].map AlarmCode.code =
    [1, 2, 3, 4, 5, 6, 7, 8, 9, 10, 11, 12, 13, 14, 15, 16] ∧
  [Result.done, .started, .badRequest, .badArg, .notReady, .class, .noReach, .held, .notHeld,
    .busy, .notRunning, .noHoldControl, .mode, .position, .attitude, .estop, .faulted, .notSecured,
    .notArmed, .lineActive, .notConfigured, .invalid].map Result.code =
    [1, 2, 3, 4, 5, 6, 7, 8, 9, 10, 11, 12, 13, 14, 15, 16, 17, 18, 19, 20, 21, 22] ∧
  (List.range' 1 21).map Role.ofCode = [some .cleatEngaged, some .cleatReleased,
    some .panelClosed, some .panelOpen, some .panelLifted, some .panelLowered, some .panelFolded,
    some .hatchPressure, some .pumpRunning, some .oilCold, some .oilWarm, some .oilHot,
    some .cleatReleaseValve, some .cleatEngageValve, some .liftValve, some .lowerValve,
    some .pumpRun, some .travelOpenValve, some .travelCloseValve, some .foldOpenValve,
    some .foldCloseValve] ∧
  ∀ r : Role, Role.ofCode r.code = some r

/-! ### Configuration -/

/-- WRITE, STORE and the completion of its write (R173, R174): the first check that fails gives the
answer; an item of the working configuration is replaced; a valid working configuration begins to
replace the stored image, its answer held, and the completion, a command of its own (DESIGN CHOICE, log
31), stores it and fills the held answers in with DONE; each line then changes by its transmitter's choice
alone (R162), the SEQ of a REPORT being a free value (log 16). An item and its value pass where the item
exists and the value lies in its range (R171), and a configuration is valid by the four checks of R172,
which `ItemRange` and `ValidItems` spell out (logs 22 and 41 for pumps and for the lift valves). -/
def Obligations.WriteAndStore : Prop :=
  (∀ (code idx : Nat) (v : Word), code < 256 → idx < 256 →
    (indexOk code idx = true ∧ valueOk code v = true ↔ ItemRange code idx v.toNat)) ∧
  (∀ c : Items, itemsWf c = true → (validConfig c = true ↔ ValidItems c)) ∧
  (∀ (s : State) (dt l : Nat) (seq item idx hi lo : Byte) (r : Result), Served s l →
    (if s.classOf l ≠ .console then some Result.class
      else if s.mode = .loading then some .notReady
      else if s.mode = .sea ∨ s.mode = .harbour then some .mode
      else if s.storing.isSome then some .busy
      else none) = some r →
    exec (.write dt l seq [item, idx, hi, lo]) s =
        .next ((s.taken dt l).answer l seq kindWrite (some r) [item, idx]) ∧
      exec (.store dt l seq []) s =
        .next ((s.taken dt l).answer l seq kindStore (some r) [])) ∧
  (∀ (s : State) (dt l : Nat) (seq item idx hi lo : Byte), Served s l → s.classOf l = .console →
    s.mode = .unconfigured ∨ s.mode = .commission → s.storing = none →
    (indexOk item.toNat idx.toNat = true → valueOk item.toNat (hi ++ lo) = true →
      ∃ u : State, exec (.write dt l seq [item, idx, hi, lo]) s =
          .next (u.answer l seq kindWrite (some .done) [item, idx]) ∧
        u = { s.taken dt l with working := u.working } ∧
        (itemsWf s.working = true → ∀ code k, k < 256 → getItem u.working code k =
          if code = item.toNat ∧ k = idx.toNat then hi ++ lo else getItem s.working code k)) ∧
    (indexOk item.toNat idx.toNat = false ∨ valueOk item.toNat (hi ++ lo) = false →
      exec (.write dt l seq [item, idx, hi, lo]) s =
        .next ((s.taken dt l).answer l seq kindWrite (some .badArg) [])) ∧
    (validConfig s.working = true →
      exec (.store dt l seq []) s =
        .next (State.answer { s.taken dt l with storing := some s.working, image := .bad } l seq
          kindStore none [])) ∧
    (validConfig s.working = false →
      exec (.store dt l seq []) s =
        .next ((s.taken dt l).answer l seq kindStore (some .invalid) []))) ∧
  ∀ (s : State) (dt : Nat) (c : Items), s.power = .running → s.storing = some c →
    ∃ t : State, exec (.storeWriteComplete dt) s = .next t ∧
      t = { s.advance dt with
        storing := none, image := .whole c, lines := t.lines, free := t.free } ∧
      (∀ ln ∈ t.lines, ∀ a ∈ ln.queue, a.result ≠ none) ∧
      ∀ (l : Nat) (ln : Line) (filled : List Answer), 1 ≤ l → l ≤ 6 → s.line? l = some ln →
        filled = ln.queue.map (fun a => { a with result := some (a.result.getD .done) }) →
        ∃ (m : Line) (q : Byte), t.line? l = some m ∧
          m = { ln with queue := m.queue, tx := m.tx, reportIsDue := m.reportIsDue } ∧
          (m.queue, m.tx, m.reportIsDue) =
            if ln.tx.isSome ∨ ¬(ln.link = .active ∨ ln.link = .awaiting) then
              (filled, ln.tx, ln.reportIsDue)
            else if ln.link = .active ∧ ln.reportIsDue = true then
              (filled, some ⟨kindReport, q, (s.advance dt).reportPayload⟩, false)
            else
              match filled with
              | [] => ([], none, ln.reportIsDue)
              | a :: rest => (rest, some (a.frame (a.result.getD .done)), ln.reportIsDue)

/-! ### Resets -/

/-- The resets (R175 to R178, R143). POWER_ON initialises the retained cell, EXTERNAL and SUPPLY keep
it but for COMMISSION and their count; every reset leaves the reset values, the straps are latched at
the release, ESTOP_IN active at the release sets the latch with ESTOP_ACTIVE, and the part is in LOADING
with its stored image not yet read (logs 26, 34, 47; that a later step reads it is log 4). Start-up reads
it, with the three outcomes of R178: every block built, or UNCONFIGURED with CONFIG_INVALID (what `Unbuilt`
and `BuiltFrom` take from logs 5 and 44 is the model's). At the end of the first scan after a valid load
the part is READY: the retained mode, HATCH_UNSECURED_AT_SEA for every hatch that is not SECURED in SEA
(R133), SUPPLY_DIP after a SUPPLY reset, in this order of the alarm records, which is the model's (DEDUCED,
log 40); the end of another turn or scan leaves the mode. In supply hold and in reset a command other than
the reset sources, the supply and the pins lets the running time pass and does nothing more (R176);
ESTOP_IN changes its pin there (DEDUCED, log 27). EXTERNAL in reset or in a hold, RESET_RELEASE while running
or in a hold change the pin alone, and SUPPLY outside a hold nothing (DEDUCED, log 26). The reset values are
those of R21, R41, R73, R101, R114, R129, R139, R154 and R167; that the first scan is due at the build is
log 24. -/
def Obligations.ResetsLeaveTheResetValues : Prop :=
  (∀ (s : State) (dt : Nat) (straps : Straps),
    (∃ u : State, AtReset u ∧ u.power = .running ∧ u.started = false ∧ u.straps = straps ∧
      u.image = s.image ∧ u.retained = ⟨.sea, .powerOn, 0, 0, 0⟩ ∧
      (s.estopIn = false → exec (.powerOn dt straps) s = .next u) ∧
      (s.estopIn = true → exec (.powerOn dt straps) s = .next { u with
        latch := true, alarms := ⟨[⟨.estopActive, .part, 0, .raisedUnack⟩], false⟩ })) ∧
    (s.power = .running →
      ∃ t : State, exec (.external dt) s = .next t ∧ AtReset t ∧ t.power = .inReset ∧
        t.resetIn = true ∧ t.straps = s.straps ∧ t.image = s.image ∧
        t.retained = ⟨if s.retained.mode = .commission then .harbour else s.retained.mode,
          .external, min (s.retained.externals + 1) 255, s.retained.supplies,
          s.retained.ranMs + dt⟩) ∧
    (s.power = .inReset →
      ∃ u : State, AtReset u ∧ u.power = .running ∧ u.started = false ∧ u.resetIn = false ∧
        u.straps = straps ∧ u.image = s.image ∧ u.retained = { s.retained with ranMs := s.retained.ranMs + dt } ∧
        (s.estopIn = false → exec (.resetRelease dt straps) s = .next u) ∧
        (s.estopIn = true → exec (.resetRelease dt straps) s = .next { u with
          latch := true
          alarms := ⟨[⟨.estopActive, .part, u.runningTime, .raisedUnack⟩], false⟩ })) ∧
    (∃ t : State, exec (.supplyHold dt) s = .next t ∧
      t = { s.advance dt with
        power := .supplyHold, storing := none, scan := t.scan, lines := t.lines, att := t.att } ∧
      t.scan = { (s.advance dt).scan with place := none, replied := false } ∧
      t.att = { s.att with rx := .hunting } ∧
      t.lines = s.lines.map fun ln => { ln with rx := .hunting, tx := none }) ∧
    (s.power = .inReset ∨ s.power = .supplyHold → exec (.external dt) s = .next { s with
      resetIn := true, retained := { s.retained with ranMs := s.retained.ranMs + dt } }) ∧
    (s.power = .running ∨ s.power = .supplyHold → exec (.resetRelease dt straps) s =
      .next { s.advance dt with resetIn := false }) ∧
    (s.power ≠ .supplyHold → exec (.supply dt straps) s = .next (s.advance dt)) ∧
    (s.power = .supplyHold →
      ∃ u : State, AtReset u ∧ u.power = .running ∧ u.started = false ∧ u.straps = straps ∧
        u.image = s.image ∧ u.retained = ⟨if s.retained.mode = .commission then .harbour else s.retained.mode,
          .supply, s.retained.externals, min (s.retained.supplies + 1) 255,
          s.retained.ranMs + dt⟩ ∧
        (s.estopIn = false → exec (.supply dt straps) s = .next u) ∧
        (s.estopIn = true → exec (.supply dt straps) s = .next { u with
          latch := true
          alarms := ⟨[⟨.estopActive, .part, u.runningTime, .raisedUnack⟩], false⟩ })) ∧
    (s.power ≠ .running →
      (∀ c : Instr, c.wellFormed = true → c.actsUnpowered = false → exec c s =
        .next { s with retained := { s.retained with ranMs := s.retained.ranMs + c.dt } }) ∧
      exec (.estopInActive dt) s = .next { s with
        estopIn := true, retained := { s.retained with ranMs := s.retained.ranMs + dt } } ∧
      exec (.estopInInactive dt) s = .next { s with
        estopIn := false, retained := { s.retained with ranMs := s.retained.ranMs + dt } })) ∧
  (∀ u : State,
    (∀ c, u.image = .whole c → validConfig c = true →
      BuiltFrom { u with started := true, working := c } c u.startUp) ∧
    (∀ c, u.image = .whole c → validConfig c = false →
      Unbuilt { u with started := true, working := c } u.startUp) ∧
    (u.image = .bad → Unbuilt { u with started := true, working := [] } u.startUp)) ∧
  ∀ (s : State) (k : Nat),
    (k + 1 < s.nodes.length → s.endTurn k = s) ∧
    (s.nodes.length ≤ k + 1 → s.mode ≠ .loading ∨ s.scan.firstOver = true →
      s.endTurn k = { s with
        scan := { s.scan with place := none, replied := false, firstOver := true } }) ∧
    ∀ al : AlarmList, s.nodes.length ≤ k + 1 → s.mode = .loading → s.scan.firstOver = false →
      al = (if s.retained.mode = .sea then
          (s.hatches.filter fun hr => hr.position ≠ .secured).foldl (fun x hr =>
            x.raise .hatchUnsecuredAtSea (.hatch hr.num) s.runningTime) s.alarms
        else s.alarms) →
      s.endTurn k = { s with
        scan := { s.scan with place := none, replied := false, firstOver := true }
        mode := match s.retained.mode with
          | .sea => .sea
          | .harbour => .harbour
          | .commission => .commission
        alarms := if s.retained.cause = .supply then al.raise .supplyDip .part s.runningTime
          else al }

/-! ### Invariants -/

/-- Every step keeps the bounds of the lists: the Alarm List, the transmit queues, the copies of the
configuration, the window, and at most one STARTING pump (R92, R104, R145, R161, R171). -/
def Obligations.StepKeepsTheBounds : Prop :=
  ∀ s t : State, AlarmsOk s ∧ QueuesOk s ∧ ConfigsOk s ∧ WindowOk s ∧ PumpsOk s →
    step s = .next t → AlarmsOk t ∧ QueuesOk t ∧ ConfigsOk t ∧ WindowOk t ∧ PumpsOk t

/-- Every step keeps the law of holders: a holder is an ACTIVE line, and when it is a deck line the
hatch lies in its resolved reach (R118). -/
def Obligations.StepKeepsTheHolders : Prop :=
  ∀ s t : State, HoldersOk s → step s = .next t → HoldersOk t

/-- Every step keeps one operation record for each hatch, an entry for each QUEUED one and a grant
for each MOVING one, never both and never two (R43, R79); the step queued or granted is the front step of
the program and of the class of its kind (R50, R51, R81), and no CLOSE-class program has a release step
(R46, R132). -/
def Obligations.StepKeepsTheMotions : Prop :=
  (∀ s t : State, MotionOk s → step s = .next t → MotionOk t) ∧
    ∀ s t : State, MotionOk s ∧ StepsOk s → step s = .next t → StepsOk t

/-- Every step keeps the sum of the granted demands within B, the speed of a proportional grant within
its demand, the pump idle timer stopped while anything is queued or granted, and the grant queue in queue
order: CLOSE-class first, then the older entry time, then the lower hatch (R79, R86, R88, R97). -/
def Obligations.StepKeepsTheFlow : Prop :=
  ∀ s t : State, MotionOk s ∧ FlowOk s → step s = .next t → FlowOk t

/-- Every step keeps the law of the emergency stop: while the latch is set nothing is queued or
granted and every valve output is at 0 (R53). Every step keeps the laws of the valves: a valve is energised
only while a granted step of its hatch drives it, two valves that drive one actuator in opposite directions
are never energised together (R53), and no output is bound twice (R31). They rest on the law of the point
map, which every step keeps too: no point is bound twice (R31), and no role twice for the same subject and
index (R172). -/
def Obligations.StepKeepsTheStop : Prop :=
  (∀ s t : State, MotionOk s ∧ StopOk s → step s = .next t → StopOk t) ∧
    (∀ s t : State, PointsOk s → step s = .next t → PointsOk t) ∧
    ∀ s t : State, MotionOk s ∧ StepsOk s ∧ PointsOk s ∧ ValvesOk s → step s = .next t → ValvesOk t

/-- Every step keeps the law of the sea: in SEA nothing under way is OPEN-class (R132), and outside SEA and
HARBOUR nothing is under way, since the modes change so (R65, R130, R137, R178). In SEA no cleat-release
valve is energised, before a step and after it (R132). -/
def Obligations.StepKeepsTheSea : Prop :=
  (∀ s t : State, MotionOk s ∧ SeaOk s → step s = .next t → SeaOk t) ∧
    ∀ s t : State, MotionOk s ∧ StepsOk s ∧ ValvesOk s ∧ SeaOk s → step s = .next t →
      SeaValvesOk s ∧ SeaValvesOk t

/-- Every invariant holds at reset. -/
def Obligations.InvariantsHoldAtReset : Prop :=
  AlarmsOk State.reset ∧ QueuesOk State.reset ∧ ConfigsOk State.reset ∧ WindowOk State.reset ∧
    PumpsOk State.reset ∧ HoldersOk State.reset ∧ MotionOk State.reset ∧ FlowOk State.reset ∧
    StopOk State.reset ∧ SeaOk State.reset ∧ StepsOk State.reset ∧ ValvesOk State.reset ∧
    SeaValvesOk State.reset ∧ PointsOk State.reset
end

