-- ==== Sys2Proof/Laws/Alarms.lean ====
section
/-! SUPPORT. What the operations on the Alarm List keep: the records stay within the 48, and no two
share a code and a subject (R145). -/

namespace Sys2Proof.Machine

/-- Code and subject of a record. -/
def Alarm.id (a : Alarm) : AlarmCode × Subject := (a.code, a.subject)

/-- The form of the Alarm List that R145 states. -/
def AlarmList.Ok (al : AlarmList) : Prop :=
  al.recs.length ≤ 48 ∧ (al.recs.map Alarm.id).Nodup

theorem alarmsOk_iff (s : State) : AlarmsOk s ↔ s.alarms.Ok := Iff.rfl

theorem isOf_iff (a : Alarm) (c : AlarmCode) (sub : Subject) :
    a.isOf c sub = true ↔ a.code = c ∧ a.subject = sub := by
  simp [Alarm.isOf]

theorem find_none_iff (al : AlarmList) (c : AlarmCode) (sub : Subject) :
    al.find c sub = none ↔ ∀ a ∈ al.recs, ¬(a.code = c ∧ a.subject = sub) := by
  simp [AlarmList.find, List.find?_eq_none, isOf_iff]

/-- The records that a filter leaves are in form. -/
theorem AlarmList.Ok.sublist {al bl : AlarmList} (h : al.Ok) (k : bl.recs.Sublist al.recs) :
    bl.Ok :=
  ⟨k.length_le.trans h.1, h.2.sublist (k.map Alarm.id)⟩

theorem ok_update {al : AlarmList} (h : al.Ok) (c : AlarmCode) (sub : Subject) (f : Alarm → Alarm)
    (hf : ∀ a, (f a).id = a.id) : (al.update c sub f).Ok := by
  have e : (al.update c sub f).recs.map Alarm.id = al.recs.map Alarm.id := by
    simp only [AlarmList.update, List.map_map]
    refine List.map_congr_left fun a _ => ?_
    by_cases ha : a.isOf c sub <;> simp [ha, hf]
  exact ⟨by simpa [AlarmList.update] using h.1, e ▸ h.2⟩

theorem ok_remove {al : AlarmList} (h : al.Ok) (c : AlarmCode) (sub : Subject) :
    (al.remove c sub).Ok :=
  h.sublist List.filter_sublist

theorem ok_raise {al : AlarmList} (h : al.Ok) (c : AlarmCode) (sub : Subject) (now : Nat) :
    (al.raise c sub now).Ok := by
  unfold AlarmList.raise
  split
  · rename_i hn
    split
    · rename_i hl
      refine ⟨by simpa using hl, ?_⟩
      rw [List.map_append, List.nodup_append]
      refine ⟨h.2, by simp, ?_⟩
      rintro x hx y hy rfl
      obtain ⟨a, ha, rfl⟩ := List.mem_map.mp hx
      simp only [List.map_cons, List.map_nil, List.mem_singleton] at hy
      simp only [Alarm.id, Prod.mk.injEq] at hy
      exact (find_none_iff al c sub).mp hn a ha hy
    · exact h
  · split
    · exact ok_update h c sub _ fun _ => rfl
    · exact h
    · exact h

theorem ok_clear {al : AlarmList} (h : al.Ok) (c : AlarmCode) (sub : Subject) :
    (al.clear c sub).Ok := by
  unfold AlarmList.clear
  split
  · exact h
  · split
    · exact ok_update h c sub _ fun _ => rfl
    · exact ok_remove h c sub
    · exact h

theorem ok_clearAll {al : AlarmList} (h : al.Ok) (c : AlarmCode) : (al.clearAll c).Ok := by
  unfold AlarmList.clearAll
  generalize al.recs.filter _ = l
  induction l generalizing al with
  | nil => exact h
  | cons a l ih => exact ih (ok_clear h c a.subject)

/-- What stands in place of an acknowledged record has its code and subject. -/
theorem acked_id {a b : Alarm} (h : a.acked = some b) : b.id = a.id := by
  unfold Alarm.acked at h
  split at h
  · split at h
    · cases h
    · cases h; rfl
  · cases h
  · cases h; rfl

theorem ok_ack {al : AlarmList} (h : al.Ok) (may : Alarm → Bool) : (al.ack may).Ok := by
  refine ⟨(List.length_filterMap_le ..).trans h.1, ?_⟩
  refine h.2.sublist ?_
  unfold AlarmList.ack
  dsimp only
  generalize al.recs = l
  induction l with
  | nil => exact .slnil
  | cons a l ih =>
    rw [List.filterMap_cons]
    split
    · exact ih.cons _
    · rename_i b hb
      have e : b.id = a.id := by
        split at hb
        · exact acked_id hb
        · cases hb; rfl
      rw [List.map_cons, List.map_cons, e]
      exact ih.cons_cons _

/-! ### The state's operations -/

theorem alarmsOk_raiseAlarm {s : State} (h : AlarmsOk s) (c : AlarmCode) (sub : Subject) :
    AlarmsOk (s.raiseAlarm c sub) :=
  ok_raise h c sub s.runningTime

theorem alarmsOk_clearAlarm {s : State} (h : AlarmsOk s) (c : AlarmCode) (sub : Subject) :
    AlarmsOk (s.clearAlarm c sub) :=
  ok_clear h c sub

theorem alarmsOk_setAlarm {s : State} (h : AlarmsOk s) (b : Bool) (c : AlarmCode) (sub : Subject) :
    AlarmsOk (s.setAlarm b c sub) := by
  cases b
  · exact alarmsOk_clearAlarm h c sub
  · exact alarmsOk_raiseAlarm h c sub

theorem alarmsOk_clearAlarms {s : State} (h : AlarmsOk s) (cs : List AlarmCode) :
    AlarmsOk (s.clearAlarms cs) := by
  show (cs.foldl AlarmList.clearAll s.alarms).Ok
  have h' : s.alarms.Ok := h
  generalize s.alarms = al at h'
  induction cs generalizing al with
  | nil => exact h'
  | cons c cs ih => exact ih _ (ok_clearAll h' c)

end Sys2Proof.Machine
end

