-- ==== Sys2Proof/Laws/State.lean ====
section
/-! SUPPORT. What each elementary update of the state leaves in each field: one lemma for each field,
so that no proof unfolds a record update. -/

namespace Sys2Proof.Machine

/-! ### advance -/

@[simp] theorem advance_pending (s : State) (dt : Nat) : (s.advance dt).pending = s.pending := rfl

@[simp] theorem advance_power (s : State) (dt : Nat) : (s.advance dt).power = s.power := rfl

@[simp] theorem advance_estopIn (s : State) (dt : Nat) : (s.advance dt).estopIn = s.estopIn := rfl

@[simp] theorem advance_resetIn (s : State) (dt : Nat) : (s.advance dt).resetIn = s.resetIn := rfl

@[simp] theorem advance_straps (s : State) (dt : Nat) : (s.advance dt).straps = s.straps := rfl

@[simp] theorem advance_started (s : State) (dt : Nat) : (s.advance dt).started = s.started := rfl

@[simp] theorem advance_working (s : State) (dt : Nat) : (s.advance dt).working = s.working := rfl

@[simp] theorem advance_inForce (s : State) (dt : Nat) : (s.advance dt).inForce = s.inForce := rfl

@[simp] theorem advance_image (s : State) (dt : Nat) : (s.advance dt).image = s.image := rfl

@[simp] theorem advance_storing (s : State) (dt : Nat) : (s.advance dt).storing = s.storing := rfl

@[simp] theorem advance_mode (s : State) (dt : Nat) : (s.advance dt).mode = s.mode := rfl

@[simp] theorem advance_arm (s : State) (dt : Nat) : (s.advance dt).arm = s.arm := rfl

@[simp] theorem advance_latch (s : State) (dt : Nat) : (s.advance dt).latch = s.latch := rfl

/-- While no turn waits for its slot, time leaves the scan as it is. -/
theorem advance_scan {s : State} (h : s.scan.place = none ∨ s.scan.replied = false) (dt : Nat) :
    (s.advance dt).scan = s.scan := by
  have e : ∀ t, s.scanAt t = s.scan := by
    intro t
    unfold State.scanAt
    rcases h with h | h
    · rw [h]
    · split
      · rfl
      · split
        · rfl
        · simp [h]
  simp [State.advance, e]

@[simp] theorem advance_nodes (s : State) (dt : Nat) : (s.advance dt).nodes = s.nodes := rfl

@[simp] theorem advance_points (s : State) (dt : Nat) : (s.advance dt).points = s.points := rfl

@[simp] theorem advance_hatches (s : State) (dt : Nat) : (s.advance dt).hatches = s.hatches := rfl

@[simp] theorem advance_ops (s : State) (dt : Nat) : (s.advance dt).ops = s.ops := rfl

@[simp] theorem advance_claims (s : State) (dt : Nat) : (s.advance dt).claims = s.claims := rfl

@[simp] theorem advance_queue (s : State) (dt : Nat) : (s.advance dt).queue = s.queue := rfl

@[simp] theorem advance_granted (s : State) (dt : Nat) : (s.advance dt).granted = s.granted := rfl

@[simp] theorem advance_pumps (s : State) (dt : Nat) : (s.advance dt).pumps = s.pumps := rfl

@[simp] theorem advance_band (s : State) (dt : Nat) : (s.advance dt).band = s.band := rfl

@[simp] theorem advance_budget (s : State) (dt : Nat) : (s.advance dt).budget = s.budget := rfl

@[simp] theorem advance_maxB (s : State) (dt : Nat) : (s.advance dt).maxB = s.maxB := rfl

@[simp] theorem advance_pumpIdle (s : State) (dt : Nat) :
    (s.advance dt).pumpIdle = s.pumpIdle := rfl

@[simp] theorem advance_att (s : State) (dt : Nat) : (s.advance dt).att = s.att := rfl

@[simp] theorem advance_alarms (s : State) (dt : Nat) : (s.advance dt).alarms = s.alarms := rfl

@[simp] theorem advance_lines (s : State) (dt : Nat) : (s.advance dt).lines = s.lines := rfl

@[simp] theorem advance_free (s : State) (dt : Nat) : (s.advance dt).free = s.free := rfl

/-! ### updHatch -/

@[simp] theorem updHatch_pending (s : State) (h : Nat) (f : Hatch → Hatch) :
    (s.updHatch h f).pending = s.pending := rfl

@[simp] theorem updHatch_now (s : State) (h : Nat) (f : Hatch → Hatch) :
    (s.updHatch h f).now = s.now := rfl

@[simp] theorem updHatch_power (s : State) (h : Nat) (f : Hatch → Hatch) :
    (s.updHatch h f).power = s.power := rfl

@[simp] theorem updHatch_estopIn (s : State) (h : Nat) (f : Hatch → Hatch) :
    (s.updHatch h f).estopIn = s.estopIn := rfl

@[simp] theorem updHatch_resetIn (s : State) (h : Nat) (f : Hatch → Hatch) :
    (s.updHatch h f).resetIn = s.resetIn := rfl

@[simp] theorem updHatch_straps (s : State) (h : Nat) (f : Hatch → Hatch) :
    (s.updHatch h f).straps = s.straps := rfl

@[simp] theorem updHatch_started (s : State) (h : Nat) (f : Hatch → Hatch) :
    (s.updHatch h f).started = s.started := rfl

@[simp] theorem updHatch_retained (s : State) (h : Nat) (f : Hatch → Hatch) :
    (s.updHatch h f).retained = s.retained := rfl

@[simp] theorem updHatch_working (s : State) (h : Nat) (f : Hatch → Hatch) :
    (s.updHatch h f).working = s.working := rfl

@[simp] theorem updHatch_inForce (s : State) (h : Nat) (f : Hatch → Hatch) :
    (s.updHatch h f).inForce = s.inForce := rfl

@[simp] theorem updHatch_image (s : State) (h : Nat) (f : Hatch → Hatch) :
    (s.updHatch h f).image = s.image := rfl

@[simp] theorem updHatch_storing (s : State) (h : Nat) (f : Hatch → Hatch) :
    (s.updHatch h f).storing = s.storing := rfl

@[simp] theorem updHatch_mode (s : State) (h : Nat) (f : Hatch → Hatch) :
    (s.updHatch h f).mode = s.mode := rfl

@[simp] theorem updHatch_arm (s : State) (h : Nat) (f : Hatch → Hatch) :
    (s.updHatch h f).arm = s.arm := rfl

@[simp] theorem updHatch_latch (s : State) (h : Nat) (f : Hatch → Hatch) :
    (s.updHatch h f).latch = s.latch := rfl

@[simp] theorem updHatch_scan (s : State) (h : Nat) (f : Hatch → Hatch) :
    (s.updHatch h f).scan = s.scan := rfl

@[simp] theorem updHatch_nodes (s : State) (h : Nat) (f : Hatch → Hatch) :
    (s.updHatch h f).nodes = s.nodes := rfl

@[simp] theorem updHatch_points (s : State) (h : Nat) (f : Hatch → Hatch) :
    (s.updHatch h f).points = s.points := rfl

@[simp] theorem updHatch_hatches (s : State) (h : Nat) (f : Hatch → Hatch) :
    (s.updHatch h f).hatches = updateKey Hatch.num h f s.hatches := rfl

@[simp] theorem updHatch_ops (s : State) (h : Nat) (f : Hatch → Hatch) :
    (s.updHatch h f).ops = s.ops := rfl

@[simp] theorem updHatch_claims (s : State) (h : Nat) (f : Hatch → Hatch) :
    (s.updHatch h f).claims = s.claims := rfl

@[simp] theorem updHatch_queue (s : State) (h : Nat) (f : Hatch → Hatch) :
    (s.updHatch h f).queue = s.queue := rfl

@[simp] theorem updHatch_granted (s : State) (h : Nat) (f : Hatch → Hatch) :
    (s.updHatch h f).granted = s.granted := rfl

@[simp] theorem updHatch_pumps (s : State) (h : Nat) (f : Hatch → Hatch) :
    (s.updHatch h f).pumps = s.pumps := rfl

@[simp] theorem updHatch_band (s : State) (h : Nat) (f : Hatch → Hatch) :
    (s.updHatch h f).band = s.band := rfl

@[simp] theorem updHatch_budget (s : State) (h : Nat) (f : Hatch → Hatch) :
    (s.updHatch h f).budget = s.budget := rfl

@[simp] theorem updHatch_maxB (s : State) (h : Nat) (f : Hatch → Hatch) :
    (s.updHatch h f).maxB = s.maxB := rfl

@[simp] theorem updHatch_pumpIdle (s : State) (h : Nat) (f : Hatch → Hatch) :
    (s.updHatch h f).pumpIdle = s.pumpIdle := rfl

@[simp] theorem updHatch_att (s : State) (h : Nat) (f : Hatch → Hatch) :
    (s.updHatch h f).att = s.att := rfl

@[simp] theorem updHatch_alarms (s : State) (h : Nat) (f : Hatch → Hatch) :
    (s.updHatch h f).alarms = s.alarms := rfl

@[simp] theorem updHatch_lines (s : State) (h : Nat) (f : Hatch → Hatch) :
    (s.updHatch h f).lines = s.lines := rfl

@[simp] theorem updHatch_free (s : State) (h : Nat) (f : Hatch → Hatch) :
    (s.updHatch h f).free = s.free := rfl

/-! ### updOp -/

@[simp] theorem updOp_pending (s : State) (h : Nat) (f : Op → Op) :
    (s.updOp h f).pending = s.pending := rfl

@[simp] theorem updOp_now (s : State) (h : Nat) (f : Op → Op) : (s.updOp h f).now = s.now := rfl

@[simp] theorem updOp_power (s : State) (h : Nat) (f : Op → Op) :
    (s.updOp h f).power = s.power := rfl

@[simp] theorem updOp_estopIn (s : State) (h : Nat) (f : Op → Op) :
    (s.updOp h f).estopIn = s.estopIn := rfl

@[simp] theorem updOp_resetIn (s : State) (h : Nat) (f : Op → Op) :
    (s.updOp h f).resetIn = s.resetIn := rfl

@[simp] theorem updOp_straps (s : State) (h : Nat) (f : Op → Op) :
    (s.updOp h f).straps = s.straps := rfl

@[simp] theorem updOp_started (s : State) (h : Nat) (f : Op → Op) :
    (s.updOp h f).started = s.started := rfl

@[simp] theorem updOp_retained (s : State) (h : Nat) (f : Op → Op) :
    (s.updOp h f).retained = s.retained := rfl

@[simp] theorem updOp_working (s : State) (h : Nat) (f : Op → Op) :
    (s.updOp h f).working = s.working := rfl

@[simp] theorem updOp_inForce (s : State) (h : Nat) (f : Op → Op) :
    (s.updOp h f).inForce = s.inForce := rfl

@[simp] theorem updOp_image (s : State) (h : Nat) (f : Op → Op) :
    (s.updOp h f).image = s.image := rfl

@[simp] theorem updOp_storing (s : State) (h : Nat) (f : Op → Op) :
    (s.updOp h f).storing = s.storing := rfl

@[simp] theorem updOp_mode (s : State) (h : Nat) (f : Op → Op) : (s.updOp h f).mode = s.mode := rfl

@[simp] theorem updOp_arm (s : State) (h : Nat) (f : Op → Op) : (s.updOp h f).arm = s.arm := rfl

@[simp] theorem updOp_latch (s : State) (h : Nat) (f : Op → Op) :
    (s.updOp h f).latch = s.latch := rfl

@[simp] theorem updOp_scan (s : State) (h : Nat) (f : Op → Op) : (s.updOp h f).scan = s.scan := rfl

@[simp] theorem updOp_nodes (s : State) (h : Nat) (f : Op → Op) :
    (s.updOp h f).nodes = s.nodes := rfl

@[simp] theorem updOp_points (s : State) (h : Nat) (f : Op → Op) :
    (s.updOp h f).points = s.points := rfl

@[simp] theorem updOp_hatches (s : State) (h : Nat) (f : Op → Op) :
    (s.updOp h f).hatches = s.hatches := rfl

@[simp] theorem updOp_ops (s : State) (h : Nat) (f : Op → Op) :
    (s.updOp h f).ops = updateKey Op.hatch h f s.ops := rfl

@[simp] theorem updOp_claims (s : State) (h : Nat) (f : Op → Op) :
    (s.updOp h f).claims = s.claims := rfl

@[simp] theorem updOp_queue (s : State) (h : Nat) (f : Op → Op) :
    (s.updOp h f).queue = s.queue := rfl

@[simp] theorem updOp_granted (s : State) (h : Nat) (f : Op → Op) :
    (s.updOp h f).granted = s.granted := rfl

@[simp] theorem updOp_pumps (s : State) (h : Nat) (f : Op → Op) :
    (s.updOp h f).pumps = s.pumps := rfl

@[simp] theorem updOp_band (s : State) (h : Nat) (f : Op → Op) : (s.updOp h f).band = s.band := rfl

@[simp] theorem updOp_budget (s : State) (h : Nat) (f : Op → Op) :
    (s.updOp h f).budget = s.budget := rfl

@[simp] theorem updOp_maxB (s : State) (h : Nat) (f : Op → Op) : (s.updOp h f).maxB = s.maxB := rfl

@[simp] theorem updOp_pumpIdle (s : State) (h : Nat) (f : Op → Op) :
    (s.updOp h f).pumpIdle = s.pumpIdle := rfl

@[simp] theorem updOp_att (s : State) (h : Nat) (f : Op → Op) : (s.updOp h f).att = s.att := rfl

@[simp] theorem updOp_alarms (s : State) (h : Nat) (f : Op → Op) :
    (s.updOp h f).alarms = s.alarms := rfl

@[simp] theorem updOp_lines (s : State) (h : Nat) (f : Op → Op) :
    (s.updOp h f).lines = s.lines := rfl

@[simp] theorem updOp_free (s : State) (h : Nat) (f : Op → Op) : (s.updOp h f).free = s.free := rfl

/-! ### updClaim -/

@[simp] theorem updClaim_pending (s : State) (h : Nat) (f : Claim → Claim) :
    (s.updClaim h f).pending = s.pending := rfl

@[simp] theorem updClaim_now (s : State) (h : Nat) (f : Claim → Claim) :
    (s.updClaim h f).now = s.now := rfl

@[simp] theorem updClaim_power (s : State) (h : Nat) (f : Claim → Claim) :
    (s.updClaim h f).power = s.power := rfl

@[simp] theorem updClaim_estopIn (s : State) (h : Nat) (f : Claim → Claim) :
    (s.updClaim h f).estopIn = s.estopIn := rfl

@[simp] theorem updClaim_resetIn (s : State) (h : Nat) (f : Claim → Claim) :
    (s.updClaim h f).resetIn = s.resetIn := rfl

@[simp] theorem updClaim_straps (s : State) (h : Nat) (f : Claim → Claim) :
    (s.updClaim h f).straps = s.straps := rfl

@[simp] theorem updClaim_started (s : State) (h : Nat) (f : Claim → Claim) :
    (s.updClaim h f).started = s.started := rfl

@[simp] theorem updClaim_retained (s : State) (h : Nat) (f : Claim → Claim) :
    (s.updClaim h f).retained = s.retained := rfl

@[simp] theorem updClaim_working (s : State) (h : Nat) (f : Claim → Claim) :
    (s.updClaim h f).working = s.working := rfl

@[simp] theorem updClaim_inForce (s : State) (h : Nat) (f : Claim → Claim) :
    (s.updClaim h f).inForce = s.inForce := rfl

@[simp] theorem updClaim_image (s : State) (h : Nat) (f : Claim → Claim) :
    (s.updClaim h f).image = s.image := rfl

@[simp] theorem updClaim_storing (s : State) (h : Nat) (f : Claim → Claim) :
    (s.updClaim h f).storing = s.storing := rfl

@[simp] theorem updClaim_mode (s : State) (h : Nat) (f : Claim → Claim) :
    (s.updClaim h f).mode = s.mode := rfl

@[simp] theorem updClaim_arm (s : State) (h : Nat) (f : Claim → Claim) :
    (s.updClaim h f).arm = s.arm := rfl

@[simp] theorem updClaim_latch (s : State) (h : Nat) (f : Claim → Claim) :
    (s.updClaim h f).latch = s.latch := rfl

@[simp] theorem updClaim_scan (s : State) (h : Nat) (f : Claim → Claim) :
    (s.updClaim h f).scan = s.scan := rfl

@[simp] theorem updClaim_nodes (s : State) (h : Nat) (f : Claim → Claim) :
    (s.updClaim h f).nodes = s.nodes := rfl

@[simp] theorem updClaim_points (s : State) (h : Nat) (f : Claim → Claim) :
    (s.updClaim h f).points = s.points := rfl

@[simp] theorem updClaim_hatches (s : State) (h : Nat) (f : Claim → Claim) :
    (s.updClaim h f).hatches = s.hatches := rfl

@[simp] theorem updClaim_ops (s : State) (h : Nat) (f : Claim → Claim) :
    (s.updClaim h f).ops = s.ops := rfl

@[simp] theorem updClaim_claims (s : State) (h : Nat) (f : Claim → Claim) :
    (s.updClaim h f).claims = updateKey Claim.hatch h f s.claims := rfl

@[simp] theorem updClaim_queue (s : State) (h : Nat) (f : Claim → Claim) :
    (s.updClaim h f).queue = s.queue := rfl

@[simp] theorem updClaim_granted (s : State) (h : Nat) (f : Claim → Claim) :
    (s.updClaim h f).granted = s.granted := rfl

@[simp] theorem updClaim_pumps (s : State) (h : Nat) (f : Claim → Claim) :
    (s.updClaim h f).pumps = s.pumps := rfl

@[simp] theorem updClaim_band (s : State) (h : Nat) (f : Claim → Claim) :
    (s.updClaim h f).band = s.band := rfl

@[simp] theorem updClaim_budget (s : State) (h : Nat) (f : Claim → Claim) :
    (s.updClaim h f).budget = s.budget := rfl

@[simp] theorem updClaim_maxB (s : State) (h : Nat) (f : Claim → Claim) :
    (s.updClaim h f).maxB = s.maxB := rfl

@[simp] theorem updClaim_pumpIdle (s : State) (h : Nat) (f : Claim → Claim) :
    (s.updClaim h f).pumpIdle = s.pumpIdle := rfl

@[simp] theorem updClaim_att (s : State) (h : Nat) (f : Claim → Claim) :
    (s.updClaim h f).att = s.att := rfl

@[simp] theorem updClaim_alarms (s : State) (h : Nat) (f : Claim → Claim) :
    (s.updClaim h f).alarms = s.alarms := rfl

@[simp] theorem updClaim_lines (s : State) (h : Nat) (f : Claim → Claim) :
    (s.updClaim h f).lines = s.lines := rfl

@[simp] theorem updClaim_free (s : State) (h : Nat) (f : Claim → Claim) :
    (s.updClaim h f).free = s.free := rfl

/-! ### updLine -/

@[simp] theorem updLine_pending (s : State) (l : Nat) (f : Line → Line) :
    (s.updLine l f).pending = s.pending := rfl

@[simp] theorem updLine_now (s : State) (l : Nat) (f : Line → Line) :
    (s.updLine l f).now = s.now := rfl

@[simp] theorem updLine_power (s : State) (l : Nat) (f : Line → Line) :
    (s.updLine l f).power = s.power := rfl

@[simp] theorem updLine_estopIn (s : State) (l : Nat) (f : Line → Line) :
    (s.updLine l f).estopIn = s.estopIn := rfl

@[simp] theorem updLine_resetIn (s : State) (l : Nat) (f : Line → Line) :
    (s.updLine l f).resetIn = s.resetIn := rfl

@[simp] theorem updLine_straps (s : State) (l : Nat) (f : Line → Line) :
    (s.updLine l f).straps = s.straps := rfl

@[simp] theorem updLine_started (s : State) (l : Nat) (f : Line → Line) :
    (s.updLine l f).started = s.started := rfl

@[simp] theorem updLine_retained (s : State) (l : Nat) (f : Line → Line) :
    (s.updLine l f).retained = s.retained := rfl

@[simp] theorem updLine_working (s : State) (l : Nat) (f : Line → Line) :
    (s.updLine l f).working = s.working := rfl

@[simp] theorem updLine_inForce (s : State) (l : Nat) (f : Line → Line) :
    (s.updLine l f).inForce = s.inForce := rfl

@[simp] theorem updLine_image (s : State) (l : Nat) (f : Line → Line) :
    (s.updLine l f).image = s.image := rfl

@[simp] theorem updLine_storing (s : State) (l : Nat) (f : Line → Line) :
    (s.updLine l f).storing = s.storing := rfl

@[simp] theorem updLine_mode (s : State) (l : Nat) (f : Line → Line) :
    (s.updLine l f).mode = s.mode := rfl

@[simp] theorem updLine_arm (s : State) (l : Nat) (f : Line → Line) :
    (s.updLine l f).arm = s.arm := rfl

@[simp] theorem updLine_latch (s : State) (l : Nat) (f : Line → Line) :
    (s.updLine l f).latch = s.latch := rfl

@[simp] theorem updLine_scan (s : State) (l : Nat) (f : Line → Line) :
    (s.updLine l f).scan = s.scan := rfl

@[simp] theorem updLine_nodes (s : State) (l : Nat) (f : Line → Line) :
    (s.updLine l f).nodes = s.nodes := rfl

@[simp] theorem updLine_points (s : State) (l : Nat) (f : Line → Line) :
    (s.updLine l f).points = s.points := rfl

@[simp] theorem updLine_hatches (s : State) (l : Nat) (f : Line → Line) :
    (s.updLine l f).hatches = s.hatches := rfl

@[simp] theorem updLine_ops (s : State) (l : Nat) (f : Line → Line) :
    (s.updLine l f).ops = s.ops := rfl

@[simp] theorem updLine_claims (s : State) (l : Nat) (f : Line → Line) :
    (s.updLine l f).claims = s.claims := rfl

@[simp] theorem updLine_queue (s : State) (l : Nat) (f : Line → Line) :
    (s.updLine l f).queue = s.queue := rfl

@[simp] theorem updLine_granted (s : State) (l : Nat) (f : Line → Line) :
    (s.updLine l f).granted = s.granted := rfl

@[simp] theorem updLine_pumps (s : State) (l : Nat) (f : Line → Line) :
    (s.updLine l f).pumps = s.pumps := rfl

@[simp] theorem updLine_band (s : State) (l : Nat) (f : Line → Line) :
    (s.updLine l f).band = s.band := rfl

@[simp] theorem updLine_budget (s : State) (l : Nat) (f : Line → Line) :
    (s.updLine l f).budget = s.budget := rfl

@[simp] theorem updLine_maxB (s : State) (l : Nat) (f : Line → Line) :
    (s.updLine l f).maxB = s.maxB := rfl

@[simp] theorem updLine_pumpIdle (s : State) (l : Nat) (f : Line → Line) :
    (s.updLine l f).pumpIdle = s.pumpIdle := rfl

@[simp] theorem updLine_att (s : State) (l : Nat) (f : Line → Line) :
    (s.updLine l f).att = s.att := rfl

@[simp] theorem updLine_alarms (s : State) (l : Nat) (f : Line → Line) :
    (s.updLine l f).alarms = s.alarms := rfl

@[simp] theorem updLine_lines (s : State) (l : Nat) (f : Line → Line) :
    (s.updLine l f).lines = updateKey Line.num l f s.lines := rfl

@[simp] theorem updLine_free (s : State) (l : Nat) (f : Line → Line) :
    (s.updLine l f).free = s.free := rfl

/-! ### updNode -/

@[simp] theorem updNode_pending (s : State) (a : Nat) (f : Node → Node) :
    (s.updNode a f).pending = s.pending := rfl

@[simp] theorem updNode_now (s : State) (a : Nat) (f : Node → Node) :
    (s.updNode a f).now = s.now := rfl

@[simp] theorem updNode_power (s : State) (a : Nat) (f : Node → Node) :
    (s.updNode a f).power = s.power := rfl

@[simp] theorem updNode_estopIn (s : State) (a : Nat) (f : Node → Node) :
    (s.updNode a f).estopIn = s.estopIn := rfl

@[simp] theorem updNode_resetIn (s : State) (a : Nat) (f : Node → Node) :
    (s.updNode a f).resetIn = s.resetIn := rfl

@[simp] theorem updNode_straps (s : State) (a : Nat) (f : Node → Node) :
    (s.updNode a f).straps = s.straps := rfl

@[simp] theorem updNode_started (s : State) (a : Nat) (f : Node → Node) :
    (s.updNode a f).started = s.started := rfl

@[simp] theorem updNode_retained (s : State) (a : Nat) (f : Node → Node) :
    (s.updNode a f).retained = s.retained := rfl

@[simp] theorem updNode_working (s : State) (a : Nat) (f : Node → Node) :
    (s.updNode a f).working = s.working := rfl

@[simp] theorem updNode_inForce (s : State) (a : Nat) (f : Node → Node) :
    (s.updNode a f).inForce = s.inForce := rfl

@[simp] theorem updNode_image (s : State) (a : Nat) (f : Node → Node) :
    (s.updNode a f).image = s.image := rfl

@[simp] theorem updNode_storing (s : State) (a : Nat) (f : Node → Node) :
    (s.updNode a f).storing = s.storing := rfl

@[simp] theorem updNode_mode (s : State) (a : Nat) (f : Node → Node) :
    (s.updNode a f).mode = s.mode := rfl

@[simp] theorem updNode_arm (s : State) (a : Nat) (f : Node → Node) :
    (s.updNode a f).arm = s.arm := rfl

@[simp] theorem updNode_latch (s : State) (a : Nat) (f : Node → Node) :
    (s.updNode a f).latch = s.latch := rfl

@[simp] theorem updNode_scan (s : State) (a : Nat) (f : Node → Node) :
    (s.updNode a f).scan = s.scan := rfl

@[simp] theorem updNode_nodes (s : State) (a : Nat) (f : Node → Node) :
    (s.updNode a f).nodes = updateKey Node.addr a f s.nodes := rfl

@[simp] theorem updNode_points (s : State) (a : Nat) (f : Node → Node) :
    (s.updNode a f).points = s.points := rfl

@[simp] theorem updNode_hatches (s : State) (a : Nat) (f : Node → Node) :
    (s.updNode a f).hatches = s.hatches := rfl

@[simp] theorem updNode_ops (s : State) (a : Nat) (f : Node → Node) :
    (s.updNode a f).ops = s.ops := rfl

@[simp] theorem updNode_claims (s : State) (a : Nat) (f : Node → Node) :
    (s.updNode a f).claims = s.claims := rfl

@[simp] theorem updNode_queue (s : State) (a : Nat) (f : Node → Node) :
    (s.updNode a f).queue = s.queue := rfl

@[simp] theorem updNode_granted (s : State) (a : Nat) (f : Node → Node) :
    (s.updNode a f).granted = s.granted := rfl

@[simp] theorem updNode_pumps (s : State) (a : Nat) (f : Node → Node) :
    (s.updNode a f).pumps = s.pumps := rfl

@[simp] theorem updNode_band (s : State) (a : Nat) (f : Node → Node) :
    (s.updNode a f).band = s.band := rfl

@[simp] theorem updNode_budget (s : State) (a : Nat) (f : Node → Node) :
    (s.updNode a f).budget = s.budget := rfl

@[simp] theorem updNode_maxB (s : State) (a : Nat) (f : Node → Node) :
    (s.updNode a f).maxB = s.maxB := rfl

@[simp] theorem updNode_pumpIdle (s : State) (a : Nat) (f : Node → Node) :
    (s.updNode a f).pumpIdle = s.pumpIdle := rfl

@[simp] theorem updNode_att (s : State) (a : Nat) (f : Node → Node) :
    (s.updNode a f).att = s.att := rfl

@[simp] theorem updNode_alarms (s : State) (a : Nat) (f : Node → Node) :
    (s.updNode a f).alarms = s.alarms := rfl

@[simp] theorem updNode_lines (s : State) (a : Nat) (f : Node → Node) :
    (s.updNode a f).lines = s.lines := rfl

@[simp] theorem updNode_free (s : State) (a : Nat) (f : Node → Node) :
    (s.updNode a f).free = s.free := rfl

/-! ### updPump -/

@[simp] theorem updPump_pending (s : State) (n : Nat) (f : Pump → Pump) :
    (s.updPump n f).pending = s.pending := rfl

@[simp] theorem updPump_now (s : State) (n : Nat) (f : Pump → Pump) :
    (s.updPump n f).now = s.now := rfl

@[simp] theorem updPump_power (s : State) (n : Nat) (f : Pump → Pump) :
    (s.updPump n f).power = s.power := rfl

@[simp] theorem updPump_estopIn (s : State) (n : Nat) (f : Pump → Pump) :
    (s.updPump n f).estopIn = s.estopIn := rfl

@[simp] theorem updPump_resetIn (s : State) (n : Nat) (f : Pump → Pump) :
    (s.updPump n f).resetIn = s.resetIn := rfl

@[simp] theorem updPump_straps (s : State) (n : Nat) (f : Pump → Pump) :
    (s.updPump n f).straps = s.straps := rfl

@[simp] theorem updPump_started (s : State) (n : Nat) (f : Pump → Pump) :
    (s.updPump n f).started = s.started := rfl

@[simp] theorem updPump_retained (s : State) (n : Nat) (f : Pump → Pump) :
    (s.updPump n f).retained = s.retained := rfl

@[simp] theorem updPump_working (s : State) (n : Nat) (f : Pump → Pump) :
    (s.updPump n f).working = s.working := rfl

@[simp] theorem updPump_inForce (s : State) (n : Nat) (f : Pump → Pump) :
    (s.updPump n f).inForce = s.inForce := rfl

@[simp] theorem updPump_image (s : State) (n : Nat) (f : Pump → Pump) :
    (s.updPump n f).image = s.image := rfl

@[simp] theorem updPump_storing (s : State) (n : Nat) (f : Pump → Pump) :
    (s.updPump n f).storing = s.storing := rfl

@[simp] theorem updPump_mode (s : State) (n : Nat) (f : Pump → Pump) :
    (s.updPump n f).mode = s.mode := rfl

@[simp] theorem updPump_arm (s : State) (n : Nat) (f : Pump → Pump) :
    (s.updPump n f).arm = s.arm := rfl

@[simp] theorem updPump_latch (s : State) (n : Nat) (f : Pump → Pump) :
    (s.updPump n f).latch = s.latch := rfl

@[simp] theorem updPump_scan (s : State) (n : Nat) (f : Pump → Pump) :
    (s.updPump n f).scan = s.scan := rfl

@[simp] theorem updPump_nodes (s : State) (n : Nat) (f : Pump → Pump) :
    (s.updPump n f).nodes = s.nodes := rfl

@[simp] theorem updPump_points (s : State) (n : Nat) (f : Pump → Pump) :
    (s.updPump n f).points = s.points := rfl

@[simp] theorem updPump_hatches (s : State) (n : Nat) (f : Pump → Pump) :
    (s.updPump n f).hatches = s.hatches := rfl

@[simp] theorem updPump_ops (s : State) (n : Nat) (f : Pump → Pump) :
    (s.updPump n f).ops = s.ops := rfl

@[simp] theorem updPump_claims (s : State) (n : Nat) (f : Pump → Pump) :
    (s.updPump n f).claims = s.claims := rfl

@[simp] theorem updPump_queue (s : State) (n : Nat) (f : Pump → Pump) :
    (s.updPump n f).queue = s.queue := rfl

@[simp] theorem updPump_granted (s : State) (n : Nat) (f : Pump → Pump) :
    (s.updPump n f).granted = s.granted := rfl

@[simp] theorem updPump_pumps (s : State) (n : Nat) (f : Pump → Pump) :
    (s.updPump n f).pumps = updateKey Pump.num n f s.pumps := rfl

@[simp] theorem updPump_band (s : State) (n : Nat) (f : Pump → Pump) :
    (s.updPump n f).band = s.band := rfl

@[simp] theorem updPump_budget (s : State) (n : Nat) (f : Pump → Pump) :
    (s.updPump n f).budget = s.budget := rfl

@[simp] theorem updPump_maxB (s : State) (n : Nat) (f : Pump → Pump) :
    (s.updPump n f).maxB = s.maxB := rfl

@[simp] theorem updPump_pumpIdle (s : State) (n : Nat) (f : Pump → Pump) :
    (s.updPump n f).pumpIdle = s.pumpIdle := rfl

@[simp] theorem updPump_att (s : State) (n : Nat) (f : Pump → Pump) :
    (s.updPump n f).att = s.att := rfl

@[simp] theorem updPump_alarms (s : State) (n : Nat) (f : Pump → Pump) :
    (s.updPump n f).alarms = s.alarms := rfl

@[simp] theorem updPump_lines (s : State) (n : Nat) (f : Pump → Pump) :
    (s.updPump n f).lines = s.lines := rfl

@[simp] theorem updPump_free (s : State) (n : Nat) (f : Pump → Pump) :
    (s.updPump n f).free = s.free := rfl

/-! ### updGrant -/

@[simp] theorem updGrant_pending (s : State) (h : Nat) (f : Grant → Grant) :
    (s.updGrant h f).pending = s.pending := rfl

@[simp] theorem updGrant_now (s : State) (h : Nat) (f : Grant → Grant) :
    (s.updGrant h f).now = s.now := rfl

@[simp] theorem updGrant_power (s : State) (h : Nat) (f : Grant → Grant) :
    (s.updGrant h f).power = s.power := rfl

@[simp] theorem updGrant_estopIn (s : State) (h : Nat) (f : Grant → Grant) :
    (s.updGrant h f).estopIn = s.estopIn := rfl

@[simp] theorem updGrant_resetIn (s : State) (h : Nat) (f : Grant → Grant) :
    (s.updGrant h f).resetIn = s.resetIn := rfl

@[simp] theorem updGrant_straps (s : State) (h : Nat) (f : Grant → Grant) :
    (s.updGrant h f).straps = s.straps := rfl

@[simp] theorem updGrant_started (s : State) (h : Nat) (f : Grant → Grant) :
    (s.updGrant h f).started = s.started := rfl

@[simp] theorem updGrant_retained (s : State) (h : Nat) (f : Grant → Grant) :
    (s.updGrant h f).retained = s.retained := rfl

@[simp] theorem updGrant_working (s : State) (h : Nat) (f : Grant → Grant) :
    (s.updGrant h f).working = s.working := rfl

@[simp] theorem updGrant_inForce (s : State) (h : Nat) (f : Grant → Grant) :
    (s.updGrant h f).inForce = s.inForce := rfl

@[simp] theorem updGrant_image (s : State) (h : Nat) (f : Grant → Grant) :
    (s.updGrant h f).image = s.image := rfl

@[simp] theorem updGrant_storing (s : State) (h : Nat) (f : Grant → Grant) :
    (s.updGrant h f).storing = s.storing := rfl

@[simp] theorem updGrant_mode (s : State) (h : Nat) (f : Grant → Grant) :
    (s.updGrant h f).mode = s.mode := rfl

@[simp] theorem updGrant_arm (s : State) (h : Nat) (f : Grant → Grant) :
    (s.updGrant h f).arm = s.arm := rfl

@[simp] theorem updGrant_latch (s : State) (h : Nat) (f : Grant → Grant) :
    (s.updGrant h f).latch = s.latch := rfl

@[simp] theorem updGrant_scan (s : State) (h : Nat) (f : Grant → Grant) :
    (s.updGrant h f).scan = s.scan := rfl

@[simp] theorem updGrant_nodes (s : State) (h : Nat) (f : Grant → Grant) :
    (s.updGrant h f).nodes = s.nodes := rfl

@[simp] theorem updGrant_points (s : State) (h : Nat) (f : Grant → Grant) :
    (s.updGrant h f).points = s.points := rfl

@[simp] theorem updGrant_hatches (s : State) (h : Nat) (f : Grant → Grant) :
    (s.updGrant h f).hatches = s.hatches := rfl

@[simp] theorem updGrant_ops (s : State) (h : Nat) (f : Grant → Grant) :
    (s.updGrant h f).ops = s.ops := rfl

@[simp] theorem updGrant_claims (s : State) (h : Nat) (f : Grant → Grant) :
    (s.updGrant h f).claims = s.claims := rfl

@[simp] theorem updGrant_queue (s : State) (h : Nat) (f : Grant → Grant) :
    (s.updGrant h f).queue = s.queue := rfl

@[simp] theorem updGrant_granted (s : State) (h : Nat) (f : Grant → Grant) :
    (s.updGrant h f).granted = updateKey Grant.hatch h f s.granted := rfl

@[simp] theorem updGrant_pumps (s : State) (h : Nat) (f : Grant → Grant) :
    (s.updGrant h f).pumps = s.pumps := rfl

@[simp] theorem updGrant_band (s : State) (h : Nat) (f : Grant → Grant) :
    (s.updGrant h f).band = s.band := rfl

@[simp] theorem updGrant_budget (s : State) (h : Nat) (f : Grant → Grant) :
    (s.updGrant h f).budget = s.budget := rfl

@[simp] theorem updGrant_maxB (s : State) (h : Nat) (f : Grant → Grant) :
    (s.updGrant h f).maxB = s.maxB := rfl

@[simp] theorem updGrant_pumpIdle (s : State) (h : Nat) (f : Grant → Grant) :
    (s.updGrant h f).pumpIdle = s.pumpIdle := rfl

@[simp] theorem updGrant_att (s : State) (h : Nat) (f : Grant → Grant) :
    (s.updGrant h f).att = s.att := rfl

@[simp] theorem updGrant_alarms (s : State) (h : Nat) (f : Grant → Grant) :
    (s.updGrant h f).alarms = s.alarms := rfl

@[simp] theorem updGrant_lines (s : State) (h : Nat) (f : Grant → Grant) :
    (s.updGrant h f).lines = s.lines := rfl

@[simp] theorem updGrant_free (s : State) (h : Nat) (f : Grant → Grant) :
    (s.updGrant h f).free = s.free := rfl

/-! ### setOut -/

@[simp] theorem setOut_pending (s : State) (a p v : Nat) :
    (s.setOut a p v).pending = s.pending := rfl

@[simp] theorem setOut_now (s : State) (a p v : Nat) : (s.setOut a p v).now = s.now := rfl

@[simp] theorem setOut_power (s : State) (a p v : Nat) : (s.setOut a p v).power = s.power := rfl

@[simp] theorem setOut_estopIn (s : State) (a p v : Nat) :
    (s.setOut a p v).estopIn = s.estopIn := rfl

@[simp] theorem setOut_resetIn (s : State) (a p v : Nat) :
    (s.setOut a p v).resetIn = s.resetIn := rfl

@[simp] theorem setOut_straps (s : State) (a p v : Nat) : (s.setOut a p v).straps = s.straps := rfl

@[simp] theorem setOut_started (s : State) (a p v : Nat) :
    (s.setOut a p v).started = s.started := rfl

@[simp] theorem setOut_retained (s : State) (a p v : Nat) :
    (s.setOut a p v).retained = s.retained := rfl

@[simp] theorem setOut_working (s : State) (a p v : Nat) :
    (s.setOut a p v).working = s.working := rfl

@[simp] theorem setOut_inForce (s : State) (a p v : Nat) :
    (s.setOut a p v).inForce = s.inForce := rfl

@[simp] theorem setOut_image (s : State) (a p v : Nat) : (s.setOut a p v).image = s.image := rfl

@[simp] theorem setOut_storing (s : State) (a p v : Nat) :
    (s.setOut a p v).storing = s.storing := rfl

@[simp] theorem setOut_mode (s : State) (a p v : Nat) : (s.setOut a p v).mode = s.mode := rfl

@[simp] theorem setOut_arm (s : State) (a p v : Nat) : (s.setOut a p v).arm = s.arm := rfl

@[simp] theorem setOut_latch (s : State) (a p v : Nat) : (s.setOut a p v).latch = s.latch := rfl

@[simp] theorem setOut_scan (s : State) (a p v : Nat) : (s.setOut a p v).scan = s.scan := rfl

@[simp] theorem setOut_points (s : State) (a p v : Nat) : (s.setOut a p v).points = s.points := rfl

@[simp] theorem setOut_hatches (s : State) (a p v : Nat) :
    (s.setOut a p v).hatches = s.hatches := rfl

@[simp] theorem setOut_ops (s : State) (a p v : Nat) : (s.setOut a p v).ops = s.ops := rfl

@[simp] theorem setOut_claims (s : State) (a p v : Nat) : (s.setOut a p v).claims = s.claims := rfl

@[simp] theorem setOut_queue (s : State) (a p v : Nat) : (s.setOut a p v).queue = s.queue := rfl

@[simp] theorem setOut_granted (s : State) (a p v : Nat) :
    (s.setOut a p v).granted = s.granted := rfl

@[simp] theorem setOut_pumps (s : State) (a p v : Nat) : (s.setOut a p v).pumps = s.pumps := rfl

@[simp] theorem setOut_band (s : State) (a p v : Nat) : (s.setOut a p v).band = s.band := rfl

@[simp] theorem setOut_budget (s : State) (a p v : Nat) : (s.setOut a p v).budget = s.budget := rfl

@[simp] theorem setOut_maxB (s : State) (a p v : Nat) : (s.setOut a p v).maxB = s.maxB := rfl

@[simp] theorem setOut_pumpIdle (s : State) (a p v : Nat) :
    (s.setOut a p v).pumpIdle = s.pumpIdle := rfl

@[simp] theorem setOut_att (s : State) (a p v : Nat) : (s.setOut a p v).att = s.att := rfl

@[simp] theorem setOut_alarms (s : State) (a p v : Nat) : (s.setOut a p v).alarms = s.alarms := rfl

@[simp] theorem setOut_lines (s : State) (a p v : Nat) : (s.setOut a p v).lines = s.lines := rfl

@[simp] theorem setOut_free (s : State) (a p v : Nat) : (s.setOut a p v).free = s.free := rfl

/-! ### claimRun -/

@[simp] theorem claimRun_pending (s : State) (h : Nat) : (s.claimRun h).pending = s.pending := rfl

@[simp] theorem claimRun_now (s : State) (h : Nat) : (s.claimRun h).now = s.now := rfl

@[simp] theorem claimRun_power (s : State) (h : Nat) : (s.claimRun h).power = s.power := rfl

@[simp] theorem claimRun_estopIn (s : State) (h : Nat) : (s.claimRun h).estopIn = s.estopIn := rfl

@[simp] theorem claimRun_resetIn (s : State) (h : Nat) : (s.claimRun h).resetIn = s.resetIn := rfl

@[simp] theorem claimRun_straps (s : State) (h : Nat) : (s.claimRun h).straps = s.straps := rfl

@[simp] theorem claimRun_started (s : State) (h : Nat) : (s.claimRun h).started = s.started := rfl

@[simp] theorem claimRun_retained (s : State) (h : Nat) :
    (s.claimRun h).retained = s.retained := rfl

@[simp] theorem claimRun_working (s : State) (h : Nat) : (s.claimRun h).working = s.working := rfl

@[simp] theorem claimRun_inForce (s : State) (h : Nat) : (s.claimRun h).inForce = s.inForce := rfl

@[simp] theorem claimRun_image (s : State) (h : Nat) : (s.claimRun h).image = s.image := rfl

@[simp] theorem claimRun_storing (s : State) (h : Nat) : (s.claimRun h).storing = s.storing := rfl

@[simp] theorem claimRun_mode (s : State) (h : Nat) : (s.claimRun h).mode = s.mode := rfl

@[simp] theorem claimRun_arm (s : State) (h : Nat) : (s.claimRun h).arm = s.arm := rfl

@[simp] theorem claimRun_latch (s : State) (h : Nat) : (s.claimRun h).latch = s.latch := rfl

@[simp] theorem claimRun_scan (s : State) (h : Nat) : (s.claimRun h).scan = s.scan := rfl

@[simp] theorem claimRun_nodes (s : State) (h : Nat) : (s.claimRun h).nodes = s.nodes := rfl

@[simp] theorem claimRun_points (s : State) (h : Nat) : (s.claimRun h).points = s.points := rfl

@[simp] theorem claimRun_hatches (s : State) (h : Nat) : (s.claimRun h).hatches = s.hatches := rfl

@[simp] theorem claimRun_ops (s : State) (h : Nat) : (s.claimRun h).ops = s.ops := rfl

@[simp] theorem claimRun_queue (s : State) (h : Nat) : (s.claimRun h).queue = s.queue := rfl

@[simp] theorem claimRun_granted (s : State) (h : Nat) : (s.claimRun h).granted = s.granted := rfl

@[simp] theorem claimRun_pumps (s : State) (h : Nat) : (s.claimRun h).pumps = s.pumps := rfl

@[simp] theorem claimRun_band (s : State) (h : Nat) : (s.claimRun h).band = s.band := rfl

@[simp] theorem claimRun_budget (s : State) (h : Nat) : (s.claimRun h).budget = s.budget := rfl

@[simp] theorem claimRun_maxB (s : State) (h : Nat) : (s.claimRun h).maxB = s.maxB := rfl

@[simp] theorem claimRun_pumpIdle (s : State) (h : Nat) :
    (s.claimRun h).pumpIdle = s.pumpIdle := rfl

@[simp] theorem claimRun_att (s : State) (h : Nat) : (s.claimRun h).att = s.att := rfl

@[simp] theorem claimRun_alarms (s : State) (h : Nat) : (s.claimRun h).alarms = s.alarms := rfl

@[simp] theorem claimRun_lines (s : State) (h : Nat) : (s.claimRun h).lines = s.lines := rfl

@[simp] theorem claimRun_free (s : State) (h : Nat) : (s.claimRun h).free = s.free := rfl

/-! ### claimStop -/

@[simp] theorem claimStop_pending (s : State) (h : Nat) : (s.claimStop h).pending = s.pending := rfl

@[simp] theorem claimStop_now (s : State) (h : Nat) : (s.claimStop h).now = s.now := rfl

@[simp] theorem claimStop_power (s : State) (h : Nat) : (s.claimStop h).power = s.power := rfl

@[simp] theorem claimStop_estopIn (s : State) (h : Nat) : (s.claimStop h).estopIn = s.estopIn := rfl

@[simp] theorem claimStop_resetIn (s : State) (h : Nat) : (s.claimStop h).resetIn = s.resetIn := rfl

@[simp] theorem claimStop_straps (s : State) (h : Nat) : (s.claimStop h).straps = s.straps := rfl

@[simp] theorem claimStop_started (s : State) (h : Nat) : (s.claimStop h).started = s.started := rfl

@[simp] theorem claimStop_retained (s : State) (h : Nat) :
    (s.claimStop h).retained = s.retained := rfl

@[simp] theorem claimStop_working (s : State) (h : Nat) : (s.claimStop h).working = s.working := rfl

@[simp] theorem claimStop_inForce (s : State) (h : Nat) : (s.claimStop h).inForce = s.inForce := rfl

@[simp] theorem claimStop_image (s : State) (h : Nat) : (s.claimStop h).image = s.image := rfl

@[simp] theorem claimStop_storing (s : State) (h : Nat) : (s.claimStop h).storing = s.storing := rfl

@[simp] theorem claimStop_mode (s : State) (h : Nat) : (s.claimStop h).mode = s.mode := rfl

@[simp] theorem claimStop_arm (s : State) (h : Nat) : (s.claimStop h).arm = s.arm := rfl

@[simp] theorem claimStop_latch (s : State) (h : Nat) : (s.claimStop h).latch = s.latch := rfl

@[simp] theorem claimStop_scan (s : State) (h : Nat) : (s.claimStop h).scan = s.scan := rfl

@[simp] theorem claimStop_nodes (s : State) (h : Nat) : (s.claimStop h).nodes = s.nodes := rfl

@[simp] theorem claimStop_points (s : State) (h : Nat) : (s.claimStop h).points = s.points := rfl

@[simp] theorem claimStop_hatches (s : State) (h : Nat) : (s.claimStop h).hatches = s.hatches := rfl

@[simp] theorem claimStop_ops (s : State) (h : Nat) : (s.claimStop h).ops = s.ops := rfl

@[simp] theorem claimStop_queue (s : State) (h : Nat) : (s.claimStop h).queue = s.queue := rfl

@[simp] theorem claimStop_granted (s : State) (h : Nat) : (s.claimStop h).granted = s.granted := rfl

@[simp] theorem claimStop_pumps (s : State) (h : Nat) : (s.claimStop h).pumps = s.pumps := rfl

@[simp] theorem claimStop_band (s : State) (h : Nat) : (s.claimStop h).band = s.band := rfl

@[simp] theorem claimStop_budget (s : State) (h : Nat) : (s.claimStop h).budget = s.budget := rfl

@[simp] theorem claimStop_maxB (s : State) (h : Nat) : (s.claimStop h).maxB = s.maxB := rfl

@[simp] theorem claimStop_pumpIdle (s : State) (h : Nat) :
    (s.claimStop h).pumpIdle = s.pumpIdle := rfl

@[simp] theorem claimStop_att (s : State) (h : Nat) : (s.claimStop h).att = s.att := rfl

@[simp] theorem claimStop_alarms (s : State) (h : Nat) : (s.claimStop h).alarms = s.alarms := rfl

@[simp] theorem claimStop_lines (s : State) (h : Nat) : (s.claimStop h).lines = s.lines := rfl

@[simp] theorem claimStop_free (s : State) (h : Nat) : (s.claimStop h).free = s.free := rfl

/-! ### claimFree -/

@[simp] theorem claimFree_pending (s : State) (h : Nat) : (s.claimFree h).pending = s.pending := rfl

@[simp] theorem claimFree_now (s : State) (h : Nat) : (s.claimFree h).now = s.now := rfl

@[simp] theorem claimFree_power (s : State) (h : Nat) : (s.claimFree h).power = s.power := rfl

@[simp] theorem claimFree_estopIn (s : State) (h : Nat) : (s.claimFree h).estopIn = s.estopIn := rfl

@[simp] theorem claimFree_resetIn (s : State) (h : Nat) : (s.claimFree h).resetIn = s.resetIn := rfl

@[simp] theorem claimFree_straps (s : State) (h : Nat) : (s.claimFree h).straps = s.straps := rfl

@[simp] theorem claimFree_started (s : State) (h : Nat) : (s.claimFree h).started = s.started := rfl

@[simp] theorem claimFree_retained (s : State) (h : Nat) :
    (s.claimFree h).retained = s.retained := rfl

@[simp] theorem claimFree_working (s : State) (h : Nat) : (s.claimFree h).working = s.working := rfl

@[simp] theorem claimFree_inForce (s : State) (h : Nat) : (s.claimFree h).inForce = s.inForce := rfl

@[simp] theorem claimFree_image (s : State) (h : Nat) : (s.claimFree h).image = s.image := rfl

@[simp] theorem claimFree_storing (s : State) (h : Nat) : (s.claimFree h).storing = s.storing := rfl

@[simp] theorem claimFree_mode (s : State) (h : Nat) : (s.claimFree h).mode = s.mode := rfl

@[simp] theorem claimFree_arm (s : State) (h : Nat) : (s.claimFree h).arm = s.arm := rfl

@[simp] theorem claimFree_latch (s : State) (h : Nat) : (s.claimFree h).latch = s.latch := rfl

@[simp] theorem claimFree_scan (s : State) (h : Nat) : (s.claimFree h).scan = s.scan := rfl

@[simp] theorem claimFree_nodes (s : State) (h : Nat) : (s.claimFree h).nodes = s.nodes := rfl

@[simp] theorem claimFree_points (s : State) (h : Nat) : (s.claimFree h).points = s.points := rfl

@[simp] theorem claimFree_hatches (s : State) (h : Nat) : (s.claimFree h).hatches = s.hatches := rfl

@[simp] theorem claimFree_ops (s : State) (h : Nat) : (s.claimFree h).ops = s.ops := rfl

@[simp] theorem claimFree_queue (s : State) (h : Nat) : (s.claimFree h).queue = s.queue := rfl

@[simp] theorem claimFree_granted (s : State) (h : Nat) : (s.claimFree h).granted = s.granted := rfl

@[simp] theorem claimFree_pumps (s : State) (h : Nat) : (s.claimFree h).pumps = s.pumps := rfl

@[simp] theorem claimFree_band (s : State) (h : Nat) : (s.claimFree h).band = s.band := rfl

@[simp] theorem claimFree_budget (s : State) (h : Nat) : (s.claimFree h).budget = s.budget := rfl

@[simp] theorem claimFree_maxB (s : State) (h : Nat) : (s.claimFree h).maxB = s.maxB := rfl

@[simp] theorem claimFree_pumpIdle (s : State) (h : Nat) :
    (s.claimFree h).pumpIdle = s.pumpIdle := rfl

@[simp] theorem claimFree_att (s : State) (h : Nat) : (s.claimFree h).att = s.att := rfl

@[simp] theorem claimFree_alarms (s : State) (h : Nat) : (s.claimFree h).alarms = s.alarms := rfl

@[simp] theorem claimFree_lines (s : State) (h : Nat) : (s.claimFree h).lines = s.lines := rfl

@[simp] theorem claimFree_free (s : State) (h : Nat) : (s.claimFree h).free = s.free := rfl

/-! ### claimGrant -/

@[simp] theorem claimGrant_pending (s : State) (h l : Nat) :
    (s.claimGrant h l).pending = s.pending := rfl

@[simp] theorem claimGrant_now (s : State) (h l : Nat) : (s.claimGrant h l).now = s.now := rfl

@[simp] theorem claimGrant_power (s : State) (h l : Nat) : (s.claimGrant h l).power = s.power := rfl

@[simp] theorem claimGrant_estopIn (s : State) (h l : Nat) :
    (s.claimGrant h l).estopIn = s.estopIn := rfl

@[simp] theorem claimGrant_resetIn (s : State) (h l : Nat) :
    (s.claimGrant h l).resetIn = s.resetIn := rfl

@[simp] theorem claimGrant_straps (s : State) (h l : Nat) :
    (s.claimGrant h l).straps = s.straps := rfl

@[simp] theorem claimGrant_started (s : State) (h l : Nat) :
    (s.claimGrant h l).started = s.started := rfl

@[simp] theorem claimGrant_retained (s : State) (h l : Nat) :
    (s.claimGrant h l).retained = s.retained := rfl

@[simp] theorem claimGrant_working (s : State) (h l : Nat) :
    (s.claimGrant h l).working = s.working := rfl

@[simp] theorem claimGrant_inForce (s : State) (h l : Nat) :
    (s.claimGrant h l).inForce = s.inForce := rfl

@[simp] theorem claimGrant_image (s : State) (h l : Nat) : (s.claimGrant h l).image = s.image := rfl

@[simp] theorem claimGrant_storing (s : State) (h l : Nat) :
    (s.claimGrant h l).storing = s.storing := rfl

@[simp] theorem claimGrant_mode (s : State) (h l : Nat) : (s.claimGrant h l).mode = s.mode := rfl

@[simp] theorem claimGrant_arm (s : State) (h l : Nat) : (s.claimGrant h l).arm = s.arm := rfl

@[simp] theorem claimGrant_latch (s : State) (h l : Nat) : (s.claimGrant h l).latch = s.latch := rfl

@[simp] theorem claimGrant_scan (s : State) (h l : Nat) : (s.claimGrant h l).scan = s.scan := rfl

@[simp] theorem claimGrant_nodes (s : State) (h l : Nat) : (s.claimGrant h l).nodes = s.nodes := rfl

@[simp] theorem claimGrant_points (s : State) (h l : Nat) :
    (s.claimGrant h l).points = s.points := rfl

@[simp] theorem claimGrant_hatches (s : State) (h l : Nat) :
    (s.claimGrant h l).hatches = s.hatches := rfl

@[simp] theorem claimGrant_ops (s : State) (h l : Nat) : (s.claimGrant h l).ops = s.ops := rfl

@[simp] theorem claimGrant_queue (s : State) (h l : Nat) : (s.claimGrant h l).queue = s.queue := rfl

@[simp] theorem claimGrant_granted (s : State) (h l : Nat) :
    (s.claimGrant h l).granted = s.granted := rfl

@[simp] theorem claimGrant_pumps (s : State) (h l : Nat) : (s.claimGrant h l).pumps = s.pumps := rfl

@[simp] theorem claimGrant_band (s : State) (h l : Nat) : (s.claimGrant h l).band = s.band := rfl

@[simp] theorem claimGrant_budget (s : State) (h l : Nat) :
    (s.claimGrant h l).budget = s.budget := rfl

@[simp] theorem claimGrant_maxB (s : State) (h l : Nat) : (s.claimGrant h l).maxB = s.maxB := rfl

@[simp] theorem claimGrant_pumpIdle (s : State) (h l : Nat) :
    (s.claimGrant h l).pumpIdle = s.pumpIdle := rfl

@[simp] theorem claimGrant_att (s : State) (h l : Nat) : (s.claimGrant h l).att = s.att := rfl

@[simp] theorem claimGrant_alarms (s : State) (h l : Nat) :
    (s.claimGrant h l).alarms = s.alarms := rfl

@[simp] theorem claimGrant_lines (s : State) (h l : Nat) : (s.claimGrant h l).lines = s.lines := rfl

@[simp] theorem claimGrant_free (s : State) (h l : Nat) : (s.claimGrant h l).free = s.free := rfl

/-! ### joinQueue -/

@[simp] theorem joinQueue_pending (s : State) (e : Entry) :
    (s.joinQueue e).pending = s.pending := rfl

@[simp] theorem joinQueue_now (s : State) (e : Entry) : (s.joinQueue e).now = s.now := rfl

@[simp] theorem joinQueue_power (s : State) (e : Entry) : (s.joinQueue e).power = s.power := rfl

@[simp] theorem joinQueue_estopIn (s : State) (e : Entry) :
    (s.joinQueue e).estopIn = s.estopIn := rfl

@[simp] theorem joinQueue_resetIn (s : State) (e : Entry) :
    (s.joinQueue e).resetIn = s.resetIn := rfl

@[simp] theorem joinQueue_straps (s : State) (e : Entry) : (s.joinQueue e).straps = s.straps := rfl

@[simp] theorem joinQueue_started (s : State) (e : Entry) :
    (s.joinQueue e).started = s.started := rfl

@[simp] theorem joinQueue_retained (s : State) (e : Entry) :
    (s.joinQueue e).retained = s.retained := rfl

@[simp] theorem joinQueue_working (s : State) (e : Entry) :
    (s.joinQueue e).working = s.working := rfl

@[simp] theorem joinQueue_inForce (s : State) (e : Entry) :
    (s.joinQueue e).inForce = s.inForce := rfl

@[simp] theorem joinQueue_image (s : State) (e : Entry) : (s.joinQueue e).image = s.image := rfl

@[simp] theorem joinQueue_storing (s : State) (e : Entry) :
    (s.joinQueue e).storing = s.storing := rfl

@[simp] theorem joinQueue_mode (s : State) (e : Entry) : (s.joinQueue e).mode = s.mode := rfl

@[simp] theorem joinQueue_arm (s : State) (e : Entry) : (s.joinQueue e).arm = s.arm := rfl

@[simp] theorem joinQueue_latch (s : State) (e : Entry) : (s.joinQueue e).latch = s.latch := rfl

@[simp] theorem joinQueue_scan (s : State) (e : Entry) : (s.joinQueue e).scan = s.scan := rfl

@[simp] theorem joinQueue_nodes (s : State) (e : Entry) : (s.joinQueue e).nodes = s.nodes := rfl

@[simp] theorem joinQueue_points (s : State) (e : Entry) : (s.joinQueue e).points = s.points := rfl

@[simp] theorem joinQueue_hatches (s : State) (e : Entry) :
    (s.joinQueue e).hatches = s.hatches := rfl

@[simp] theorem joinQueue_ops (s : State) (e : Entry) : (s.joinQueue e).ops = s.ops := rfl

@[simp] theorem joinQueue_claims (s : State) (e : Entry) : (s.joinQueue e).claims = s.claims := rfl

@[simp] theorem joinQueue_queue (s : State) (e : Entry) :
    (s.joinQueue e).queue = insertEntry e s.queue := rfl

@[simp] theorem joinQueue_granted (s : State) (e : Entry) :
    (s.joinQueue e).granted = s.granted := rfl

@[simp] theorem joinQueue_pumps (s : State) (e : Entry) : (s.joinQueue e).pumps = s.pumps := rfl

@[simp] theorem joinQueue_band (s : State) (e : Entry) : (s.joinQueue e).band = s.band := rfl

@[simp] theorem joinQueue_budget (s : State) (e : Entry) : (s.joinQueue e).budget = s.budget := rfl

@[simp] theorem joinQueue_maxB (s : State) (e : Entry) : (s.joinQueue e).maxB = s.maxB := rfl

@[simp] theorem joinQueue_pumpIdle (s : State) (e : Entry) : (s.joinQueue e).pumpIdle = none := rfl

@[simp] theorem joinQueue_att (s : State) (e : Entry) : (s.joinQueue e).att = s.att := rfl

@[simp] theorem joinQueue_alarms (s : State) (e : Entry) : (s.joinQueue e).alarms = s.alarms := rfl

@[simp] theorem joinQueue_lines (s : State) (e : Entry) : (s.joinQueue e).lines = s.lines := rfl

@[simp] theorem joinQueue_free (s : State) (e : Entry) : (s.joinQueue e).free = s.free := rfl

/-! ### raiseAlarm -/

@[simp] theorem raiseAlarm_pending (s : State) (c : AlarmCode) (sub : Subject) :
    (s.raiseAlarm c sub).pending = s.pending := rfl

@[simp] theorem raiseAlarm_now (s : State) (c : AlarmCode) (sub : Subject) :
    (s.raiseAlarm c sub).now = s.now := rfl

@[simp] theorem raiseAlarm_power (s : State) (c : AlarmCode) (sub : Subject) :
    (s.raiseAlarm c sub).power = s.power := rfl

@[simp] theorem raiseAlarm_estopIn (s : State) (c : AlarmCode) (sub : Subject) :
    (s.raiseAlarm c sub).estopIn = s.estopIn := rfl

@[simp] theorem raiseAlarm_resetIn (s : State) (c : AlarmCode) (sub : Subject) :
    (s.raiseAlarm c sub).resetIn = s.resetIn := rfl

@[simp] theorem raiseAlarm_straps (s : State) (c : AlarmCode) (sub : Subject) :
    (s.raiseAlarm c sub).straps = s.straps := rfl

@[simp] theorem raiseAlarm_started (s : State) (c : AlarmCode) (sub : Subject) :
    (s.raiseAlarm c sub).started = s.started := rfl

@[simp] theorem raiseAlarm_retained (s : State) (c : AlarmCode) (sub : Subject) :
    (s.raiseAlarm c sub).retained = s.retained := rfl

@[simp] theorem raiseAlarm_working (s : State) (c : AlarmCode) (sub : Subject) :
    (s.raiseAlarm c sub).working = s.working := rfl

@[simp] theorem raiseAlarm_inForce (s : State) (c : AlarmCode) (sub : Subject) :
    (s.raiseAlarm c sub).inForce = s.inForce := rfl

@[simp] theorem raiseAlarm_image (s : State) (c : AlarmCode) (sub : Subject) :
    (s.raiseAlarm c sub).image = s.image := rfl

@[simp] theorem raiseAlarm_storing (s : State) (c : AlarmCode) (sub : Subject) :
    (s.raiseAlarm c sub).storing = s.storing := rfl

@[simp] theorem raiseAlarm_mode (s : State) (c : AlarmCode) (sub : Subject) :
    (s.raiseAlarm c sub).mode = s.mode := rfl

@[simp] theorem raiseAlarm_arm (s : State) (c : AlarmCode) (sub : Subject) :
    (s.raiseAlarm c sub).arm = s.arm := rfl

@[simp] theorem raiseAlarm_latch (s : State) (c : AlarmCode) (sub : Subject) :
    (s.raiseAlarm c sub).latch = s.latch := rfl

@[simp] theorem raiseAlarm_scan (s : State) (c : AlarmCode) (sub : Subject) :
    (s.raiseAlarm c sub).scan = s.scan := rfl

@[simp] theorem raiseAlarm_nodes (s : State) (c : AlarmCode) (sub : Subject) :
    (s.raiseAlarm c sub).nodes = s.nodes := rfl

@[simp] theorem raiseAlarm_points (s : State) (c : AlarmCode) (sub : Subject) :
    (s.raiseAlarm c sub).points = s.points := rfl

@[simp] theorem raiseAlarm_hatches (s : State) (c : AlarmCode) (sub : Subject) :
    (s.raiseAlarm c sub).hatches = s.hatches := rfl

@[simp] theorem raiseAlarm_ops (s : State) (c : AlarmCode) (sub : Subject) :
    (s.raiseAlarm c sub).ops = s.ops := rfl

@[simp] theorem raiseAlarm_claims (s : State) (c : AlarmCode) (sub : Subject) :
    (s.raiseAlarm c sub).claims = s.claims := rfl

@[simp] theorem raiseAlarm_queue (s : State) (c : AlarmCode) (sub : Subject) :
    (s.raiseAlarm c sub).queue = s.queue := rfl

@[simp] theorem raiseAlarm_granted (s : State) (c : AlarmCode) (sub : Subject) :
    (s.raiseAlarm c sub).granted = s.granted := rfl

@[simp] theorem raiseAlarm_pumps (s : State) (c : AlarmCode) (sub : Subject) :
    (s.raiseAlarm c sub).pumps = s.pumps := rfl

@[simp] theorem raiseAlarm_band (s : State) (c : AlarmCode) (sub : Subject) :
    (s.raiseAlarm c sub).band = s.band := rfl

@[simp] theorem raiseAlarm_budget (s : State) (c : AlarmCode) (sub : Subject) :
    (s.raiseAlarm c sub).budget = s.budget := rfl

@[simp] theorem raiseAlarm_maxB (s : State) (c : AlarmCode) (sub : Subject) :
    (s.raiseAlarm c sub).maxB = s.maxB := rfl

@[simp] theorem raiseAlarm_pumpIdle (s : State) (c : AlarmCode) (sub : Subject) :
    (s.raiseAlarm c sub).pumpIdle = s.pumpIdle := rfl

@[simp] theorem raiseAlarm_att (s : State) (c : AlarmCode) (sub : Subject) :
    (s.raiseAlarm c sub).att = s.att := rfl

@[simp] theorem raiseAlarm_alarms (s : State) (c : AlarmCode) (sub : Subject) :
    (s.raiseAlarm c sub).alarms = s.alarms.raise c sub s.runningTime := rfl

@[simp] theorem raiseAlarm_lines (s : State) (c : AlarmCode) (sub : Subject) :
    (s.raiseAlarm c sub).lines = s.lines := rfl

@[simp] theorem raiseAlarm_free (s : State) (c : AlarmCode) (sub : Subject) :
    (s.raiseAlarm c sub).free = s.free := rfl

/-! ### clearAlarm -/

@[simp] theorem clearAlarm_pending (s : State) (c : AlarmCode) (sub : Subject) :
    (s.clearAlarm c sub).pending = s.pending := rfl

@[simp] theorem clearAlarm_now (s : State) (c : AlarmCode) (sub : Subject) :
    (s.clearAlarm c sub).now = s.now := rfl

@[simp] theorem clearAlarm_power (s : State) (c : AlarmCode) (sub : Subject) :
    (s.clearAlarm c sub).power = s.power := rfl

@[simp] theorem clearAlarm_estopIn (s : State) (c : AlarmCode) (sub : Subject) :
    (s.clearAlarm c sub).estopIn = s.estopIn := rfl

@[simp] theorem clearAlarm_resetIn (s : State) (c : AlarmCode) (sub : Subject) :
    (s.clearAlarm c sub).resetIn = s.resetIn := rfl

@[simp] theorem clearAlarm_straps (s : State) (c : AlarmCode) (sub : Subject) :
    (s.clearAlarm c sub).straps = s.straps := rfl

@[simp] theorem clearAlarm_started (s : State) (c : AlarmCode) (sub : Subject) :
    (s.clearAlarm c sub).started = s.started := rfl

@[simp] theorem clearAlarm_retained (s : State) (c : AlarmCode) (sub : Subject) :
    (s.clearAlarm c sub).retained = s.retained := rfl

@[simp] theorem clearAlarm_working (s : State) (c : AlarmCode) (sub : Subject) :
    (s.clearAlarm c sub).working = s.working := rfl

@[simp] theorem clearAlarm_inForce (s : State) (c : AlarmCode) (sub : Subject) :
    (s.clearAlarm c sub).inForce = s.inForce := rfl

@[simp] theorem clearAlarm_image (s : State) (c : AlarmCode) (sub : Subject) :
    (s.clearAlarm c sub).image = s.image := rfl

@[simp] theorem clearAlarm_storing (s : State) (c : AlarmCode) (sub : Subject) :
    (s.clearAlarm c sub).storing = s.storing := rfl

@[simp] theorem clearAlarm_mode (s : State) (c : AlarmCode) (sub : Subject) :
    (s.clearAlarm c sub).mode = s.mode := rfl

@[simp] theorem clearAlarm_arm (s : State) (c : AlarmCode) (sub : Subject) :
    (s.clearAlarm c sub).arm = s.arm := rfl

@[simp] theorem clearAlarm_latch (s : State) (c : AlarmCode) (sub : Subject) :
    (s.clearAlarm c sub).latch = s.latch := rfl

@[simp] theorem clearAlarm_scan (s : State) (c : AlarmCode) (sub : Subject) :
    (s.clearAlarm c sub).scan = s.scan := rfl

@[simp] theorem clearAlarm_nodes (s : State) (c : AlarmCode) (sub : Subject) :
    (s.clearAlarm c sub).nodes = s.nodes := rfl

@[simp] theorem clearAlarm_points (s : State) (c : AlarmCode) (sub : Subject) :
    (s.clearAlarm c sub).points = s.points := rfl

@[simp] theorem clearAlarm_hatches (s : State) (c : AlarmCode) (sub : Subject) :
    (s.clearAlarm c sub).hatches = s.hatches := rfl

@[simp] theorem clearAlarm_ops (s : State) (c : AlarmCode) (sub : Subject) :
    (s.clearAlarm c sub).ops = s.ops := rfl

@[simp] theorem clearAlarm_claims (s : State) (c : AlarmCode) (sub : Subject) :
    (s.clearAlarm c sub).claims = s.claims := rfl

@[simp] theorem clearAlarm_queue (s : State) (c : AlarmCode) (sub : Subject) :
    (s.clearAlarm c sub).queue = s.queue := rfl

@[simp] theorem clearAlarm_granted (s : State) (c : AlarmCode) (sub : Subject) :
    (s.clearAlarm c sub).granted = s.granted := rfl

@[simp] theorem clearAlarm_pumps (s : State) (c : AlarmCode) (sub : Subject) :
    (s.clearAlarm c sub).pumps = s.pumps := rfl

@[simp] theorem clearAlarm_band (s : State) (c : AlarmCode) (sub : Subject) :
    (s.clearAlarm c sub).band = s.band := rfl

@[simp] theorem clearAlarm_budget (s : State) (c : AlarmCode) (sub : Subject) :
    (s.clearAlarm c sub).budget = s.budget := rfl

@[simp] theorem clearAlarm_maxB (s : State) (c : AlarmCode) (sub : Subject) :
    (s.clearAlarm c sub).maxB = s.maxB := rfl

@[simp] theorem clearAlarm_pumpIdle (s : State) (c : AlarmCode) (sub : Subject) :
    (s.clearAlarm c sub).pumpIdle = s.pumpIdle := rfl

@[simp] theorem clearAlarm_att (s : State) (c : AlarmCode) (sub : Subject) :
    (s.clearAlarm c sub).att = s.att := rfl

@[simp] theorem clearAlarm_alarms (s : State) (c : AlarmCode) (sub : Subject) :
    (s.clearAlarm c sub).alarms = s.alarms.clear c sub := rfl

@[simp] theorem clearAlarm_lines (s : State) (c : AlarmCode) (sub : Subject) :
    (s.clearAlarm c sub).lines = s.lines := rfl

@[simp] theorem clearAlarm_free (s : State) (c : AlarmCode) (sub : Subject) :
    (s.clearAlarm c sub).free = s.free := rfl

/-! ### clearAlarms -/

@[simp] theorem clearAlarms_pending (s : State) (cs : List AlarmCode) :
    (s.clearAlarms cs).pending = s.pending := rfl

@[simp] theorem clearAlarms_now (s : State) (cs : List AlarmCode) :
    (s.clearAlarms cs).now = s.now := rfl

@[simp] theorem clearAlarms_power (s : State) (cs : List AlarmCode) :
    (s.clearAlarms cs).power = s.power := rfl

@[simp] theorem clearAlarms_estopIn (s : State) (cs : List AlarmCode) :
    (s.clearAlarms cs).estopIn = s.estopIn := rfl

@[simp] theorem clearAlarms_resetIn (s : State) (cs : List AlarmCode) :
    (s.clearAlarms cs).resetIn = s.resetIn := rfl

@[simp] theorem clearAlarms_straps (s : State) (cs : List AlarmCode) :
    (s.clearAlarms cs).straps = s.straps := rfl

@[simp] theorem clearAlarms_started (s : State) (cs : List AlarmCode) :
    (s.clearAlarms cs).started = s.started := rfl

@[simp] theorem clearAlarms_retained (s : State) (cs : List AlarmCode) :
    (s.clearAlarms cs).retained = s.retained := rfl

@[simp] theorem clearAlarms_working (s : State) (cs : List AlarmCode) :
    (s.clearAlarms cs).working = s.working := rfl

@[simp] theorem clearAlarms_inForce (s : State) (cs : List AlarmCode) :
    (s.clearAlarms cs).inForce = s.inForce := rfl

@[simp] theorem clearAlarms_image (s : State) (cs : List AlarmCode) :
    (s.clearAlarms cs).image = s.image := rfl

@[simp] theorem clearAlarms_storing (s : State) (cs : List AlarmCode) :
    (s.clearAlarms cs).storing = s.storing := rfl

@[simp] theorem clearAlarms_mode (s : State) (cs : List AlarmCode) :
    (s.clearAlarms cs).mode = s.mode := rfl

@[simp] theorem clearAlarms_arm (s : State) (cs : List AlarmCode) :
    (s.clearAlarms cs).arm = s.arm := rfl

@[simp] theorem clearAlarms_latch (s : State) (cs : List AlarmCode) :
    (s.clearAlarms cs).latch = s.latch := rfl

@[simp] theorem clearAlarms_scan (s : State) (cs : List AlarmCode) :
    (s.clearAlarms cs).scan = s.scan := rfl

@[simp] theorem clearAlarms_nodes (s : State) (cs : List AlarmCode) :
    (s.clearAlarms cs).nodes = s.nodes := rfl

@[simp] theorem clearAlarms_points (s : State) (cs : List AlarmCode) :
    (s.clearAlarms cs).points = s.points := rfl

@[simp] theorem clearAlarms_hatches (s : State) (cs : List AlarmCode) :
    (s.clearAlarms cs).hatches = s.hatches := rfl

@[simp] theorem clearAlarms_ops (s : State) (cs : List AlarmCode) :
    (s.clearAlarms cs).ops = s.ops := rfl

@[simp] theorem clearAlarms_claims (s : State) (cs : List AlarmCode) :
    (s.clearAlarms cs).claims = s.claims := rfl

@[simp] theorem clearAlarms_queue (s : State) (cs : List AlarmCode) :
    (s.clearAlarms cs).queue = s.queue := rfl

@[simp] theorem clearAlarms_granted (s : State) (cs : List AlarmCode) :
    (s.clearAlarms cs).granted = s.granted := rfl

@[simp] theorem clearAlarms_pumps (s : State) (cs : List AlarmCode) :
    (s.clearAlarms cs).pumps = s.pumps := rfl

@[simp] theorem clearAlarms_band (s : State) (cs : List AlarmCode) :
    (s.clearAlarms cs).band = s.band := rfl

@[simp] theorem clearAlarms_budget (s : State) (cs : List AlarmCode) :
    (s.clearAlarms cs).budget = s.budget := rfl

@[simp] theorem clearAlarms_maxB (s : State) (cs : List AlarmCode) :
    (s.clearAlarms cs).maxB = s.maxB := rfl

@[simp] theorem clearAlarms_pumpIdle (s : State) (cs : List AlarmCode) :
    (s.clearAlarms cs).pumpIdle = s.pumpIdle := rfl

@[simp] theorem clearAlarms_att (s : State) (cs : List AlarmCode) :
    (s.clearAlarms cs).att = s.att := rfl

@[simp] theorem clearAlarms_alarms (s : State) (cs : List AlarmCode) :
    (s.clearAlarms cs).alarms = cs.foldl AlarmList.clearAll s.alarms := rfl

@[simp] theorem clearAlarms_lines (s : State) (cs : List AlarmCode) :
    (s.clearAlarms cs).lines = s.lines := rfl

@[simp] theorem clearAlarms_free (s : State) (cs : List AlarmCode) :
    (s.clearAlarms cs).free = s.free := rfl

/-! ### classifierIdle -/

@[simp] theorem classifierIdle_pending (s : State) (h : Nat) :
    (s.classifierIdle h).pending = s.pending := rfl

@[simp] theorem classifierIdle_now (s : State) (h : Nat) : (s.classifierIdle h).now = s.now := rfl

@[simp] theorem classifierIdle_power (s : State) (h : Nat) :
    (s.classifierIdle h).power = s.power := rfl

@[simp] theorem classifierIdle_estopIn (s : State) (h : Nat) :
    (s.classifierIdle h).estopIn = s.estopIn := rfl

@[simp] theorem classifierIdle_resetIn (s : State) (h : Nat) :
    (s.classifierIdle h).resetIn = s.resetIn := rfl

@[simp] theorem classifierIdle_straps (s : State) (h : Nat) :
    (s.classifierIdle h).straps = s.straps := rfl

@[simp] theorem classifierIdle_started (s : State) (h : Nat) :
    (s.classifierIdle h).started = s.started := rfl

@[simp] theorem classifierIdle_retained (s : State) (h : Nat) :
    (s.classifierIdle h).retained = s.retained := rfl

@[simp] theorem classifierIdle_working (s : State) (h : Nat) :
    (s.classifierIdle h).working = s.working := rfl

@[simp] theorem classifierIdle_inForce (s : State) (h : Nat) :
    (s.classifierIdle h).inForce = s.inForce := rfl

@[simp] theorem classifierIdle_image (s : State) (h : Nat) :
    (s.classifierIdle h).image = s.image := rfl

@[simp] theorem classifierIdle_storing (s : State) (h : Nat) :
    (s.classifierIdle h).storing = s.storing := rfl

@[simp] theorem classifierIdle_mode (s : State) (h : Nat) :
    (s.classifierIdle h).mode = s.mode := rfl

@[simp] theorem classifierIdle_arm (s : State) (h : Nat) : (s.classifierIdle h).arm = s.arm := rfl

@[simp] theorem classifierIdle_latch (s : State) (h : Nat) :
    (s.classifierIdle h).latch = s.latch := rfl

@[simp] theorem classifierIdle_scan (s : State) (h : Nat) :
    (s.classifierIdle h).scan = s.scan := rfl

@[simp] theorem classifierIdle_nodes (s : State) (h : Nat) :
    (s.classifierIdle h).nodes = s.nodes := rfl

@[simp] theorem classifierIdle_points (s : State) (h : Nat) :
    (s.classifierIdle h).points = s.points := rfl

@[simp] theorem classifierIdle_ops (s : State) (h : Nat) : (s.classifierIdle h).ops = s.ops := rfl

@[simp] theorem classifierIdle_claims (s : State) (h : Nat) :
    (s.classifierIdle h).claims = s.claims := rfl

@[simp] theorem classifierIdle_queue (s : State) (h : Nat) :
    (s.classifierIdle h).queue = s.queue := rfl

@[simp] theorem classifierIdle_granted (s : State) (h : Nat) :
    (s.classifierIdle h).granted = s.granted := rfl

@[simp] theorem classifierIdle_pumps (s : State) (h : Nat) :
    (s.classifierIdle h).pumps = s.pumps := rfl

@[simp] theorem classifierIdle_band (s : State) (h : Nat) :
    (s.classifierIdle h).band = s.band := rfl

@[simp] theorem classifierIdle_budget (s : State) (h : Nat) :
    (s.classifierIdle h).budget = s.budget := rfl

@[simp] theorem classifierIdle_maxB (s : State) (h : Nat) :
    (s.classifierIdle h).maxB = s.maxB := rfl

@[simp] theorem classifierIdle_pumpIdle (s : State) (h : Nat) :
    (s.classifierIdle h).pumpIdle = s.pumpIdle := rfl

@[simp] theorem classifierIdle_att (s : State) (h : Nat) : (s.classifierIdle h).att = s.att := rfl

@[simp] theorem classifierIdle_alarms (s : State) (h : Nat) :
    (s.classifierIdle h).alarms = s.alarms := rfl

@[simp] theorem classifierIdle_lines (s : State) (h : Nat) :
    (s.classifierIdle h).lines = s.lines := rfl

@[simp] theorem classifierIdle_free (s : State) (h : Nat) :
    (s.classifierIdle h).free = s.free := rfl

/-! ### noteEntry -/

@[simp] theorem noteEntry_pending (s : State) (h d : Nat) (b : Bool) :
    (s.noteEntry h d b).pending = s.pending := rfl

@[simp] theorem noteEntry_now (s : State) (h d : Nat) (b : Bool) :
    (s.noteEntry h d b).now = s.now := rfl

@[simp] theorem noteEntry_power (s : State) (h d : Nat) (b : Bool) :
    (s.noteEntry h d b).power = s.power := rfl

@[simp] theorem noteEntry_estopIn (s : State) (h d : Nat) (b : Bool) :
    (s.noteEntry h d b).estopIn = s.estopIn := rfl

@[simp] theorem noteEntry_resetIn (s : State) (h d : Nat) (b : Bool) :
    (s.noteEntry h d b).resetIn = s.resetIn := rfl

@[simp] theorem noteEntry_straps (s : State) (h d : Nat) (b : Bool) :
    (s.noteEntry h d b).straps = s.straps := rfl

@[simp] theorem noteEntry_started (s : State) (h d : Nat) (b : Bool) :
    (s.noteEntry h d b).started = s.started := rfl

@[simp] theorem noteEntry_retained (s : State) (h d : Nat) (b : Bool) :
    (s.noteEntry h d b).retained = s.retained := rfl

@[simp] theorem noteEntry_working (s : State) (h d : Nat) (b : Bool) :
    (s.noteEntry h d b).working = s.working := rfl

@[simp] theorem noteEntry_inForce (s : State) (h d : Nat) (b : Bool) :
    (s.noteEntry h d b).inForce = s.inForce := rfl

@[simp] theorem noteEntry_image (s : State) (h d : Nat) (b : Bool) :
    (s.noteEntry h d b).image = s.image := rfl

@[simp] theorem noteEntry_storing (s : State) (h d : Nat) (b : Bool) :
    (s.noteEntry h d b).storing = s.storing := rfl

@[simp] theorem noteEntry_mode (s : State) (h d : Nat) (b : Bool) :
    (s.noteEntry h d b).mode = s.mode := rfl

@[simp] theorem noteEntry_arm (s : State) (h d : Nat) (b : Bool) :
    (s.noteEntry h d b).arm = s.arm := rfl

@[simp] theorem noteEntry_latch (s : State) (h d : Nat) (b : Bool) :
    (s.noteEntry h d b).latch = s.latch := rfl

@[simp] theorem noteEntry_scan (s : State) (h d : Nat) (b : Bool) :
    (s.noteEntry h d b).scan = s.scan := rfl

@[simp] theorem noteEntry_nodes (s : State) (h d : Nat) (b : Bool) :
    (s.noteEntry h d b).nodes = s.nodes := rfl

@[simp] theorem noteEntry_points (s : State) (h d : Nat) (b : Bool) :
    (s.noteEntry h d b).points = s.points := rfl

@[simp] theorem noteEntry_hatches (s : State) (h d : Nat) (b : Bool) :
    (s.noteEntry h d b).hatches = s.hatches := rfl

@[simp] theorem noteEntry_ops (s : State) (h d : Nat) (b : Bool) :
    (s.noteEntry h d b).ops = s.ops := rfl

@[simp] theorem noteEntry_claims (s : State) (h d : Nat) (b : Bool) :
    (s.noteEntry h d b).claims = s.claims := rfl

@[simp] theorem noteEntry_granted (s : State) (h d : Nat) (b : Bool) :
    (s.noteEntry h d b).granted = s.granted := rfl

@[simp] theorem noteEntry_pumps (s : State) (h d : Nat) (b : Bool) :
    (s.noteEntry h d b).pumps = s.pumps := rfl

@[simp] theorem noteEntry_band (s : State) (h d : Nat) (b : Bool) :
    (s.noteEntry h d b).band = s.band := rfl

@[simp] theorem noteEntry_budget (s : State) (h d : Nat) (b : Bool) :
    (s.noteEntry h d b).budget = s.budget := rfl

@[simp] theorem noteEntry_maxB (s : State) (h d : Nat) (b : Bool) :
    (s.noteEntry h d b).maxB = s.maxB := rfl

@[simp] theorem noteEntry_pumpIdle (s : State) (h d : Nat) (b : Bool) :
    (s.noteEntry h d b).pumpIdle = s.pumpIdle := rfl

@[simp] theorem noteEntry_att (s : State) (h d : Nat) (b : Bool) :
    (s.noteEntry h d b).att = s.att := rfl

@[simp] theorem noteEntry_alarms (s : State) (h d : Nat) (b : Bool) :
    (s.noteEntry h d b).alarms = s.alarms := rfl

@[simp] theorem noteEntry_lines (s : State) (h d : Nat) (b : Bool) :
    (s.noteEntry h d b).lines = s.lines := rfl

@[simp] theorem noteEntry_free (s : State) (h d : Nat) (b : Bool) :
    (s.noteEntry h d b).free = s.free := rfl

/-! ### setMode -/

@[simp] theorem setMode_pending (s : State) (m : ShipMode) :
    (s.setMode m).pending = s.pending := rfl

@[simp] theorem setMode_now (s : State) (m : ShipMode) : (s.setMode m).now = s.now := rfl

@[simp] theorem setMode_power (s : State) (m : ShipMode) : (s.setMode m).power = s.power := rfl

@[simp] theorem setMode_estopIn (s : State) (m : ShipMode) :
    (s.setMode m).estopIn = s.estopIn := rfl

@[simp] theorem setMode_resetIn (s : State) (m : ShipMode) :
    (s.setMode m).resetIn = s.resetIn := rfl

@[simp] theorem setMode_straps (s : State) (m : ShipMode) : (s.setMode m).straps = s.straps := rfl

@[simp] theorem setMode_started (s : State) (m : ShipMode) :
    (s.setMode m).started = s.started := rfl

@[simp] theorem setMode_retained (s : State) (m : ShipMode) :
    (s.setMode m).retained = { s.retained with mode := m } := rfl

@[simp] theorem setMode_working (s : State) (m : ShipMode) :
    (s.setMode m).working = s.working := rfl

@[simp] theorem setMode_inForce (s : State) (m : ShipMode) :
    (s.setMode m).inForce = s.inForce := rfl

@[simp] theorem setMode_image (s : State) (m : ShipMode) : (s.setMode m).image = s.image := rfl

@[simp] theorem setMode_storing (s : State) (m : ShipMode) :
    (s.setMode m).storing = s.storing := rfl

@[simp] theorem setMode_mode (s : State) (m : ShipMode) : (s.setMode m).mode = m.part := rfl

@[simp] theorem setMode_arm (s : State) (m : ShipMode) : (s.setMode m).arm = s.arm := rfl

@[simp] theorem setMode_latch (s : State) (m : ShipMode) : (s.setMode m).latch = s.latch := rfl

@[simp] theorem setMode_scan (s : State) (m : ShipMode) : (s.setMode m).scan = s.scan := rfl

@[simp] theorem setMode_nodes (s : State) (m : ShipMode) : (s.setMode m).nodes = s.nodes := rfl

@[simp] theorem setMode_points (s : State) (m : ShipMode) : (s.setMode m).points = s.points := rfl

@[simp] theorem setMode_hatches (s : State) (m : ShipMode) :
    (s.setMode m).hatches = s.hatches := rfl

@[simp] theorem setMode_ops (s : State) (m : ShipMode) : (s.setMode m).ops = s.ops := rfl

@[simp] theorem setMode_claims (s : State) (m : ShipMode) : (s.setMode m).claims = s.claims := rfl

@[simp] theorem setMode_queue (s : State) (m : ShipMode) : (s.setMode m).queue = s.queue := rfl

@[simp] theorem setMode_granted (s : State) (m : ShipMode) :
    (s.setMode m).granted = s.granted := rfl

@[simp] theorem setMode_pumps (s : State) (m : ShipMode) : (s.setMode m).pumps = s.pumps := rfl

@[simp] theorem setMode_band (s : State) (m : ShipMode) : (s.setMode m).band = s.band := rfl

@[simp] theorem setMode_budget (s : State) (m : ShipMode) : (s.setMode m).budget = s.budget := rfl

@[simp] theorem setMode_maxB (s : State) (m : ShipMode) : (s.setMode m).maxB = s.maxB := rfl

@[simp] theorem setMode_pumpIdle (s : State) (m : ShipMode) :
    (s.setMode m).pumpIdle = s.pumpIdle := rfl

@[simp] theorem setMode_att (s : State) (m : ShipMode) : (s.setMode m).att = s.att := rfl

@[simp] theorem setMode_alarms (s : State) (m : ShipMode) : (s.setMode m).alarms = s.alarms := rfl

@[simp] theorem setMode_lines (s : State) (m : ShipMode) : (s.setMode m).lines = s.lines := rfl

@[simp] theorem setMode_free (s : State) (m : ShipMode) : (s.setMode m).free = s.free := rfl

end Sys2Proof.Machine
end

