-- ==== Sys2Proof/Laws/Motion.lean ====
section
/-! SUPPORT. What the operations of the Hatch Engine, the Flow Arbiter and Pump Control leave alone:
each of them stays within `OnlyMotion`, which is reflexive and transitive. -/

namespace Sys2Proof.Machine

/-! ### Keyed records -/

/-- An update that keeps the keys keeps the list of keys. -/
theorem map_updateKey {α β : Type} (key : α → Nat) (g : α → β) (n : Nat) (f : α → α)
    (hf : ∀ x, key x = n → g (f x) = g x) (l : List α) :
    (updateKey key n f l).map g = l.map g := by
  simp only [updateKey, List.map_map]
  refine List.map_congr_left fun x _ => ?_
  by_cases hx : key x = n
  · simp [hx, hf x hx]
  · simp [hx]

/-! ### The relation -/

theorem OnlyMotion.refl (s : State) : OnlyMotion s s := ⟨rfl, rfl, rfl, rfl, rfl⟩

theorem OnlyMotion.trans {s t u : State} (h : OnlyMotion s t) (k : OnlyMotion t u) :
    OnlyMotion s u := by
  refine ⟨?_, k.nodes.trans h.nodes, k.hatches.trans h.hatches, k.ops.trans h.ops,
    k.pumps.trans h.pumps⟩
  have e := k.rest
  rw [h.rest] at e
  exact e

theorem OnlyMotion.foldl {α : Type} {f : State → α → State}
    (hf : ∀ x a, OnlyMotion x (f x a)) (l : List α) (s : State) :
    OnlyMotion s (l.foldl f s) := by
  induction l generalizing s with
  | nil => exact .refl s
  | cons a l ih => exact (hf s a).trans (ih _)

theorem OnlyMotion.pending {s t : State} (h : OnlyMotion s t) : t.pending = s.pending := by
  rw [h.rest]

theorem OnlyMotion.now {s t : State} (h : OnlyMotion s t) : t.now = s.now := by
  rw [h.rest]

theorem OnlyMotion.mode {s t : State} (h : OnlyMotion s t) : t.mode = s.mode := by
  rw [h.rest]

theorem OnlyMotion.latch {s t : State} (h : OnlyMotion s t) : t.latch = s.latch := by
  rw [h.rest]

theorem OnlyMotion.points {s t : State} (h : OnlyMotion s t) : t.points = s.points := by
  rw [h.rest]

theorem OnlyMotion.inForce {s t : State} (h : OnlyMotion s t) : t.inForce = s.inForce := by
  rw [h.rest]

theorem OnlyMotion.att {s t : State} (h : OnlyMotion s t) : t.att = s.att := by
  rw [h.rest]

theorem OnlyMotion.lines {s t : State} (h : OnlyMotion s t) : t.lines = s.lines := by
  rw [h.rest]

/-! ### Elementary updates -/

theorem onlyMotion_updHatch (s : State) (h : Nat) (f : Hatch → Hatch)
    (hf : ∀ x, x.num = h → (f x).num = x.num) : OnlyMotion s (s.updHatch h f) :=
  ⟨rfl, rfl, map_updateKey Hatch.num Hatch.num h f hf s.hatches, rfl, rfl⟩

theorem onlyMotion_updOp (s : State) (h : Nat) (f : Op → Op)
    (hf : ∀ x, x.hatch = h → (f x).hatch = x.hatch) : OnlyMotion s (s.updOp h f) :=
  ⟨rfl, rfl, rfl, map_updateKey Op.hatch Op.hatch h f hf s.ops, rfl⟩

theorem onlyMotion_updClaim (s : State) (h : Nat) (f : Claim → Claim) :
    OnlyMotion s (s.updClaim h f) := ⟨rfl, rfl, rfl, rfl, rfl⟩

theorem onlyMotion_updPump (s : State) (n : Nat) (f : Pump → Pump)
    (hf : ∀ x, x.num = n → (f x).num = x.num) : OnlyMotion s (s.updPump n f) :=
  ⟨rfl, rfl, rfl, rfl, map_updateKey Pump.num Pump.num n f hf s.pumps⟩

theorem onlyMotion_updGrant (s : State) (h : Nat) (f : Grant → Grant) :
    OnlyMotion s (s.updGrant h f) := ⟨rfl, rfl, rfl, rfl, rfl⟩

theorem onlyMotion_setOut (s : State) (a p v : Nat) : OnlyMotion s (s.setOut a p v) :=
  ⟨rfl, map_updateKey Node.addr Node.still a (fun n => { n with outs := n.outs.set p v })
    (fun _ _ => rfl) s.nodes, rfl, rfl, rfl⟩

/-- After a motion-only change, an update of an operation record. -/
theorem OnlyMotion.updOp {s t : State} (k : OnlyMotion s t) (h : Nat) (f : Op → Op)
    (hf : ∀ x, x.hatch = h → (f x).hatch = x.hatch) : OnlyMotion s (t.updOp h f) :=
  k.trans (onlyMotion_updOp t h f hf)

/-- After a motion-only change, an update of a hatch record. -/
theorem OnlyMotion.updHatch {s t : State} (k : OnlyMotion s t) (h : Nat) (f : Hatch → Hatch)
    (hf : ∀ x, x.num = h → (f x).num = x.num) : OnlyMotion s (t.updHatch h f) :=
  k.trans (onlyMotion_updHatch t h f hf)

/-- After a motion-only change, an update of a pump record. -/
theorem OnlyMotion.updPump {s t : State} (k : OnlyMotion s t) (n : Nat) (f : Pump → Pump)
    (hf : ∀ x, x.num = n → (f x).num = x.num) : OnlyMotion s (t.updPump n f) :=
  k.trans (onlyMotion_updPump t n f hf)

/-- After a motion-only change, an update of the holder table. -/
theorem OnlyMotion.updClaim {s t : State} (k : OnlyMotion s t) (h : Nat) (f : Claim → Claim) :
    OnlyMotion s (t.updClaim h f) :=
  k.trans (onlyMotion_updClaim t h f)

theorem onlyMotion_drive (s : State) (r : Role) (h i v : Nat) :
    OnlyMotion s (s.drive r h i v) := by
  unfold State.drive
  split
  · exact onlyMotion_setOut ..
  · exact .refl s

theorem onlyMotion_drivePump (s : State) (n v : Nat) : OnlyMotion s (s.drivePump n v) := by
  unfold State.drivePump
  split
  · exact onlyMotion_setOut ..
  · exact .refl s

theorem onlyMotion_claimRun (s : State) (h : Nat) : OnlyMotion s (s.claimRun h) :=
  ⟨rfl, rfl, rfl, rfl, rfl⟩

theorem onlyMotion_claimStop (s : State) (h : Nat) : OnlyMotion s (s.claimStop h) :=
  ⟨rfl, rfl, rfl, rfl, rfl⟩

theorem onlyMotion_claimFree (s : State) (h : Nat) : OnlyMotion s (s.claimFree h) :=
  ⟨rfl, rfl, rfl, rfl, rfl⟩

theorem onlyMotion_claimGrant (s : State) (h l : Nat) : OnlyMotion s (s.claimGrant h l) :=
  ⟨rfl, rfl, rfl, rfl, rfl⟩

theorem onlyMotion_claimTouch (s : State) (h l : Nat) : OnlyMotion s (s.claimTouch h l) := by
  unfold State.claimTouch
  split
  · exact onlyMotion_claimRun ..
  · exact .refl s

theorem onlyMotion_joinQueue (s : State) (e : Entry) : OnlyMotion s (s.joinQueue e) :=
  ⟨rfl, rfl, rfl, rfl, rfl⟩

theorem onlyMotion_noteEntry (s : State) (h d : Nat) (b : Bool) :
    OnlyMotion s (s.noteEntry h d b) := ⟨rfl, rfl, rfl, rfl, rfl⟩

theorem onlyMotion_noteEmpty (s : State) : OnlyMotion s s.noteEmpty := by
  unfold State.noteEmpty
  split <;> exact ⟨rfl, rfl, rfl, rfl, rfl⟩

theorem onlyMotion_dropEntry (s : State) (h : Nat) : OnlyMotion s (s.dropEntry h) := by
  unfold State.dropEntry
  split
  · refine OnlyMotion.trans ?_ (onlyMotion_noteEmpty _)
    exact ⟨rfl, rfl, rfl, rfl, rfl⟩
  · exact .refl s

theorem onlyMotion_dropGrant (s : State) (h : Nat) : OnlyMotion s (s.dropGrant h) := by
  unfold State.dropGrant
  split
  · refine OnlyMotion.trans ?_ (onlyMotion_noteEmpty _)
    exact ⟨rfl, rfl, rfl, rfl, rfl⟩
  · exact .refl s

theorem onlyMotion_raiseAlarm (s : State) (c : AlarmCode) (sub : Subject) :
    OnlyMotion s (s.raiseAlarm c sub) := ⟨rfl, rfl, rfl, rfl, rfl⟩

theorem onlyMotion_clearAlarm (s : State) (c : AlarmCode) (sub : Subject) :
    OnlyMotion s (s.clearAlarm c sub) := ⟨rfl, rfl, rfl, rfl, rfl⟩

theorem onlyMotion_setAlarm (s : State) (b : Bool) (c : AlarmCode) (sub : Subject) :
    OnlyMotion s (s.setAlarm b c sub) := by
  unfold State.setAlarm
  split <;> exact ⟨rfl, rfl, rfl, rfl, rfl⟩

/-! ### Hatch Table and valves -/

theorem onlyMotion_refresh (s : State) (h : Nat) : OnlyMotion s (s.refresh h) := by
  unfold State.refresh
  split
  · exact .refl s
  · rename_i old hold
    dsimp only
    have num : ∀ x : Hatch, x.num = h → (s.deriveHatch old).num = x.num := by
      intro x hx
      have hn : old.num = h := by simpa using List.find?_some hold
      rw [hx, ← hn]
      rfl
    have step : ∀ (c : Prop) [Decidable c] (x y : State), OnlyMotion s x → OnlyMotion s y →
        OnlyMotion s (if c then x else y) := by
      intro c _ x y hx hy
      split <;> assumption
    have base := onlyMotion_updHatch s h (fun _ => s.deriveHatch old) num
    refine step _ _ _ (OnlyMotion.trans ?_ (onlyMotion_setAlarm ..)) ?_
    all_goals
      exact step _ _ _ base (base.trans (onlyMotion_setAlarm ..))

theorem onlyMotion_zeroRole (s : State) (r : Role) (h : Nat) (is : List Nat) :
    OnlyMotion s (s.zeroRole r h is) :=
  OnlyMotion.foldl (fun x i => onlyMotion_drive x r h i 0) is s

theorem onlyMotion_writeDriven (s : State) (hr : Hatch) (st : Step) (v : Nat) :
    OnlyMotion s (s.writeDriven hr st v) :=
  OnlyMotion.foldl (fun x i => onlyMotion_drive x st.driven hr.num i _) _ s

theorem onlyMotion_openValves (s : State) (hr : Hatch) (st : Step) (v : Nat) :
    OnlyMotion s (s.openValves hr st v) :=
  (onlyMotion_zeroRole ..).trans (onlyMotion_writeDriven ..)

theorem onlyMotion_shutValves (s : State) (h : Nat) (st : Step) :
    OnlyMotion s (s.shutValves h st) :=
  (onlyMotion_zeroRole ..).trans (onlyMotion_zeroRole ..)

theorem onlyMotion_shutAllValves (s : State) : OnlyMotion s s.shutAllValves :=
  OnlyMotion.foldl (fun x (p : Point) => onlyMotion_setOut x p.node p.point 0) _ s

/-! ### Hatch Engine -/

theorem onlyMotion_classifierIdle (s : State) (h : Nat) : OnlyMotion s (s.classifierIdle h) :=
  onlyMotion_updHatch _ _ _ fun _ _ => rfl

theorem onlyMotion_classifierStart (s : State) (h : Nat) : OnlyMotion s (s.classifierStart h) :=
  onlyMotion_updHatch _ _ _ fun _ _ => rfl

theorem onlyMotion_endMotion (s : State) (o : Op) : OnlyMotion s (s.endMotion o) := by
  unfold State.endMotion
  dsimp only
  refine OnlyMotion.trans ?_ (onlyMotion_classifierIdle ..)
  refine OnlyMotion.trans ?_ (onlyMotion_dropGrant ..)
  split
  · exact onlyMotion_shutValves ..
  · exact .refl s

theorem onlyMotion_haltOp (s : State) (h : Nat) (st : OpState) (r : Option HaltReason)
    (f : Option FaultKind) : OnlyMotion s (s.haltOp h st r f) := by
  unfold State.haltOp
  split
  · exact .refl s
  · dsimp only
    split
    · refine OnlyMotion.trans ?_ (onlyMotion_claimRun ..)
      exact (onlyMotion_endMotion ..).updOp _ _ fun _ _ => rfl
    · refine OnlyMotion.trans ?_ (onlyMotion_claimRun ..)
      exact (onlyMotion_dropEntry ..).updOp _ _ fun _ _ => rfl
    · exact .refl s

theorem onlyMotion_pauseOp (s : State) (h : Nat) (r : HaltReason) : OnlyMotion s (s.pauseOp h r) :=
  onlyMotion_haltOp ..

theorem onlyMotion_faultOp (s : State) (h : Nat) (f : FaultKind) : OnlyMotion s (s.faultOp h f) :=
  onlyMotion_haltOp ..

theorem onlyMotion_clearIdle (s : State) (h : Nat) : OnlyMotion s (s.clearIdle h) := by
  unfold State.clearIdle
  refine OnlyMotion.trans ?_ (onlyMotion_claimRun ..)
  refine OnlyMotion.trans ?_ (onlyMotion_clearAlarm ..)
  exact (OnlyMotion.refl s).updOp _ _ fun _ _ => rfl

theorem onlyMotion_claimLoss (s : State) (h : Nat) : OnlyMotion s (s.claimLoss h) := by
  unfold State.claimLoss
  split
  all_goals first
    | exact (onlyMotion_haltOp ..).trans (onlyMotion_clearIdle ..)
    | exact onlyMotion_clearIdle ..
    | exact .refl s

theorem onlyMotion_endDone (s : State) (h : Nat) : OnlyMotion s (s.endDone h) := by
  unfold State.endDone
  refine OnlyMotion.trans ?_ (onlyMotion_clearIdle ..)
  exact (OnlyMotion.refl s).updHatch _ _ fun _ _ => rfl

theorem onlyMotion_stopAtOffer (s : State) (h : Nat) (st : OpState) (r : HaltReason)
    (f : Option FaultKind) : OnlyMotion s (s.stopAtOffer h st r f) := by
  unfold State.stopAtOffer
  refine OnlyMotion.trans ?_ (onlyMotion_claimRun ..)
  exact (OnlyMotion.refl s).updOp _ _ fun _ _ => rfl

theorem onlyMotion_offerFrom (s : State) (hr : Hatch) (b : Bool) (p : List Step) :
    OnlyMotion s (s.offerFrom hr b p) := by
  induction p with
  | nil => exact onlyMotion_endDone ..
  | cons st rest ih =>
    unfold State.offerFrom
    split
    · exact ih
    · dsimp only
      have base := (OnlyMotion.refl s).updOp hr.num
        (fun o => { o with prog := st :: rest, start := none }) fun _ _ => rfl
      split
      · exact base.trans (onlyMotion_stopAtOffer ..)
      · split
        · exact base.trans (onlyMotion_stopAtOffer ..)
        · refine OnlyMotion.trans ?_ (onlyMotion_joinQueue ..)
          refine OnlyMotion.trans ?_ (onlyMotion_claimStop ..)
          exact base.updOp _ _ fun _ _ => rfl

theorem onlyMotion_complete (s : State) (h : Nat) : OnlyMotion s (s.complete h) := by
  unfold State.complete
  split
  · exact (onlyMotion_endMotion ..).trans (onlyMotion_offerFrom ..)
  · exact .refl s

theorem onlyMotion_testTarget (s : State) (h : Nat) : OnlyMotion s (s.testTarget h) := by
  unfold State.testTarget
  split
  · split
    · split
      · exact onlyMotion_complete ..
      · exact .refl s
    · exact .refl s
  · exact .refl s

theorem onlyMotion_recordDirection (s : State) (h : Nat) (st : Step) :
    OnlyMotion s (s.recordDirection h st) := by
  unfold State.recordDirection
  split
  · exact .refl s
  · refine OnlyMotion.trans ?_ (onlyMotion_refresh ..)
    exact (OnlyMotion.refl s).updHatch _ _ fun _ _ => rfl

theorem onlyMotion_takeGrant (s : State) (g : Grant) : OnlyMotion s (s.takeGrant g) := by
  unfold State.takeGrant
  split
  · exact .refl s
  · dsimp only
    refine OnlyMotion.trans ?_ (onlyMotion_testTarget ..)
    refine OnlyMotion.trans ?_ (onlyMotion_classifierStart ..)
    refine OnlyMotion.trans ?_ (onlyMotion_recordDirection ..)
    refine OnlyMotion.trans ?_ (onlyMotion_openValves ..)
    refine OnlyMotion.trans ?_ (onlyMotion_clearAlarm ..)
    exact (OnlyMotion.refl s).updOp _ _ fun _ _ => rfl

theorem onlyMotion_takeShed (s : State) (g : Grant) : OnlyMotion s (s.takeShed g) :=
  ((onlyMotion_shutValves ..).trans (onlyMotion_classifierIdle ..)).updOp _ _ fun _ _ => rfl

theorem onlyMotion_engineTakes (s : State) (h : Nat) : OnlyMotion s (s.engineTakes h) := by
  unfold State.engineTakes
  repeat' split
  all_goals first
    | exact .refl s
    | exact onlyMotion_faultOp ..
    | exact onlyMotion_testTarget ..
    | exact (onlyMotion_writeDriven ..).trans (onlyMotion_testTarget ..)

theorem onlyMotion_abortOp (s : State) (h : Nat) : OnlyMotion s (s.abortOp h) := by
  unfold State.abortOp
  split
  all_goals first
    | exact (onlyMotion_haltOp ..).trans (onlyMotion_clearIdle ..)
    | exact onlyMotion_clearIdle ..
    | exact onlyMotion_updOp _ _ _ fun _ _ => rfl
    | exact .refl s

theorem onlyMotion_abortAll (s : State) : OnlyMotion s s.abortAll :=
  (OnlyMotion.foldl onlyMotion_abortOp _ s).trans (onlyMotion_shutAllValves _)

theorem onlyMotion_release (s : State) (h : Nat) : OnlyMotion s (s.release h) :=
  (onlyMotion_claimFree ..).trans (onlyMotion_claimLoss ..)

theorem onlyMotion_releaseAll (s : State) : OnlyMotion s s.releaseAll :=
  OnlyMotion.foldl onlyMotion_release _ s

/-! ### Flow Arbiter -/

theorem onlyMotion_visitEntry (s : State) (e : Entry) : OnlyMotion s (s.visitEntry e) := by
  unfold State.visitEntry
  split
  · exact onlyMotion_pauseOp ..
  · exact onlyMotion_pauseOp ..
  · exact onlyMotion_noteEntry ..

theorem onlyMotion_removalPass (s : State) : OnlyMotion s s.removalPass :=
  OnlyMotion.foldl onlyMotion_visitEntry _ s

theorem onlyMotion_startPump (s : State) : OnlyMotion s s.startPump := by
  unfold State.startPump
  split
  · exact .refl s
  · split
    · exact .refl s
    · refine OnlyMotion.trans ?_ (onlyMotion_drivePump ..)
      exact (OnlyMotion.refl s).updPump _ _ fun _ _ => rfl

theorem onlyMotion_grantHead (s : State) (e : Entry) (d p : Nat) (b : Bool) :
    OnlyMotion s (s.grantHead e d p b) := by
  unfold State.grantHead
  refine OnlyMotion.trans ?_ (onlyMotion_takeGrant ..)
  exact ⟨rfl, rfl, rfl, rfl, rfl⟩

theorem onlyMotion_evalLoop (n : Nat) (s : State) : OnlyMotion s (State.evalLoop n s) := by
  induction n generalizing s with
  | zero => exact .refl s
  | succ n ih =>
    unfold State.evalLoop
    dsimp only
    refine (onlyMotion_removalPass s).trans ?_
    split
    · exact .refl _
    · split
      · split
        · exact (onlyMotion_grantHead ..).trans (ih _)
        · exact (onlyMotion_noteEntry ..).trans (onlyMotion_startPump ..)
      · exact .refl _

/-- An evaluation touches only hydraulic motion, pumps and alarms. -/
theorem onlyMotion_evaluate (s : State) : OnlyMotion s s.evaluate := onlyMotion_evalLoop ..

theorem onlyMotion_shedOne (s : State) (g : Grant) : OnlyMotion s (s.shedOne g) := by
  unfold State.shedOne
  refine OnlyMotion.trans ?_ (onlyMotion_takeShed ..)
  exact ⟨rfl, rfl, rfl, rfl, rfl⟩

theorem onlyMotion_shedLoop (gs : List Grant) (s : State) : OnlyMotion s (State.shedLoop gs s) := by
  induction gs generalizing s with
  | nil => exact .refl s
  | cons g gs ih =>
    unfold State.shedLoop
    split
    · exact .refl s
    · exact (onlyMotion_shedOne ..).trans (ih _)

theorem onlyMotion_takeBudget (s : State) : OnlyMotion s s.takeBudget := by
  unfold State.takeBudget
  dsimp only
  refine OnlyMotion.trans ?_ (onlyMotion_evaluate _)
  exact OnlyMotion.trans (t := { s with budget := s.computeB, maxB := s.computeMaxB })
    ⟨rfl, rfl, rfl, rfl, rfl⟩
    (onlyMotion_shedLoop ..)

theorem onlyMotion_enterBand (s : State) (b : Band) : OnlyMotion s (s.enterBand b) := by
  have base : OnlyMotion s { s with band := b } := ⟨rfl, rfl, rfl, rfl, rfl⟩
  unfold State.enterBand
  split
  · exact base.trans (onlyMotion_raiseAlarm ..)
  · split
    · exact base.trans (onlyMotion_clearAlarm ..)
    · exact base

theorem onlyMotion_rederiveBand (s : State) : OnlyMotion s s.rederiveBand := by
  unfold State.rederiveBand
  dsimp only
  split
  · exact .refl s
  · split
    · exact onlyMotion_enterBand ..
    · exact (onlyMotion_enterBand ..).trans (onlyMotion_takeBudget _)

theorem onlyMotion_followOne (s : State) (p h : Nat) : OnlyMotion s (s.followOne p h) := by
  unfold State.followOne
  split
  · dsimp only
    split
    · exact onlyMotion_updGrant ..
    · exact (onlyMotion_updGrant ..).trans (onlyMotion_writeDriven ..)
  · exact .refl s

theorem onlyMotion_axisHandOn (s : State) (c : Cover) (a b : Option Nat) :
    OnlyMotion s (s.axisHandOn c a b) := by
  unfold State.axisHandOn
  split
  · dsimp only
    split
    · exact OnlyMotion.foldl (fun x h => onlyMotion_followOne x _ h) _ s
    · exact (OnlyMotion.foldl (fun x h => onlyMotion_followOne x _ h) _ s).trans
        (onlyMotion_evaluate _)
  · exact (OnlyMotion.foldl (fun x h => onlyMotion_pauseOp x h .attitude) _ s).trans
      (onlyMotion_evaluate _)
  · exact onlyMotion_evaluate s
  · exact .refl s

theorem onlyMotion_hatchEvent (s : State) (h : Nat) : OnlyMotion s (s.hatchEvent h) := by
  unfold State.hatchEvent
  dsimp only
  split
  · exact (onlyMotion_refresh ..).trans (onlyMotion_engineTakes ..)
  · exact ((onlyMotion_refresh ..).trans (onlyMotion_engineTakes ..)).trans (onlyMotion_evaluate _)

/-! ### Pump Control -/

theorem onlyMotion_failPump (s : State) (n : Nat) : OnlyMotion s (s.failPump n) := by
  unfold State.failPump
  refine OnlyMotion.trans ?_ (onlyMotion_takeBudget _)
  refine OnlyMotion.trans ?_ (onlyMotion_raiseAlarm ..)
  refine OnlyMotion.trans ?_ (onlyMotion_drivePump ..)
  exact (OnlyMotion.refl s).updPump _ _ fun _ _ => rfl

theorem onlyMotion_pumpFeedback (s : State) (n : Nat) (b : Bool) :
    OnlyMotion s (s.pumpFeedback n b) := by
  unfold State.pumpFeedback
  repeat' split
  all_goals first
    | exact .refl s
    | exact onlyMotion_failPump ..
    | exact onlyMotion_updPump _ _ _ fun _ _ => rfl

theorem onlyMotion_pumpNodeLost (s : State) (n : Nat) : OnlyMotion s (s.pumpNodeLost n) := by
  unfold State.pumpNodeLost
  repeat' split
  all_goals first
    | exact .refl s
    | exact onlyMotion_failPump ..

theorem onlyMotion_stopPump (s : State) (n : Nat) : OnlyMotion s (s.stopPump n) := by
  unfold State.stopPump
  split
  · exact .refl s
  · split
    · exact .refl s
    · refine OnlyMotion.trans ?_ (onlyMotion_drivePump ..)
      exact (OnlyMotion.refl s).updPump _ _ fun _ _ => rfl

theorem onlyMotion_stopPumps (s : State) : OnlyMotion s s.stopPumps :=
  (OnlyMotion.foldl onlyMotion_stopPump _ s).trans ⟨rfl, rfl, rfl, rfl, rfl⟩

end Sys2Proof.Machine
end

