-- ==== Sys2Proof/Laws/Records.lean ====
section
/-! SUPPORT. Finding a record by its key after an update of the records of one key. -/

namespace Sys2Proof.Machine

/-- A record that is found has the key it was looked for by. -/
theorem findKey_key {α : Type} {key : α → Nat} {n : Nat} {l : List α} {x : α}
    (h : findKey key n l = some x) : key x = n := by
  simpa using List.find?_some h

/-- A record that is found is in the list. -/
theorem findKey_mem {α : Type} {key : α → Nat} {n : Nat} {l : List α} {x : α}
    (h : findKey key n l = some x) : x ∈ l :=
  List.mem_of_find?_eq_some h

/-- The updated record is found by its own key. -/
theorem findKey_updateKey_same {α : Type} (key : α → Nat) (n : Nat) (f : α → α)
    (hf : ∀ x, key x = n → key (f x) = n) (l : List α) :
    findKey key n (updateKey key n f l) = (findKey key n l).map f := by
  induction l with
  | nil => rfl
  | cons a l ih =>
    by_cases ha : key a = n
    · simp [findKey, updateKey, ha, hf a ha]
    · simpa [findKey, updateKey, ha] using ih

/-- Records of other keys are found as before. -/
theorem findKey_updateKey_ne {α : Type} (key : α → Nat) (n k : Nat) (hk : k ≠ n) (f : α → α)
    (hf : ∀ x, key x = n → key (f x) = n) (l : List α) :
    findKey key k (updateKey key n f l) = findKey key k l := by
  induction l with
  | nil => rfl
  | cons a l ih =>
    simp only [findKey, updateKey, List.map_cons, List.find?_cons] at ih ⊢
    by_cases ha : key a = n
    · have hn : (key (f a) == k) = false := by
        rw [hf a ha]; simpa using fun h => hk (Eq.symm h)
      have hm : (key a == k) = false := by rw [ha]; simpa using fun h => hk (Eq.symm h)
      simp only [ha, beq_self_eq_true, if_true, hn] at ih ⊢
      simp only [ha] at hm
      simp only [hm]
      exact ih
    · have hb : (key a == n) = false := by simpa using ha
      rw [hb]
      change (match key a == k with
        | true => some a
        | false => _) = _
      cases key a == k
      · exact ih
      · rfl

/-- With no two records of one key, a record of the list is the one found by its key. -/
theorem findKey_of_mem {α : Type} {key : α → Nat} {l : List α} (hl : (l.map key).Nodup) {x : α}
    (hx : x ∈ l) : findKey key (key x) l = some x := by
  induction l with
  | nil => cases hx
  | cons a l ih =>
    rw [List.map_cons, List.nodup_cons] at hl
    rcases List.mem_cons.mp hx with rfl | hm
    · simp [findKey]
    · have hne : key a ≠ key x := fun e => hl.1 (e ▸ List.mem_map_of_mem hm)
      simpa [findKey, hne] using ih hl.2 hm

/-- An update of the records of one key, record by record. -/
theorem mem_updateKey {α : Type} {key : α → Nat} {n : Nat} {f : α → α} {l : List α} {y : α} :
    y ∈ updateKey key n f l ↔ ∃ x ∈ l, y = if key x = n then f x else x := by
  constructor
  · intro h
    obtain ⟨x, hx, rfl⟩ := List.mem_map.mp h
    exact ⟨x, hx, by by_cases hk : key x = n <;> simp [hk]⟩
  · rintro ⟨x, hx, rfl⟩
    exact List.mem_map.mpr ⟨x, hx, by by_cases hk : key x = n <;> simp [hk]⟩

/-! ### The record that an update is about -/

theorem op?_updOp_same (s : State) (h : Nat) (f : Op → Op) (hf : ∀ x, (f x).hatch = x.hatch) :
    (s.updOp h f).op? h = (s.op? h).map f :=
  findKey_updateKey_same Op.hatch h f (fun x e => (hf x).trans e) s.ops

theorem hatch?_updHatch_same (s : State) (h : Nat) (f : Hatch → Hatch)
    (hf : ∀ x, (f x).num = x.num) : (s.updHatch h f).hatch? h = (s.hatch? h).map f :=
  findKey_updateKey_same Hatch.num h f (fun x e => (hf x).trans e) s.hatches

theorem claim?_updClaim_same (s : State) (h : Nat) (f : Claim → Claim)
    (hf : ∀ x, (f x).hatch = x.hatch) : (s.updClaim h f).claim? h = (s.claim? h).map f :=
  findKey_updateKey_same Claim.hatch h f (fun x e => (hf x).trans e) s.claims

theorem claim?_claimRun_same (s : State) (h : Nat) :
    (s.claimRun h).claim? h = (s.claim? h).map fun c =>
      if c.holder.isSome then { c with idle := some s.now } else c :=
  claim?_updClaim_same s h _ fun _ => by split <;> rfl

theorem claim?_claimStop_same (s : State) (h : Nat) :
    (s.claimStop h).claim? h = (s.claim? h).map fun c => { c with idle := none } :=
  claim?_updClaim_same s h (fun c => { c with idle := none }) fun _ => rfl

theorem claim?_claimFree_same (s : State) (h : Nat) :
    (s.claimFree h).claim? h = (s.claim? h).map fun c => { c with holder := none, idle := none } :=
  claim?_updClaim_same s h (fun c => { c with holder := none, idle := none }) fun _ => rfl

end Sys2Proof.Machine
end

