-- ==== Sys2Proof/Laws/Frames.lean ====
section
/-! SUPPORT. The Hatch Engine's operations on one hatch leave every other hatch as it is: its record,
operation, claim, queue entry and grant. -/

namespace Sys2Proof.Machine

/-! ### The relation -/

theorem SameOtherHatches.refl (s : State) (h : Nat) : SameOtherHatches s h s :=
  ⟨fun _ _ => rfl, fun _ _ => rfl, fun _ _ => rfl, fun _ _ => rfl, fun _ _ => rfl⟩

theorem SameOtherHatches.trans {s t u : State} {h : Nat} (a : SameOtherHatches s h t)
    (b : SameOtherHatches t h u) : SameOtherHatches s h u :=
  ⟨fun k hk => (b.hatch k hk).trans (a.hatch k hk), fun k hk => (b.op k hk).trans (a.op k hk),
    fun k hk => (b.claim k hk).trans (a.claim k hk),
    fun k hk => (b.entry k hk).trans (a.entry k hk),
    fun k hk => (b.grant k hk).trans (a.grant k hk)⟩

/-- A change outside the five lists leaves every hatch as it is. -/
theorem sameOther_of_eq {s t : State} (h : Nat) (h1 : t.hatches = s.hatches) (h2 : t.ops = s.ops)
    (h3 : t.claims = s.claims) (h4 : t.queue = s.queue) (h5 : t.granted = s.granted) :
    SameOtherHatches s h t := by
  constructor <;> intro k _ <;>
    simp only [State.hatch?, State.op?, State.claim?, State.entry?, State.grant?, h1, h2, h3, h4,
      h5]

theorem SameOtherHatches.foldl {α : Type} {h : Nat} {f : State → α → State}
    (hf : ∀ x a, SameOtherHatches x h (f x a)) (l : List α) (s : State) :
    SameOtherHatches s h (l.foldl f s) := by
  induction l generalizing s with
  | nil => exact .refl s h
  | cons a l ih => exact (hf s a).trans (ih _)

/-! ### Elementary updates -/

theorem sameOther_updHatch (s : State) (h : Nat) (f : Hatch → Hatch)
    (hf : ∀ x, x.num = h → (f x).num = x.num) : SameOtherHatches s h (s.updHatch h f) :=
  ⟨fun k hk => findKey_updateKey_ne Hatch.num h k hk f (fun x e => (hf x e).trans e) s.hatches,
    fun _ _ => rfl, fun _ _ => rfl, fun _ _ => rfl, fun _ _ => rfl⟩

theorem sameOther_updOp (s : State) (h : Nat) (f : Op → Op)
    (hf : ∀ x, x.hatch = h → (f x).hatch = x.hatch) : SameOtherHatches s h (s.updOp h f) :=
  ⟨fun _ _ => rfl,
    fun k hk => findKey_updateKey_ne Op.hatch h k hk f (fun x e => (hf x e).trans e) s.ops,
    fun _ _ => rfl, fun _ _ => rfl, fun _ _ => rfl⟩

theorem sameOther_updClaim (s : State) (h : Nat) (f : Claim → Claim)
    (hf : ∀ x, x.hatch = h → (f x).hatch = x.hatch) : SameOtherHatches s h (s.updClaim h f) :=
  ⟨fun _ _ => rfl, fun _ _ => rfl,
    fun k hk => findKey_updateKey_ne Claim.hatch h k hk f (fun x e => (hf x e).trans e) s.claims,
    fun _ _ => rfl, fun _ _ => rfl⟩

theorem sameOther_claimRun (s : State) (h : Nat) : SameOtherHatches s h (s.claimRun h) :=
  sameOther_updClaim _ _ _ fun x _ => by split <;> rfl

theorem sameOther_claimStop (s : State) (h : Nat) : SameOtherHatches s h (s.claimStop h) :=
  sameOther_updClaim _ _ _ fun _ _ => rfl

theorem sameOther_claimFree (s : State) (h : Nat) : SameOtherHatches s h (s.claimFree h) :=
  sameOther_updClaim _ _ _ fun _ _ => rfl

theorem sameOther_claimGrant (s : State) (h l : Nat) : SameOtherHatches s h (s.claimGrant h l) :=
  sameOther_updClaim _ _ _ fun _ _ => rfl

theorem sameOther_drive (s : State) (h : Nat) (r : Role) (n i v : Nat) :
    SameOtherHatches s h (s.drive r n i v) := by
  unfold State.drive
  split
  · exact sameOther_of_eq h rfl rfl rfl rfl rfl
  · exact .refl s h

theorem sameOther_raiseAlarm (s : State) (h : Nat) (c : AlarmCode) (sub : Subject) :
    SameOtherHatches s h (s.raiseAlarm c sub) := sameOther_of_eq h rfl rfl rfl rfl rfl

theorem sameOther_clearAlarm (s : State) (h : Nat) (c : AlarmCode) (sub : Subject) :
    SameOtherHatches s h (s.clearAlarm c sub) := sameOther_of_eq h rfl rfl rfl rfl rfl

theorem sameOther_setAlarm (s : State) (h : Nat) (b : Bool) (c : AlarmCode) (sub : Subject) :
    SameOtherHatches s h (s.setAlarm b c sub) := by
  unfold State.setAlarm
  split
  · exact sameOther_raiseAlarm ..
  · exact sameOther_clearAlarm ..

/-! ### Grant queue and granted set -/

/-- An entry of another hatch is found as before in a queue that has one more. -/
theorem find_insertEntry (e : Entry) (k : Nat) (hk : k ≠ e.hatch) (q : List Entry) :
    findKey Entry.hatch k (insertEntry e q) = findKey Entry.hatch k q := by
  have hne : (e.hatch == k) = false := by simpa using fun h => hk h.symm
  induction q with
  | nil => simp [insertEntry, findKey, hne]
  | cons x q ih =>
    unfold insertEntry
    split
    · simp [findKey, hne]
    · simp only [findKey, List.find?_cons] at ih ⊢
      rw [ih]

/-- A record of another key is found as before in a list from which a key was taken out. -/
theorem find_filter_ne {α : Type} (key : α → Nat) (h k : Nat) (hk : k ≠ h) (l : List α) :
    findKey key k (l.filter fun x => key x != h) = findKey key k l := by
  induction l with
  | nil => rfl
  | cons a l ih =>
    by_cases ha : key a = h
    · have h1 : (key a != h) = false := by simp [ha]
      have h2 : (key a == k) = false := by rw [ha]; simpa using fun e => hk (Eq.symm e)
      rw [List.filter_cons, if_neg (by simp [h1])]
      rw [ih]
      simp [findKey, h2]
    · have h1 : (key a != h) = true := by simpa using ha
      rw [List.filter_cons, if_pos h1]
      simp only [findKey, List.find?_cons] at ih ⊢
      rw [ih]

/-- Nothing of a key is found in a list from which it was taken out. -/
theorem find_filter_same {α : Type} (key : α → Nat) (h : Nat) (l : List α) :
    findKey key h (l.filter fun x => key x != h) = none := by
  simp [findKey, List.find?_eq_none]

theorem sameOther_noteEmpty (s : State) (h : Nat) : SameOtherHatches s h s.noteEmpty := by
  unfold State.noteEmpty
  split <;> exact sameOther_of_eq h rfl rfl rfl rfl rfl

theorem sameOther_joinQueue (s : State) (e : Entry) : SameOtherHatches s e.hatch (s.joinQueue e) :=
  ⟨fun _ _ => rfl, fun _ _ => rfl, fun _ _ => rfl,
    fun k hk => find_insertEntry e k hk s.queue, fun _ _ => rfl⟩

theorem sameOther_dropEntry (s : State) (h : Nat) : SameOtherHatches s h (s.dropEntry h) := by
  unfold State.dropEntry
  split
  · refine SameOtherHatches.trans ?_ (sameOther_noteEmpty ..)
    exact ⟨fun _ _ => rfl, fun _ _ => rfl, fun _ _ => rfl,
      fun k hk => find_filter_ne Entry.hatch h k hk s.queue, fun _ _ => rfl⟩
  · exact .refl s h

theorem sameOther_dropGrant (s : State) (h : Nat) : SameOtherHatches s h (s.dropGrant h) := by
  unfold State.dropGrant
  split
  · refine SameOtherHatches.trans ?_ (sameOther_noteEmpty ..)
    exact ⟨fun _ _ => rfl, fun _ _ => rfl, fun _ _ => rfl, fun _ _ => rfl,
      fun k hk => find_filter_ne Grant.hatch h k hk s.granted⟩
  · exact .refl s h

/-- A hatch has no entry after its entry has left. -/
theorem entry?_dropEntry (s : State) (h : Nat) : (s.dropEntry h).entry? h = none := by
  unfold State.dropEntry
  split
  · unfold State.noteEmpty
    split <;> exact find_filter_same Entry.hatch h s.queue
  · rename_i hn
    simpa using hn

/-- A hatch has no grant after its grant has left. -/
theorem grant?_dropGrant (s : State) (h : Nat) : (s.dropGrant h).grant? h = none := by
  unfold State.dropGrant
  split
  · unfold State.noteEmpty
    split <;> exact find_filter_same Grant.hatch h s.granted
  · rename_i hn
    simpa using hn

theorem sameOther_noteEntry (s : State) (h d : Nat) (b : Bool) :
    SameOtherHatches s h (s.noteEntry h d b) :=
  ⟨fun _ _ => rfl, fun _ _ => rfl, fun _ _ => rfl,
    fun k hk => findKey_updateKey_ne Entry.hatch h k hk
      (fun e => { e with demand := some d, blocked := b }) (fun _ e => e) s.queue,
    fun _ _ => rfl⟩

/-! ### Hatch Engine -/

theorem sameOther_refresh (s : State) (h : Nat) : SameOtherHatches s h (s.refresh h) := by
  unfold State.refresh
  split
  · exact .refl s h
  · rename_i old hold
    dsimp only
    have hnum : old.num = h := findKey_key hold
    have base : SameOtherHatches s h (s.updHatch h fun _ => s.deriveHatch old) :=
      sameOther_updHatch _ _ _ fun x e => hnum.trans e.symm
    split
    · refine SameOtherHatches.trans ?_ (sameOther_setAlarm ..)
      split
      · exact base
      · exact base.trans (sameOther_setAlarm ..)
    · split
      · exact base
      · exact base.trans (sameOther_setAlarm ..)

theorem sameOther_zeroRole (s : State) (h : Nat) (r : Role) (n : Nat) (is : List Nat) :
    SameOtherHatches s h (s.zeroRole r n is) :=
  SameOtherHatches.foldl (fun x i => sameOther_drive x h r n i 0) is s

theorem sameOther_writeDriven (s : State) (h : Nat) (hr : Hatch) (st : Step) (v : Nat) :
    SameOtherHatches s h (s.writeDriven hr st v) :=
  SameOtherHatches.foldl (fun x i => sameOther_drive x h st.driven hr.num i _) _ s

theorem sameOther_openValves (s : State) (h : Nat) (hr : Hatch) (st : Step) (v : Nat) :
    SameOtherHatches s h (s.openValves hr st v) :=
  (sameOther_zeroRole ..).trans (sameOther_writeDriven ..)

theorem sameOther_shutValves (s : State) (h n : Nat) (st : Step) :
    SameOtherHatches s h (s.shutValves n st) :=
  (sameOther_zeroRole ..).trans (sameOther_zeroRole ..)

theorem sameOther_classifierIdle (s : State) (h : Nat) :
    SameOtherHatches s h (s.classifierIdle h) :=
  sameOther_updHatch _ _ _ fun _ _ => rfl

theorem sameOther_endMotion (s : State) (o : Op) : SameOtherHatches s o.hatch (s.endMotion o) := by
  unfold State.endMotion
  dsimp only
  refine SameOtherHatches.trans ?_ (sameOther_classifierIdle ..)
  refine SameOtherHatches.trans ?_ (sameOther_dropGrant ..)
  split
  · exact sameOther_shutValves ..
  · exact .refl s o.hatch

theorem sameOther_haltOp (s : State) (h : Nat) (st : OpState) (r : Option HaltReason)
    (f : Option FaultKind) : SameOtherHatches s h (s.haltOp h st r f) := by
  unfold State.haltOp
  split
  · exact .refl s h
  · rename_i o ho
    have hh : o.hatch = h := findKey_key ho
    dsimp only
    split
    · refine SameOtherHatches.trans ?_ (sameOther_claimRun ..)
      refine SameOtherHatches.trans ?_ (sameOther_updOp _ _ _ fun _ _ => rfl)
      exact hh ▸ sameOther_endMotion s o
    · refine SameOtherHatches.trans ?_ (sameOther_claimRun ..)
      refine SameOtherHatches.trans ?_ (sameOther_updOp _ _ _ fun _ _ => rfl)
      exact sameOther_dropEntry s h
    · exact .refl s h

theorem sameOther_pauseOp (s : State) (h : Nat) (r : HaltReason) :
    SameOtherHatches s h (s.pauseOp h r) := sameOther_haltOp ..

theorem sameOther_faultOp (s : State) (h : Nat) (f : FaultKind) :
    SameOtherHatches s h (s.faultOp h f) := sameOther_haltOp ..

theorem sameOther_clearIdle (s : State) (h : Nat) : SameOtherHatches s h (s.clearIdle h) := by
  unfold State.clearIdle
  refine SameOtherHatches.trans ?_ (sameOther_claimRun ..)
  refine SameOtherHatches.trans ?_ (sameOther_clearAlarm ..)
  exact sameOther_updOp _ _ _ fun _ _ => rfl

theorem sameOther_claimLoss (s : State) (h : Nat) : SameOtherHatches s h (s.claimLoss h) := by
  unfold State.claimLoss
  split
  all_goals first
    | exact (sameOther_haltOp ..).trans (sameOther_clearIdle ..)
    | exact sameOther_clearIdle ..
    | exact .refl s h

theorem sameOther_release (s : State) (h : Nat) : SameOtherHatches s h (s.release h) :=
  (sameOther_claimFree ..).trans (sameOther_claimLoss ..)

theorem sameOther_endDone (s : State) (h : Nat) : SameOtherHatches s h (s.endDone h) := by
  unfold State.endDone
  refine SameOtherHatches.trans ?_ (sameOther_clearIdle ..)
  exact sameOther_updHatch _ _ _ fun _ _ => rfl

theorem sameOther_stopAtOffer (s : State) (h : Nat) (st : OpState) (r : HaltReason)
    (f : Option FaultKind) : SameOtherHatches s h (s.stopAtOffer h st r f) := by
  unfold State.stopAtOffer
  refine SameOtherHatches.trans ?_ (sameOther_claimRun ..)
  exact sameOther_updOp _ _ _ fun _ _ => rfl

theorem sameOther_offerFrom (s : State) (hr : Hatch) (b : Bool) (p : List Step) :
    SameOtherHatches s hr.num (s.offerFrom hr b p) := by
  induction p with
  | nil => exact sameOther_endDone ..
  | cons st rest ih =>
    unfold State.offerFrom
    split
    · exact ih
    · dsimp only
      have base := sameOther_updOp s hr.num
        (fun o => { o with prog := st :: rest, start := none }) fun _ _ => rfl
      split
      · exact base.trans (sameOther_stopAtOffer ..)
      · split
        · exact base.trans (sameOther_stopAtOffer ..)
        · refine SameOtherHatches.trans ?_
            (sameOther_joinQueue _ ⟨hr.num, st, b, s.entryTime, none, false⟩)
          refine SameOtherHatches.trans ?_ (sameOther_claimStop ..)
          exact base.trans (sameOther_updOp _ _ _ fun _ _ => rfl)

theorem sameOther_complete (s : State) (h : Nat) : SameOtherHatches s h (s.complete h) := by
  unfold State.complete
  split
  · rename_i o hr ho hh
    have h1 : o.hatch = h := findKey_key ho
    have h2 : hr.num = h := findKey_key hh
    have a := sameOther_endMotion s o
    have b := sameOther_offerFrom (s.endMotion o) hr o.kind.isClosing o.prog.tail
    rw [h1] at a
    rw [h2] at b
    exact a.trans b
  · exact .refl s h

theorem sameOther_testTarget (s : State) (h : Nat) : SameOtherHatches s h (s.testTarget h) := by
  unfold State.testTarget
  split
  · split
    · split
      · exact sameOther_complete ..
      · exact .refl s h
    · exact .refl s h
  · exact .refl s h

theorem sameOther_recordDirection (s : State) (h : Nat) (st : Step) :
    SameOtherHatches s h (s.recordDirection h st) := by
  unfold State.recordDirection
  split
  · exact .refl s h
  · refine SameOtherHatches.trans ?_ (sameOther_refresh ..)
    exact sameOther_updHatch _ _ _ fun _ _ => rfl

theorem sameOther_classifierStart (s : State) (h : Nat) :
    SameOtherHatches s h (s.classifierStart h) :=
  sameOther_updHatch _ _ _ fun _ _ => rfl

theorem sameOther_takeGrant (s : State) (g : Grant) :
    SameOtherHatches s g.hatch (s.takeGrant g) := by
  unfold State.takeGrant
  split
  · exact .refl s g.hatch
  · dsimp only
    refine SameOtherHatches.trans ?_ (sameOther_testTarget ..)
    refine SameOtherHatches.trans ?_ (sameOther_classifierStart ..)
    refine SameOtherHatches.trans ?_ (sameOther_recordDirection ..)
    refine SameOtherHatches.trans ?_ (sameOther_openValves ..)
    refine SameOtherHatches.trans ?_ (sameOther_clearAlarm ..)
    exact sameOther_updOp _ _ _ fun _ _ => rfl

theorem sameOther_engineTakes (s : State) (h : Nat) :
    SameOtherHatches s h (s.engineTakes h) := by
  unfold State.engineTakes
  split
  · split
    · split
      · exact sameOther_faultOp ..
      · exact .refl s h
    · split
      · exact sameOther_faultOp ..
      · split
        · refine SameOtherHatches.trans ?_ (sameOther_testTarget ..)
          split
          · exact sameOther_writeDriven ..
          · exact .refl s h
        · exact .refl s h
    · exact .refl s h
  · exact .refl s h

theorem sameOther_drivePump (s : State) (h n v : Nat) :
    SameOtherHatches s h (s.drivePump n v) := by
  unfold State.drivePump
  split <;> exact sameOther_of_eq h rfl rfl rfl rfl rfl

theorem sameOther_startPump (s : State) (h : Nat) : SameOtherHatches s h s.startPump := by
  unfold State.startPump
  split
  · exact .refl s h
  · split
    · exact .refl s h
    · refine SameOtherHatches.trans ?_ (sameOther_drivePump ..)
      exact sameOther_of_eq h rfl rfl rfl rfl rfl

end Sys2Proof.Machine
end

