-- ==== Sys2Proof/Laws/Holders.lean ====
section
/-! SUPPORT. The Hatch Engine, the Flow Arbiter and Pump Control change no holder: only TAKE and the
releases do (R118). -/

namespace Sys2Proof.Machine

/-! ### Elementary updates -/

theorem holders_updClaim (s : State) (h : Nat) (f : Claim → Claim)
    (hf : ∀ c, ((f c).hatch, (f c).holder) = (c.hatch, c.holder)) :
    (s.updClaim h f).holders = s.holders :=
  map_updateKey Claim.hatch (fun c => (c.hatch, c.holder)) h f (fun c _ => hf c) s.claims

theorem holders_foldl {α : Type} {f : State → α → State} (hf : ∀ x a, (f x a).holders = x.holders)
    (l : List α) (s : State) : (l.foldl f s).holders = s.holders := by
  induction l generalizing s with
  | nil => rfl
  | cons a l ih => exact (ih _).trans (hf s a)

@[simp] theorem holders_updOp (s : State) (h : Nat) (f : Op → Op) :
    (s.updOp h f).holders = s.holders := rfl

@[simp] theorem holders_updHatch (s : State) (h : Nat) (f : Hatch → Hatch) :
    (s.updHatch h f).holders = s.holders := rfl

@[simp] theorem holders_updPump (s : State) (n : Nat) (f : Pump → Pump) :
    (s.updPump n f).holders = s.holders := rfl

@[simp] theorem holders_updGrant (s : State) (h : Nat) (f : Grant → Grant) :
    (s.updGrant h f).holders = s.holders := rfl

@[simp] theorem holders_raiseAlarm (s : State) (c : AlarmCode) (sub : Subject) :
    (s.raiseAlarm c sub).holders = s.holders := rfl

@[simp] theorem holders_clearAlarm (s : State) (c : AlarmCode) (sub : Subject) :
    (s.clearAlarm c sub).holders = s.holders := rfl

@[simp] theorem holders_setAlarm (s : State) (b : Bool) (c : AlarmCode) (sub : Subject) :
    (s.setAlarm b c sub).holders = s.holders := by
  cases b <;> rfl

@[simp] theorem holders_noteEntry (s : State) (h d : Nat) (b : Bool) :
    (s.noteEntry h d b).holders = s.holders := rfl

@[simp] theorem holders_joinQueue (s : State) (e : Entry) : (s.joinQueue e).holders = s.holders :=
  rfl

@[simp] theorem holders_claimRun (s : State) (h : Nat) : (s.claimRun h).holders = s.holders :=
  holders_updClaim _ _ _ fun c => by split <;> rfl

@[simp] theorem holders_claimStop (s : State) (h : Nat) : (s.claimStop h).holders = s.holders :=
  holders_updClaim _ _ _ fun _ => rfl

@[simp] theorem holders_claimTouch (s : State) (h l : Nat) :
    (s.claimTouch h l).holders = s.holders := by
  unfold State.claimTouch
  split
  · exact holders_claimRun ..
  · rfl

@[simp] theorem holders_drive (s : State) (r : Role) (h i v : Nat) :
    (s.drive r h i v).holders = s.holders := by
  unfold State.drive
  split <;> rfl

@[simp] theorem holders_drivePump (s : State) (n v : Nat) :
    (s.drivePump n v).holders = s.holders := by
  unfold State.drivePump
  split <;> rfl

@[simp] theorem holders_noteEmpty (s : State) : s.noteEmpty.holders = s.holders := by
  unfold State.noteEmpty
  split <;> rfl

@[simp] theorem holders_dropEntry (s : State) (h : Nat) : (s.dropEntry h).holders = s.holders := by
  unfold State.dropEntry
  split
  · exact holders_noteEmpty _
  · rfl

@[simp] theorem holders_dropGrant (s : State) (h : Nat) : (s.dropGrant h).holders = s.holders := by
  unfold State.dropGrant
  split
  · exact holders_noteEmpty _
  · rfl

/-! ### Hatch Engine -/

@[simp] theorem holders_refresh (s : State) (h : Nat) : (s.refresh h).holders = s.holders := by
  unfold State.refresh
  split
  · rfl
  · dsimp only
    repeat' split
    all_goals simp

@[simp] theorem holders_zeroRole (s : State) (r : Role) (h : Nat) (is : List Nat) :
    (s.zeroRole r h is).holders = s.holders :=
  holders_foldl (fun _ _ => holders_drive ..) is s

@[simp] theorem holders_writeDriven (s : State) (hr : Hatch) (st : Step) (v : Nat) :
    (s.writeDriven hr st v).holders = s.holders :=
  holders_foldl (fun _ _ => holders_drive ..) _ s

@[simp] theorem holders_openValves (s : State) (hr : Hatch) (st : Step) (v : Nat) :
    (s.openValves hr st v).holders = s.holders := by
  simp [State.openValves]

@[simp] theorem holders_shutValves (s : State) (h : Nat) (st : Step) :
    (s.shutValves h st).holders = s.holders := by
  simp [State.shutValves]

@[simp] theorem holders_classifierIdle (s : State) (h : Nat) :
    (s.classifierIdle h).holders = s.holders := rfl

@[simp] theorem holders_classifierStart (s : State) (h : Nat) :
    (s.classifierStart h).holders = s.holders := rfl

@[simp] theorem holders_endMotion (s : State) (o : Op) : (s.endMotion o).holders = s.holders := by
  unfold State.endMotion
  cases o.step? <;> simp

@[simp] theorem holders_haltOp (s : State) (h : Nat) (st : OpState) (r : Option HaltReason)
    (f : Option FaultKind) : (s.haltOp h st r f).holders = s.holders := by
  unfold State.haltOp
  dsimp only
  repeat' split
  all_goals simp

@[simp] theorem holders_pauseOp (s : State) (h : Nat) (r : HaltReason) :
    (s.pauseOp h r).holders = s.holders := holders_haltOp ..

@[simp] theorem holders_faultOp (s : State) (h : Nat) (f : FaultKind) :
    (s.faultOp h f).holders = s.holders := holders_haltOp ..

@[simp] theorem holders_clearIdle (s : State) (h : Nat) : (s.clearIdle h).holders = s.holders := by
  simp [State.clearIdle]

@[simp] theorem holders_claimLoss (s : State) (h : Nat) : (s.claimLoss h).holders = s.holders := by
  unfold State.claimLoss
  split <;> simp

@[simp] theorem holders_endDone (s : State) (h : Nat) : (s.endDone h).holders = s.holders := by
  simp [State.endDone]

@[simp] theorem holders_stopAtOffer (s : State) (h : Nat) (st : OpState) (r : HaltReason)
    (f : Option FaultKind) : (s.stopAtOffer h st r f).holders = s.holders := by
  simp [State.stopAtOffer]

@[simp] theorem holders_offerFrom (s : State) (hr : Hatch) (b : Bool) (p : List Step) :
    (s.offerFrom hr b p).holders = s.holders := by
  induction p with
  | nil => exact holders_endDone ..
  | cons st rest ih =>
    unfold State.offerFrom
    dsimp only
    repeat' split
    all_goals simp [ih]

@[simp] theorem holders_complete (s : State) (h : Nat) : (s.complete h).holders = s.holders := by
  unfold State.complete
  split <;> simp

@[simp] theorem holders_testTarget (s : State) (h : Nat) :
    (s.testTarget h).holders = s.holders := by
  unfold State.testTarget
  repeat' split
  all_goals simp

@[simp] theorem holders_recordDirection (s : State) (h : Nat) (st : Step) :
    (s.recordDirection h st).holders = s.holders := by
  unfold State.recordDirection
  split <;> simp

@[simp] theorem holders_takeGrant (s : State) (g : Grant) : (s.takeGrant g).holders = s.holders := by
  unfold State.takeGrant
  split <;> simp

@[simp] theorem holders_takeShed (s : State) (g : Grant) : (s.takeShed g).holders = s.holders := by
  simp [State.takeShed]

@[simp] theorem holders_engineTakes (s : State) (h : Nat) :
    (s.engineTakes h).holders = s.holders := by
  unfold State.engineTakes
  repeat' split
  all_goals simp

@[simp] theorem holders_abortOp (s : State) (h : Nat) : (s.abortOp h).holders = s.holders := by
  unfold State.abortOp
  split <;> simp

@[simp] theorem holders_shutAllValves (s : State) : s.shutAllValves.holders = s.holders :=
  holders_foldl (f := fun (x : State) (p : Point) => x.setOut p.node p.point 0) (fun _ _ => rfl) _ s

@[simp] theorem holders_abortAll (s : State) : s.abortAll.holders = s.holders :=
  (holders_shutAllValves _).trans (holders_foldl (fun _ _ => holders_abortOp ..) _ s)

/-! ### Flow Arbiter and Pump Control -/

@[simp] theorem holders_visitEntry (s : State) (e : Entry) :
    (s.visitEntry e).holders = s.holders := by
  unfold State.visitEntry
  split <;> simp

@[simp] theorem holders_removalPass (s : State) : s.removalPass.holders = s.holders :=
  holders_foldl (fun _ _ => holders_visitEntry ..) _ s

@[simp] theorem holders_startPump (s : State) : s.startPump.holders = s.holders := by
  unfold State.startPump
  repeat' split
  all_goals simp

@[simp] theorem holders_grantHead (s : State) (e : Entry) (d p : Nat) (b : Bool) :
    (s.grantHead e d p b).holders = s.holders :=
  holders_takeGrant _ _

theorem holders_evalLoop (n : Nat) (s : State) : (State.evalLoop n s).holders = s.holders := by
  induction n generalizing s with
  | zero => rfl
  | succ n ih =>
    unfold State.evalLoop
    dsimp only
    repeat' split
    all_goals simp [ih]

/-- An evaluation changes no holder. -/
@[simp] theorem holders_evaluate (s : State) : s.evaluate.holders = s.holders :=
  holders_evalLoop ..

@[simp] theorem holders_shedOne (s : State) (g : Grant) : (s.shedOne g).holders = s.holders :=
  holders_takeShed _ _

theorem holders_shedLoop (gs : List Grant) (s : State) :
    (State.shedLoop gs s).holders = s.holders := by
  induction gs generalizing s with
  | nil => rfl
  | cons g gs ih =>
    unfold State.shedLoop
    split
    · rfl
    · simp [ih]

@[simp] theorem holders_takeBudget (s : State) : s.takeBudget.holders = s.holders := by
  unfold State.takeBudget
  rw [holders_evaluate, holders_shedLoop]
  rfl

@[simp] theorem holders_rederiveBand (s : State) : s.rederiveBand.holders = s.holders := by
  unfold State.rederiveBand State.enterBand
  dsimp only
  repeat' split
  all_goals first
    | rfl
    | exact (holders_takeBudget _).trans rfl

@[simp] theorem holders_followOne (s : State) (p h : Nat) :
    (s.followOne p h).holders = s.holders := by
  unfold State.followOne
  dsimp only
  repeat' split
  all_goals simp

@[simp] theorem holders_axisHandOn (s : State) (c : Cover) (a b : Option Nat) :
    (s.axisHandOn c a b).holders = s.holders := by
  have h1 : ∀ p, ((s.grantedOn c).foldl (fun x h => x.followOne p h) s).holders = s.holders :=
    fun p => holders_foldl (fun _ _ => holders_followOne ..) _ s
  have h2 : ((s.grantedOn c).foldl (fun x h => x.pauseOp h .attitude) s).holders = s.holders :=
    holders_foldl (fun _ _ => holders_pauseOp ..) _ s
  unfold State.axisHandOn
  dsimp only
  repeat' split
  all_goals simp [h1, h2]

@[simp] theorem holders_hatchEvent (s : State) (h : Nat) :
    (s.hatchEvent h).holders = s.holders := by
  unfold State.hatchEvent
  dsimp only
  split <;> simp

@[simp] theorem holders_failPump (s : State) (n : Nat) : (s.failPump n).holders = s.holders := by
  simp [State.failPump]

@[simp] theorem holders_stopPump (s : State) (n : Nat) : (s.stopPump n).holders = s.holders := by
  unfold State.stopPump
  repeat' split
  all_goals simp

@[simp] theorem holders_stopPumps (s : State) : s.stopPumps.holders = s.holders :=
  holders_foldl (fun _ _ => holders_stopPump ..) _ s

end Sys2Proof.Machine
end

