-- ==== Sys2Proof/Laws/Items.lean ====
section
/-! SUPPORT. Writing one configuration item keeps the canonical form, and is read back (R171,
R173). -/

namespace Sys2Proof.Machine

theorem itemsFrom_mono {lo lo' : Nat} (h : lo' ≤ lo) {c : Items} (hc : itemsFrom lo c = true) :
    itemsFrom lo' c = true := by
  cases c with
  | nil => rfl
  | cons e rest =>
    simp only [itemsFrom, Bool.and_eq_true, decide_eq_true_eq] at hc ⊢
    exact ⟨⟨h.trans hc.1.1, hc.1.2⟩, hc.2⟩

/-- No key of a list in form lies below its bound. -/
theorem itemsFrom_le {lo : Nat} {c : Items} (hc : itemsFrom lo c = true) :
    ∀ e ∈ c, lo ≤ e.1 := by
  induction c generalizing lo with
  | nil => simp
  | cons e rest ih =>
    simp only [itemsFrom, Bool.and_eq_true, decide_eq_true_eq] at hc
    intro x hx
    rcases List.mem_cons.mp hx with rfl | hx
    · exact hc.1.1
    · exact (Nat.le_succ_of_le hc.1.1).trans (ih hc.2 x hx)

theorem itemsFrom_putItem {lo k : Nat} (hk : lo ≤ k) (v : Word) {c : Items}
    (hc : itemsFrom lo c = true) :
    itemsFrom lo (putItem k v (v != itemDefault (k / 256) (k % 256)) c) = true := by
  induction c generalizing lo with
  | nil =>
    unfold putItem
    split
    · rename_i h
      simp only [itemsFrom, Bool.and_eq_true, decide_eq_true_eq, Bool.and_true]
      exact ⟨hk, h⟩
    · rfl
  | cons e rest ih =>
    have hc0 := hc
    simp only [itemsFrom, Bool.and_eq_true, decide_eq_true_eq] at hc
    unfold putItem
    split
    · rename_i hlt
      split
      · rename_i h
        simp only [itemsFrom, Bool.and_eq_true, decide_eq_true_eq]
        exact ⟨⟨hk, h⟩, ⟨hlt, hc.1.2⟩, hc.2⟩
      · exact hc0
    · split
      · rename_i heq
        split
        · rename_i h
          simp only [itemsFrom, Bool.and_eq_true, decide_eq_true_eq]
          exact ⟨⟨hk, h⟩, heq ▸ hc.2⟩
        · exact itemsFrom_mono (by omega) hc.2
      · rename_i h1 h2
        simp only [itemsFrom, Bool.and_eq_true, decide_eq_true_eq]
        exact ⟨hc.1, ih (by omega) hc.2⟩

/-- A key of an item gives back its code and index. -/
theorem itemKey_div {code idx : Nat} (h : idx < 256) : itemKey code idx / 256 = code := by
  unfold itemKey; omega

theorem itemKey_mod {code idx : Nat} (h : idx < 256) : itemKey code idx % 256 = idx := by
  unfold itemKey; omega

theorem itemKey_inj {code idx code' idx' : Nat} (h : idx < 256) (h' : idx' < 256) :
    itemKey code idx = itemKey code' idx' ↔ code = code' ∧ idx = idx' := by
  unfold itemKey; omega

/-- Writing an item keeps the canonical form. -/
theorem itemsWf_setItem {c : Items} (hc : itemsWf c = true) {code idx : Nat} (h : idx < 256)
    (v : Word) : itemsWf (setItem c code idx v) = true := by
  have := itemsFrom_putItem (Nat.zero_le (itemKey code idx)) v hc
  rwa [itemKey_div h, itemKey_mod h] at this

/-- The entry found under a key after a write. -/
theorem find_putItem {lo k : Nat} (v : Word) (keep : Bool) {c : Items}
    (hc : itemsFrom lo c = true) (n : Nat) :
    ((putItem k v keep c).find? fun e => e.1 == n) =
      if n = k then (if keep then some (k, v) else none) else c.find? fun e => e.1 == n := by
  induction c generalizing lo with
  | nil =>
    by_cases hn : n = k <;> cases keep <;> simp [putItem, hn, Ne.symm]
  | cons e rest ih =>
    simp only [itemsFrom, Bool.and_eq_true, decide_eq_true_eq] at hc
    have above := itemsFrom_le hc.2
    have skip : ∀ m, m ≤ e.1 → rest.find? (fun x => x.1 == m) = none := by
      intro m hm
      rw [List.find?_eq_none]
      intro x hx
      have := above x hx
      simp; omega
    unfold putItem
    by_cases hlt : k < e.1
    · rw [if_pos hlt]
      by_cases hn : n = k
      · subst hn
        have hne : (e.1 == n) = false := by simp; omega
        cases keep
        · simp [hne, skip n (by omega)]
        · simp
      · have hkn : (k == n) = false := by simpa using fun h => hn h.symm
        cases keep <;> simp [hn, hkn]
    · rw [if_neg hlt]
      by_cases heq : k = e.1
      · rw [if_pos heq]
        by_cases hn : n = k
        · cases keep
          · simp [hn, skip k (by omega)]
          · simp [hn]
        · have hkn : (k == n) = false := by simpa using fun h => hn h.symm
          have hen : (e.1 == n) = false := by rw [← heq]; exact hkn
          cases keep <;> simp [hn, hkn, hen]
      · rw [if_neg heq]
        rw [List.find?_cons, List.find?_cons, ih hc.2]
        by_cases hen : e.1 = n
        · have : n ≠ k := by omega
          simp [hen, this]
        · have : (e.1 == n) = false := by simpa using hen
          simp [this]

/-- An item reads as it was last written, and every other item as before. -/
theorem getItem_setItem {c : Items} (hc : itemsWf c = true) {code idx code' idx' : Nat}
    (h : idx < 256) (h' : idx' < 256) (v : Word) :
    getItem (setItem c code idx v) code' idx' =
      if code' = code ∧ idx' = idx then v else getItem c code' idx' := by
  unfold getItem setItem
  rw [find_putItem v _ hc]
  by_cases hk : code' = code ∧ idx' = idx
  · obtain ⟨rfl, rfl⟩ := hk
    by_cases hv : v = itemDefault code' idx' <;> simp [hv]
  · have : itemKey code' idx' ≠ itemKey code idx := fun e => hk ((itemKey_inj h' h).mp e)
    simp [hk, this]

end Sys2Proof.Machine
end

