-- ==== Sys2Proof/Laws/Lines.lean ====
section
/-! SUPPORT. What a telegram, an answer and the transmitter change: the record of their own line and
the model's free counter, nothing else. -/

namespace Sys2Proof.Machine

/-! ### The relation -/

theorem OnlyLines.refl (s : State) : OnlyLines s s := rfl

theorem OnlyLines.trans {s t u : State} (h : OnlyLines s t) (k : OnlyLines t u) :
    OnlyLines s u := by
  unfold OnlyLines at *
  rw [h] at k
  exact k

theorem onlyLines_updLine (s : State) (l : Nat) (f : Line → Line) : OnlyLines s (s.updLine l f) :=
  rfl

/-! ### Finding a line -/

theorem line?_updLine_same (s : State) (l : Nat) (f : Line → Line) (hf : ∀ x, (f x).num = x.num) :
    (s.updLine l f).line? l = (s.line? l).map f :=
  findKey_updateKey_same Line.num l f (fun x h => (hf x).trans h) s.lines

theorem line?_updLine_ne (s : State) (l k : Nat) (hk : k ≠ l) (f : Line → Line)
    (hf : ∀ x, (f x).num = x.num) : (s.updLine l f).line? k = s.line? k :=
  findKey_updateKey_ne Line.num l k hk f (fun x h => (hf x).trans h) s.lines

theorem line?_num {s : State} {l : Nat} {ln : Line} (h : s.line? l = some ln) : ln.num = l :=
  findKey_key h

@[simp] theorem line?_advance (s : State) (dt l : Nat) : (s.advance dt).line? l = s.line? l := rfl

/-! ### Transmitter and answers -/

theorem nextFrame_num (r : Frame) (ln : Line) : (ln.nextFrame r).num = ln.num := by
  unfold Line.nextFrame
  repeat' split
  all_goals rfl

theorem queued_num (a : Answer) (ln : Line) : (ln.queued a).num = ln.num := rfl

theorem onlyLines_transmit (s : State) (l : Nat) : OnlyLines s (s.transmit l) := rfl

/-- The transmitter's line after its choice. -/
theorem line?_transmit_same (s : State) (l : Nat) :
    (s.transmit l).line? l = (s.line? l).map (Line.nextFrame s.report) :=
  line?_updLine_same s l _ (nextFrame_num _)

theorem transmit_others (s : State) (l : Nat) : SameOtherLines s l (s.transmit l) :=
  ⟨fun k hk => line?_updLine_ne s l k hk _ (nextFrame_num _)⟩

/-- The line's record after an answer. -/
theorem line?_answer_same (s : State) (l : Nat) (seq kind : Byte) (r : Option Result)
    (args : List Byte) :
    (s.answer l seq kind r args).line? l = (s.line? l).map fun ln =>
      (ln.queued ⟨seq, kind, r, args⟩).nextFrame (State.report
        (s.updLine l (Line.queued ⟨seq, kind, r, args⟩))) := by
  refine (line?_transmit_same _ l).trans ?_
  rw [line?_updLine_same s l _ (queued_num _), Option.map_map]
  rfl

theorem onlyLines_answer (s : State) (l : Nat) (seq kind : Byte) (r : Option Result)
    (args : List Byte) : OnlyLines s (s.answer l seq kind r args) := by
  exact (onlyLines_updLine ..).trans (onlyLines_transmit ..)

theorem answer_others (s : State) (l : Nat) (seq kind : Byte) (r : Option Result)
    (args : List Byte) : SameOtherLines s l (s.answer l seq kind r args) := by
  refine ⟨fun k hk => ?_⟩
  exact ((transmit_others _ l).same k hk).trans (line?_updLine_ne s l k hk _ fun _ => rfl)

/-! ### A telegram that is taken -/

theorem onlyLines_heard (s : State) (l : Nat) : OnlyLines s (s.heard l) := rfl

@[simp] theorem taken_now {s : State} (hp : s.power = .running) (dt l : Nat) :
    (s.taken dt l).now = s.now + dt := by
  simp [State.taken, State.heard, State.advance, hp]

theorem line?_taken {s : State} {l : Nat} {ln : Line} (hs : Hears s l ln) (dt : Nat) :
    (s.taken dt l).line? l = some { ln with
      good := inc16 ln.good
      silence := some (s.now + dt)
      rx := .hunting
      link := if ln.link = .down then .awaiting else ln.link } := by
  have h : (s.taken dt l).line? l = _ :=
    line?_updLine_same (s.advance dt) l _ fun _ => rfl
  rw [h, line?_advance, hs.2.2.2.1]
  simp [State.advance, hs.1]

theorem taken_others (s : State) (dt l : Nat) : SameOtherLines s l (s.taken dt l) := by
  refine ⟨fun k hk => ?_⟩
  exact line?_updLine_ne (s.advance dt) l k hk _ fun _ => rfl

/-- The class of a line is the one it was strapped for. -/
theorem classOf_taken (s : State) (dt l k : Nat) : (s.taken dt l).classOf k = s.classOf k := by
  by_cases hk : k = l
  · subst hk
    have h : (s.taken dt k).line? k = _ := line?_updLine_same (s.advance dt) k _ fun _ => rfl
    unfold State.classOf
    rw [h, line?_advance]
    cases s.line? k <;> rfl
  · unfold State.classOf
    rw [(taken_others s dt l).same k hk]

/-- A request that reaches its owner is answered with the owner's reply. -/
theorem request_served {s : State} {l : Nat} (hs : Served s l) {dt len : Nat} (hlen : len ≤ 48)
    (seq kind : Byte) (owner : State → Nat → Reply) :
    s.onRequest dt l len seq kind owner =
      .next ((owner (s.taken dt l) l).1.answer l seq kind (owner (s.taken dt l) l).2.1
        (owner (s.taken dt l) l).2.2) := by
  obtain ⟨ln, ⟨hp, h1, h6, hl, hoff⟩, hact, hq⟩ := hs
  have hl' : (s.advance dt).line? l = some ln := by rw [line?_advance, hl]
  have h48 : ¬ 48 < len := by omega
  have h4 : ¬ 4 ≤ ln.queue.length := by omega
  simp only [State.onRequest, State.onLine, h1, h6, and_self, if_true, State.live, hp,
    State.request, State.onTelegram, hl', if_false, h48, h4, hact, ne_eq, not_true,
    false_and]
  rfl

/-- A request on a line that is not ACTIVE is answered NOT_READY, unless it is an ANNOUNCE. -/
theorem request_awaiting {s : State} {l : Nat} {ln : Line} (hs : Hears s l ln)
    (hact : ln.link ≠ .active) (hq : ln.queue.length < 4) {dt len : Nat} (hlen : len ≤ 48)
    (seq kind : Byte) (hk : kind ≠ kindAnnounce) (owner : State → Nat → Reply) :
    s.onRequest dt l len seq kind owner =
      .next ((s.taken dt l).answer l seq kind (some .notReady) []) := by
  obtain ⟨hp, h1, h6, hl, hoff⟩ := hs
  have hl' : (s.advance dt).line? l = some ln := by rw [line?_advance, hl]
  have h48 : ¬ 48 < len := by omega
  have h4 : ¬ 4 ≤ ln.queue.length := by omega
  simp only [State.onRequest, State.onLine, h1, h6, and_self, if_true, State.live, hp,
    State.request, State.onTelegram, hl', hoff, if_false, h48, h4, ne_eq, hact, not_false_iff, hk]
  rfl

/-- A request that finds the transmit queue full is discarded. -/
theorem request_overrun {s : State} {l : Nat} {ln : Line} (hs : Hears s l ln)
    (hq : 4 ≤ ln.queue.length) {dt len : Nat} (hlen : len ≤ 48) (seq kind : Byte)
    (owner : State → Nat → Reply) :
    s.onRequest dt l len seq kind owner =
      .next ((s.taken dt l).updLine l fun x => { x with overruns := inc16 x.overruns }) := by
  obtain ⟨hp, h1, h6, hl, hoff⟩ := hs
  have hl' : (s.advance dt).line? l = some ln := by rw [line?_advance, hl]
  have h48 : ¬ 48 < len := by omega
  simp only [State.onRequest, State.onLine, h1, h6, and_self, if_true, State.live, hp,
    State.request, State.onTelegram, hl', hoff, if_false, h48, hq]
  rfl

/-- A line that hears has one of the six numbers. -/
theorem Served.hears {s : State} {l : Nat} (h : Served s l) : ∃ ln, Hears s l ln :=
  let ⟨ln, hh, _⟩ := h
  ⟨ln, hh⟩

end Sys2Proof.Machine
end

