-- ==== Sys2Proof/Laws/Outputs.lean ====
section
/-! SUPPORT. What a write to the output image does to each output: the one that is written has the new
value, every other is as before; and what shutting the valves of a step does (R53). -/

namespace Sys2Proof.Machine

theorem node_setOut_ne (s : State) (a k v : Nat) {b : Nat} (h : b ≠ a) :
    (s.setOut a k v).node? b = s.node? b :=
  findKey_updateKey_ne Node.addr a b h (fun n => { n with outs := n.outs.set k v }) (fun _ e => e) s.nodes

theorem node_setOut_same (s : State) (a k v : Nat) :
    (s.setOut a k v).node? a = (s.node? a).map fun n => { n with outs := n.outs.set k v } :=
  findKey_updateKey_same Node.addr a (fun n => { n with outs := n.outs.set k v }) (fun _ e => e) s.nodes

/-- Every output but the written one is as before. -/
theorem outAt_setOut_ne (s : State) {a k b j : Nat} (v : Nat) (h : ¬(b = a ∧ j = k)) :
    (s.setOut a k v).outAt b j = s.outAt b j := by
  unfold State.outAt
  by_cases hb : b = a
  · subst hb
    have hj : k ≠ j := fun e => h ⟨rfl, e.symm⟩
    rw [node_setOut_same]
    cases s.node? b <;> simp [List.getElem?_set_ne hj]
  · rw [node_setOut_ne s a k v hb]

/-- An output that is written with 0 is at 0. -/
theorem outAt_setOut_zero (s : State) (a k : Nat) : (s.setOut a k 0).outAt a k = 0 := by
  unfold State.outAt
  rw [node_setOut_same]
  cases s.node? a with
  | none => rfl
  | some n => simp [List.getElem?_set]; split <;> simp

/-- A write to a bound role changes no output but the one it is bound to. -/
theorem outAt_drive_other (s : State) (r : Role) (h i v : Nat) {a k : Nat}
    (hp : ∀ p, s.point? r h i = some p → ¬(a = p.node ∧ k = p.point)) :
    (s.drive r h i v).outAt a k = s.outAt a k := by
  unfold State.drive
  cases hq : s.point? r h i with
  | none => rfl
  | some p => exact outAt_setOut_ne s v (hp p hq)

theorem points_drive (s : State) (r : Role) (h i v : Nat) : (s.drive r h i v).points = s.points := by
  unfold State.drive
  split <;> rfl

theorem points_zeroRole (s : State) (r : Role) (h : Nat) (is : List Nat) :
    (s.zeroRole r h is).points = s.points := by
  unfold State.zeroRole
  induction is generalizing s with
  | nil => rfl
  | cons i is ih => rw [List.foldl_cons, ih, points_drive]

theorem point_zeroRole (s : State) (r : Role) (h : Nat) (is : List Nat) (q : Role) (g i : Nat) :
    (s.zeroRole r h is).point? q g i = s.point? q g i := by
  unfold State.point?
  rw [points_zeroRole]

/-- Zeroing a role leaves an output at 0 that was at 0. -/
theorem outAt_drive_zero (s : State) (r : Role) (h i : Nat) {a k : Nat} (h0 : s.outAt a k = 0) :
    (s.drive r h i 0).outAt a k = 0 := by
  unfold State.drive
  split
  · rename_i p _
    by_cases e : a = p.node ∧ k = p.point
    · obtain ⟨rfl, rfl⟩ := e; exact outAt_setOut_zero s _ _
    · rw [outAt_setOut_ne s 0 e]; exact h0
  · exact h0

theorem outAt_zeroRole_zero (s : State) (r : Role) (h : Nat) (is : List Nat) {a k : Nat}
    (h0 : s.outAt a k = 0) : (s.zeroRole r h is).outAt a k = 0 := by
  unfold State.zeroRole
  induction is generalizing s with
  | nil => exact h0
  | cons i is ih => exact ih _ (outAt_drive_zero s r h i h0)

/-- Zeroing a role sets its bound outputs to 0. -/
theorem outAt_zeroRole_bound (s : State) (r : Role) (h : Nat) (is : List Nat) {i : Nat}
    (hi : i ∈ is) {p : Point} (hp : s.point? r h i = some p) :
    (s.zeroRole r h is).outAt p.node p.point = 0 := by
  induction is generalizing s with
  | nil => cases hi
  | cons j is ih =>
    have hd : (s.drive r h j 0).point? r h i = some p := by
      rw [← hp]; unfold State.point?; rw [points_drive]
    rcases List.mem_cons.mp hi with rfl | hm
    · refine outAt_zeroRole_zero (s.drive r h i 0) r h is ?_
      unfold State.drive
      rw [hp]
      exact outAt_setOut_zero s _ _
    · exact ih (s.drive r h j 0) hm hd

/-- Zeroing a role changes no output but those it is bound to. -/
theorem outAt_zeroRole_other (s : State) (r : Role) (h : Nat) (is : List Nat) {a k : Nat}
    (hn : ∀ i ∈ is, ∀ p, s.point? r h i = some p → ¬(a = p.node ∧ k = p.point)) :
    (s.zeroRole r h is).outAt a k = s.outAt a k := by
  induction is generalizing s with
  | nil => rfl
  | cons j is ih =>
    have hp : ∀ i, (s.drive r h j 0).point? r h i = s.point? r h i := by
      intro i; unfold State.point?; rw [points_drive]
    refine (ih (s.drive r h j 0) fun i hi p e => ?_).trans
      (outAt_drive_other s r h j 0 (hn j (List.mem_cons_self ..)))
    exact hn i (List.mem_cons_of_mem _ hi) p ((hp i).symm.trans e)

/-- Shutting the valves of a step sets them to 0 and changes no other output. -/
theorem stepShut_shutValves (s : State) (h : Nat) (st : Step) :
    StepShut s (s.shutValves h st) h st := by
  unfold State.shutValves
  constructor
  · intro i hi role hr p hp
    rcases List.mem_cons.mp hr with rfl | hr
    · exact outAt_zeroRole_zero _ _ _ _ (outAt_zeroRole_bound s _ h _ hi hp)
    · rcases List.mem_singleton.mp hr with rfl
      exact outAt_zeroRole_bound _ _ h _ hi ((point_zeroRole ..).trans hp)
  · intro a k hn
    have other : ∀ role ∈ [st.driven, st.opposed], ∀ i ∈ st.valveIndexes, ∀ p,
        s.point? role h i = some p → ¬(a = p.node ∧ k = p.point) := fun role hr i hi p hp e =>
      hn ⟨i, hi, role, hr, p, hp, e.1.symm, e.2.symm⟩
    rw [outAt_zeroRole_other, outAt_zeroRole_other]
    · exact other st.driven (by simp)
    · intro i hi p hp
      exact other st.opposed (by simp) i hi p ((point_zeroRole ..).symm.trans hp)

/-! ### The point map -/

/-- A change of the point records that keeps what they bind keeps the law of the point map. -/
theorem pointsOk_map {s t : State} (f : Point → Point) (ht : t.points = s.points.map f)
    (hf : ∀ p ∈ s.points, (f p).role = p.role ∧ (f p).subject = p.subject ∧ (f p).index = p.index ∧
      (f p).node = p.node ∧ (f p).point = p.point) (hs : PointsOk s) : PointsOk t := by
  obtain ⟨h1, h2⟩ := hs
  refine ⟨?_, ?_⟩ <;> rw [ht, List.map_map]
  · rwa [List.map_congr_left fun p hp => by
      obtain ⟨a, _, _, b, c⟩ := hf p hp
      show ((f p).role.isInput, (f p).node, (f p).point) = (p.role.isInput, p.node, p.point)
      rw [a, b, c]]
  · rwa [List.map_congr_left fun p hp => by
      obtain ⟨a, b, c, _⟩ := hf p hp
      show ((f p).role, (f p).subject, (f p).index) = (p.role, p.subject, p.index)
      rw [a, b, c]]

end Sys2Proof.Machine
end

