-- ==== Sys2Proof/Laws/Queue.lean ====
section
/-! SUPPORT. The grant queue's order (R79): it is total and transitive, and `insertEntry` keeps a sorted
queue sorted. -/

namespace Sys2Proof.Machine

/-- The model's test of queue order implies the order. -/
theorem Entry.inOrder_of_before {a b : Entry} (h : a.before b = true) : a.InOrder b := by
  unfold Entry.before at h
  unfold Entry.InOrder
  by_cases hc : a.closing = b.closing
  · simp only [hc] at h
    right; exact ⟨hc, by simp at h; omega⟩
  · cases ha : a.closing <;> cases hb : b.closing <;> simp_all

/-- Where the test fails, the two stand the other way round. -/
theorem Entry.inOrder_of_not_before {a b : Entry} (h : a.before b = false) : b.InOrder a := by
  unfold Entry.before at h
  unfold Entry.InOrder
  by_cases hc : a.closing = b.closing
  · simp only [hc] at h
    right; exact ⟨hc.symm, by simp at h; omega⟩
  · cases ha : a.closing <;> cases hb : b.closing <;> simp_all

theorem Entry.InOrder.trans {a b c : Entry} (h1 : a.InOrder b) (h2 : b.InOrder c) :
    a.InOrder c := by
  unfold Entry.InOrder at *
  cases ha : a.closing <;> cases hb : b.closing <;> cases hc : c.closing <;> simp_all <;> omega

/-- The entries after an insertion: the new one and the old ones. -/
theorem mem_insertEntry {e x : Entry} {q : List Entry} (h : x ∈ insertEntry e q) :
    x = e ∨ x ∈ q := by
  induction q with
  | nil => simpa [insertEntry] using h
  | cons a q ih =>
    unfold insertEntry at h
    split at h
    · simpa using h
    · rcases List.mem_cons.1 h with h | h
      · simp [h]
      · rcases ih h with h | h <;> simp [h]

/-- An entry inserted into a queue in order leaves it in order. -/
theorem pairwise_insertEntry (e : Entry) {q : List Entry} (hq : q.Pairwise Entry.InOrder) :
    (insertEntry e q).Pairwise Entry.InOrder := by
  induction q with
  | nil => simp [insertEntry]
  | cons a q ih =>
    unfold insertEntry
    split
    · rename_i hb
      rw [List.pairwise_cons]
      refine ⟨fun x hx => ?_, hq⟩
      rcases List.mem_cons.1 hx with h | h
      · subst h; exact Entry.inOrder_of_before hb
      · exact (Entry.inOrder_of_before hb).trans ((List.pairwise_cons.1 hq).1 x h)
    · rename_i hb
      rw [List.pairwise_cons] at hq ⊢
      refine ⟨fun x hx => ?_, ih hq.2⟩
      rcases mem_insertEntry hx with h | h
      · subst h; exact Entry.inOrder_of_not_before (by simpa using hb)
      · exact hq.1 x h

end Sys2Proof.Machine
end

