-- ==== Sys2Proof/Laws/Start.lean ====
section
/-! SUPPORT. The reading of the stored image (R178, log 4): done once, with the queue of commands, the
power state, the clock and the pins as they were. -/

namespace Sys2Proof.Machine

/-- What start-up leaves alone. -/
theorem startUp_keeps (s : State) :
    s.startUp.started = true ∧ s.startUp.pending = s.pending ∧ s.startUp.power = s.power ∧
      s.startUp.now = s.now ∧ s.startUp.retained = s.retained ∧ s.startUp.image = s.image ∧
      s.startUp.straps = s.straps ∧ s.startUp.estopIn = s.estopIn ∧ s.startUp.latch = s.latch := by
  unfold State.startUp
  simp only
  split
  · split <;> exact ⟨rfl, rfl, rfl, rfl, rfl, rfl, rfl, rfl, rfl⟩
  · exact ⟨rfl, rfl, rfl, rfl, rfl, rfl, rfl, rfl, rfl⟩

/-- Start-up ends in LOADING's mode with a configuration in force, or in UNCONFIGURED without one. -/
theorem startUp_mode (s : State) :
    (s.startUp.mode = s.mode ∧ s.startUp.inForce.isSome = true) ∨
      (s.startUp.mode = .unconfigured ∧ s.startUp.inForce = none) := by
  unfold State.startUp
  simp only
  split
  · split
    · exact Or.inl ⟨rfl, rfl⟩
    · exact Or.inr ⟨rfl, rfl⟩
  · exact Or.inr ⟨rfl, rfl⟩

theorem loaded_of_started {s : State} (h : s.started = true) : s.loaded = s := by
  simp [State.loaded, h]

theorem loaded_of_not_started {s : State} (h : s.started = false) : s.loaded = s.startUp := by
  simp [State.loaded, h]

theorem loaded_started (s : State) : s.loaded.started = true := by
  unfold State.loaded
  split
  · assumption
  · exact (startUp_keeps s).1

theorem idleStep_of_started {s : State} (h : s.started = true ∨ s.power ≠ .running) :
    s.idleStep = s := by
  unfold State.idleStep
  split
  · exact loaded_of_started (h.resolve_right fun hn => hn ‹_›)
  · rfl

end Sys2Proof.Machine
end

