-- ==== Sys2Proof/Laws/Tables.lean ====
section
/-! SUPPORT. The answer to a READ: `readTable` selects whole records in index order while they fit in the
answer (R164). -/

namespace Sys2Proof.Machine

/-- The records that `fitRecords` takes are the first ones, they fit, and the next would not. -/
theorem fitRecords_selects {α : Type} (enc : Nat → α → List Byte) (xs : List α) (room i : Nat) :
    ∃ recs : List (List Byte), recs = xs.mapIdx (fun k x => enc (i + k) x) ∧
      (fitRecords enc room i xs).length ≤ recs.length ∧
      fitRecords enc room i xs = recs.take (fitRecords enc room i xs).length ∧
      (fitRecords enc room i xs).flatten.length ≤ room ∧
      ∀ r ∈ (recs.drop (fitRecords enc room i xs).length).head?,
        room < (fitRecords enc room i xs).flatten.length + r.length := by
  induction xs generalizing room i with
  | nil => exact ⟨[], rfl, by simp [fitRecords]⟩
  | cons x xs ih =>
    refine ⟨_, rfl, ?_⟩
    unfold fitRecords
    by_cases h : (enc i x).length ≤ room
    · obtain ⟨recs, h0, h1, h2, h3, h4⟩ := ih (room - (enc i x).length) (i + 1)
      have he : (x :: xs).mapIdx (fun k x => enc (i + k) x) = enc i x :: recs := by
        rw [h0, List.mapIdx_cons]; simp [Nat.add_assoc, Nat.add_comm 1]
      simp only [h, if_true]
      rw [he]
      refine ⟨by simpa using h1, by simpa using h2, by simp at h3 ⊢; omega, fun r hr => ?_⟩
      have := h4 r (by simpa using hr)
      simp at this ⊢
      omega
    · simp [h]; omega

/-- What a READ answers is selected from its table. -/
theorem readTable_selects {α : Type} (enc : Nat → α → List Byte) (xs : List α)
    (base first room : Nat) :
    Selected (xs.mapIdx fun k x => enc (base + k) x) base first room
      ((readTable base first room xs enc).next base xs.length)
      (readTable base first room xs enc).count (readTable base first room xs enc).bytes := by
  obtain ⟨recs, h0, h1, h2, h3, h4⟩ :=
    fitRecords_selects enc (xs.drop (max first base - base)) room (max first base)
  have hd : (xs.mapIdx fun k x => enc (base + k) x).drop (max first base - base) = recs := by
    rw [h0]
    apply List.ext_getElem
    · simp
    · intro n a b
      simp
      congr 1
      omega
  have hl : recs.length = xs.length - (max first base - base) := by simp [h0]
  refine ⟨?_, ?_, h3, fun r hr => h4 r ?_, ?_⟩
  · simp [readTable]; omega
  · simp only [readTable]; rw [hd, ← h2]
  · rwa [← List.drop_drop, hd] at hr
  · simp [ReadResult.next, readTable]

end Sys2Proof.Machine
end

