-- ==== Sys2Proof/Tests/Slice0.lean ====
section
/-! SUPPORT. The model's own tests: the well-formedness checks refuse, the CRCs have their published
check values, single commands on a small rig, and for every statement a state and operands that meet
its hypotheses. -/

namespace Sys2Proof.Tests

open Sys2Proof Sys2Proof.Machine

/-! ### Well-formedness: each check refuses an ill-formed command -/

theorem test_wf_line_zero : (Instr.crcError 0 0).wellFormed = false := by decide
theorem test_wf_line_seven : (Instr.crcError 0 7).wellFormed = false := by decide
theorem test_wf_line_six : (Instr.crcError 0 6).wellFormed = true := by decide
theorem test_wf_payload : (Instr.idle 0 1 0 (List.replicate 49 0)).wellFormed = false := by decide
theorem test_wf_payload_after_row_byte :
    (Instr.readHatch 0 1 0 (List.replicate 48 0)).wellFormed = false := by decide
theorem test_wf_hatch : (Instr.stepTimeout 0 12).wellFormed = false := by decide
theorem test_wf_cleat : (Instr.dwellComplete 0 1 25).wellFormed = false := by decide
theorem test_wf_pump : (Instr.settleEnd 0 4).wellFormed = false := by decide
theorem test_wf_node : (Instr.slotEnd 0 49 true).wellFormed = false := by decide
theorem test_wf_order_range : (Instr.fieldReply 0 1 [] [16] true).wellFormed = false := by decide
theorem test_wf_order_twice : (Instr.fieldReply 0 1 [] [3, 3] true).wellFormed = false := by decide
theorem test_wf_known_kind : (Instr.unknownKind 0 1 0 0x10 [1]).wellFormed = false := by decide
theorem test_wf_known_row : (Instr.unknownKind 0 1 0 0x30 [1]).wellFormed = false := by decide
theorem test_wf_unknown : (Instr.unknownKind 0 1 0 0x99 []).wellFormed = true := by decide

/-! ### CRCs: the check value of the nine digits (R168, R170) -/

def nineDigits : List Byte := [0x31, 0x32, 0x33, 0x34, 0x35, 0x36, 0x37, 0x38, 0x39]

theorem test_crc16_check : crc16 nineDigits = 0x29B1 := by decide +kernel
theorem test_crc8_check : crc8 nineDigits = 0xF4 := by decide +kernel

/-! ### The rig: one ROLL hatch, a power pack of one pump, six lines -/

def rigLine (n : Nat) (cls : LineClass) (link : Link) : Line :=
  ⟨n, cls, link, .hunting, some 0, [], some 500, false, none, 0, 0, 0, 0, 0, some 0x7FF, some true,
    some true, 1⟩

def rigLines : List Line :=
  [rigLine 1 .deck .active, rigLine 2 .console .active, rigLine 3 .bridge .active,
    rigLine 4 .deck .awaiting, rigLine 5 .deck .down, rigLine 6 .none .off]

def rigHatch : Hatch :=
  { num := 1, cover := .roll, groups := [⟨1, .release⟩], cleats := [⟨1, 1, false, .running 0, .between⟩]
    panel1 := ⟨.closed, .lowered⟩, panel2 := ⟨.closed, .lowered⟩, engaged := 0
    position := .seated, stale := false, disagree := false, heavy := 0, completed := 0
    classifier := .idle }

/-- An input or output point of node 1. -/
def rigPoint (r : Role) (subj idx k : Nat) (q : Option Bool) : Point :=
  ⟨r, subj, idx, 1, k, false, q, none, 0, false⟩

def rigPoints : List Point :=
  [rigPoint .cleatEngaged 1 1 0 (some false), rigPoint .pumpRunning 1 0 1 (some false),
    rigPoint .liftValve 1 0 0 none, rigPoint .lowerValve 1 0 1 none, rigPoint .pumpRun 1 0 2 none,
    rigPoint .cleatReleaseValve 1 1 3 none, rigPoint .cleatEngageValve 1 1 4 none]

def rigNode (a : Nat) : Node := ⟨a, 0, .online, 0, 2, some 0, List.replicate 8 0⟩

def rig : State := { State.reset with
  started := true
  straps := 4473
  retained := ⟨.harbour, .powerOn, 0, 0, 0⟩
  inForce := some []
  mode := .harbour
  scan := ⟨7, 20, none, false, true, []⟩
  nodes := [rigNode 1, rigNode 2]
  points := rigPoints
  hatches := [rigHatch]
  ops := [Op.idle 1]
  claims := [⟨1, none, none⟩]
  pumps := [⟨1, 150, .off, none, none⟩]
  maxB := 150
  pumpIdle := some 0
  lines := rigLines }

/-- The rig with line `l` as the holder of the hatch. -/
def rigHeld (l : Nat) : State := { rig with claims := [⟨1, some l, some 0⟩] }

def rigEntry : Entry := ⟨1, .releaseGroup 1, false, 0, none, false⟩

def rigGrant : Grant := ⟨1, .releaseGroup 1, false, 0, 60, 60, 100, 100, false⟩

/-- The rig with an operation record in op state `st`, held by line 1. -/
def rigOp (st : OpState) : Op :=
  { Op.idle 1 with kind := .release, disc := some .hold, prog := [.releaseGroup 1], st := st
                   hold := some 300 }

def rigPaused : State := { rigHeld 1 with ops := [rigOp .paused] }

def rigFaulted : State := { rigHeld 1 with ops := [rigOp .faulted] }

def rigQueued : State :=
  { rig with ops := [rigOp .queued], queue := [rigEntry], claims := [⟨1, some 1, none⟩]
             pumpIdle := none }

def rigMoving : State :=
  { rig with ops := [{ rigOp .moving with start := some 0 }], granted := [rigGrant]
             claims := [⟨1, some 1, none⟩], pumpIdle := none, budget := 150
             pumps := [⟨1, 150, .running, none, none⟩] }

/-- The next state of a command, or the state itself where it stops. -/
def after (c : Instr) (s : State) : State :=
  match exec c s with
  | .next t => t
  | .fault _ => s
  | .refused _ => s

/-! ### Single commands -/

theorem test_start_up : step State.reset = .next (State.startUp State.reset) := rfl

/-- A part just out of reset: in LOADING, its stored image a valid configuration not yet read, line 1
DOWN. -/
def fresh (c : Items) : State := { State.reset with
  image := .whole c
  lines := [{ rigLine 1 .deck .down with silence := none, reportAt := none, annReach := none }] }

/-- A line that announces before the image is read becomes ACTIVE with an empty reach (R116). -/
theorem test_announce_before_the_load :
    ((after (.announce 5 1 0 [1, 7, 0xFF, 3]) (fresh [])).line? 1).map
      (fun ln => (ln.link, ln.reach)) = some (.active, 0) := by decide

theorem test_no_word_spells_a_command : rig.withFetchWord 8 1 = rig := rfl

theorem test_line_seven_faults : exec (.crcError 0 7) rig = .fault .noSuchLine := rfl

theorem test_take_grants : (after (.take 5 1 9 [1]) rig).claims = [⟨1, some 1, some 5⟩] := by decide

theorem test_take_answer :
    ((after (.take 5 1 9 [1]) rig).line? 1).map Line.tx =
      some (some ⟨0x80, 9, [0x10, 1, 1]⟩) := by decide

theorem test_take_held_answer :
    ((after (.take 5 1 9 [1]) (rigHeld 2)).line? 1).map Line.tx =
      some (some ⟨0x80, 9, [0x10, 8, 1, 2]⟩) := by decide

theorem test_run_queues_and_starts_the_pump :
    ((after (.run 5 1 9 [1, 3]) (rigHeld 1)).opState 1,
      (after (.run 5 1 9 [1, 3]) (rigHeld 1)).pumps.map Pump.st) = (.queued, [.starting]) := by
  decide

theorem test_settle_grants_the_step :
    (after (.settleEnd 3000 1) { rigQueued with pumps := [⟨1, 150, .starting, none, some 3000⟩] }
      ).granted.map Grant.demand = [60] := by decide

theorem test_grant_opens_the_valve :
    (after (.settleEnd 3000 1) { rigQueued with pumps := [⟨1, 150, .starting, none, some 3000⟩] }
      ).outAt 1 3 = 100 := by decide

theorem test_estop_shuts_the_valve :
    ((after (.estop 5 1 9 []) rigMoving).latch, (after (.estop 5 1 9 []) rigMoving).granted,
      (after (.estop 5 1 9 []) rigMoving).outAt 1 3) = (true, [], 0) := by decide

theorem test_scan_polls_node_one :
    (after (.scan 20) rig).scan.poll = [1, 0, 0, 0, 0, 0, 0, 0, 0] ++
      [crc8 [1, 0, 0, 0, 0, 0, 0, 0, 0]] := by decide +kernel

theorem test_third_miss_loses_the_node :
    ((after (.slotEnd 0 1 true) { rig with
      nodes := [{ rigNode 1 with misses := 2 }, rigNode 2]
      scan := ⟨7, 20, some 0, false, true, []⟩ }).node? 1).map Node.st = some .lost := by decide

/-- The slot of place 2 ends 1.2 ms after the start of the scan: a slot end in the first ms changes
nothing, one in the second is a miss (R23). -/
theorem test_slot_end_before_its_time :
    let s := { rig with nodes := [1, 2, 3].map rigNode, scan := ⟨7, 20, some 2, false, true, []⟩ }
    after (.slotEnd 0 3 true) s = s ∧
      ((after (.slotEnd 1 3 true) s).node? 3).map Node.misses = some 1 := by decide

theorem test_dwell_releases_the_cleat :
    (after (.dwellComplete 1500 1 1) rig).hatches.map (fun h => h.cleats.map Cleat.st) =
      [[.released]] := by decide

theorem test_queue_takes_the_front_command :
    step { rig with pending := [.armExpiry 1, .scan 2] } =
      .next { rig with pending := [.scan 2], now := 1, retained := ⟨.harbour, .powerOn, 0, 0, 1⟩ } :=
  rfl

/-! ### Every statement's hypotheses are met

One theorem per statement that has hypotheses, clause by clause, at boundary values where a clause has
a range. -/

/-- Lines 1 to 3 of the rig take requests. -/
theorem rig_served {s : State} (hp : s.power = .running) (hl : s.lines = rigLines) :
    Served s 1 ∧ Served s 2 ∧ Served s 3 := by
  have h : ∀ l, s.line? l = findKey Line.num l rigLines := fun l => by rw [State.line?, hl]
  refine ⟨⟨rigLine 1 .deck .active, ⟨hp, by decide, by decide, (h 1).trans rfl, by decide⟩, ?_⟩,
    ⟨rigLine 2 .console .active, ⟨hp, by decide, by decide, (h 2).trans rfl, by decide⟩, ?_⟩,
    ⟨rigLine 3 .bridge .active, ⟨hp, by decide, by decide, (h 3).trans rfl, by decide⟩, ?_⟩⟩ <;>
  decide

theorem deck_served {s : State} (hp : s.power = .running) (hl : s.lines = rigLines) :
    Served s 1 := (rig_served hp hl).1

theorem console_served {s : State} (hp : s.power = .running) (hl : s.lines = rigLines) :
    Served s 2 := (rig_served hp hl).2.1

theorem bridge_served {s : State} (hp : s.power = .running) (hl : s.lines = rigLines) :
    Served s 3 := (rig_served hp hl).2.2

/-- The rig without a configuration in force, in part mode `m`. -/
def rigBare (m : PartMode) : State := { rig with mode := m, inForce := none }

theorem test_witness_ResetStateAndTheIdleStep :
    (rig.pending = [] ∧ (rig.started = true ∨ rig.power ≠ .running)) ∧
      (State.reset.pending = [] ∧ State.reset.started = false ∧ State.reset.power = .running) := by
  decide

theorem test_witness_EveryWellFormedCommandIsTaken :
    (Instr.scan 0).wellFormed = true ∧
      (Instr.run 0 7 0 []).request? = some ⟨0, 7, 0, kindRun, 0⟩ ∧ ¬(1 ≤ 7 ∧ 7 ≤ 6) ∧
      (Instr.run 0 0 0 []).request? = some ⟨0, 0, 0, kindRun, 0⟩ ∧ ¬(1 ≤ 0 ∧ 0 ≤ 6) := by decide

theorem test_witness_CommandsLeaveTheQueue :
    exec (.external 0) State.reset = .next (after (.external 0) State.reset) := rfl

/-- A line that is DOWN, with a payload of 48 bytes; and a line that is OFF. -/
theorem test_witness_FramesThatAskNothing :
    (Hears rig 5 (rigLine 5 .deck .down) ∧ (List.replicate 48 (0 : Byte)).length ≤ 48) ∧
    rig.power = .running ∧ rig.line? 6 = some (rigLine 6 .none .off) ∧
      (rigLine 6 .none .off).link = .off ∧ (rig.lines.map Line.num).Nodup ∧
      (Instr.take 0 6 0 [1]).request? = some ⟨0, 6, 0, kindTake, 1⟩ := by decide

/-- A line that is OFF counts no frame. -/
theorem test_line_off_counts_nothing : exec (.crcError 5 6) rig = .next (rig.advance 5) := rfl

theorem test_witness_AnswerJoinsTheQueue :
    rig.line? 1 = some (rigLine 1 .deck .active) := by decide

/-- A line record with four answers queued. -/
def fullLine : Line :=
  { rigLine 1 .deck .active with queue := List.replicate 4 ⟨0, 0x10, some .done, []⟩ }

theorem test_witness_RequestsThatReachNoOwner :
    ((Instr.take 0 1 0 [1]).request? = some ⟨0, 1, 0, kindTake, 1⟩ ∧
      Hears { rig with lines := [fullLine] } 1 fullLine ∧ 1 ≤ 48 ∧ 4 ≤ fullLine.queue.length) ∧
    ((Instr.take 0 4 0 [1]).request? = some ⟨0, 4, 0, kindTake, 1⟩ ∧
      Hears rig 4 (rigLine 4 .deck .awaiting) ∧ (rigLine 4 .deck .awaiting).queue.length < 4 ∧
      (rigLine 4 .deck .awaiting).link ≠ .active ∧ kindTake ≠ kindAnnounce) ∧
    (Hears rig 1 (rigLine 1 .deck .active) ∧ ([] : List Byte).length ≤ 48 ∧
      (rigLine 1 .deck .active).queue.length < 4 ∧ kindReport ∉ stationKinds) ∧
    (kindReport ≠ kindIdle ∧ kindClear ∈ [kindClear, kindMode, kindAcknowledge, kindRead] ∧
      kindRead ∈ [kindClear, kindMode, kindAcknowledge, kindRead]) := by decide

/-- A line that is ACTIVE and one in AWAITING; the ends of the ranges of the first bytes that name a
row. -/
theorem test_witness_BadArgumentsAreRefused_forms :
    (Served rig 1 ∧ (List.replicate 48 (0 : Byte)).length = 48) ∧
    (Hears rig 4 (rigLine 4 .deck .awaiting) ∧ (rigLine 4 .deck .awaiting).queue.length < 4 ∧
      (0 : Byte).toNat = 0 ∧ 3 < (4 : Byte).toNat ∧ ([] : List Byte).length ≠ 4) ∧
    (4 < (5 : Byte).toNat ∧ 5 < (6 : Byte).toNat ∧ 2 < (3 : Byte).toNat ∧ 11 < (12 : Byte).toNat) :=
  ⟨⟨deck_served rfl rfl, by decide⟩, by decide, by decide⟩

/-- Hatch numbers 0 and 2 lie outside the range of the rig, kinds 0 and 5 outside those of RUN; and a
part in LOADING, in UNCONFIGURED and in COMMISSION without a configuration. -/
theorem test_witness_BadArgumentsAreRefused :
    (Served rig 1 ∧ (¬NamesHatch rig 0 ∧ ¬NamesHatch rig 2) ∧
      (NamesHatch rig 1 ∧ ¬(1 ≤ (5 : Byte).toNat ∧ (5 : Byte).toNat ≤ 4)) ∧
      ¬(1 ≤ (2 : Byte).toNat ∧ (2 : Byte).toNat ≤ rig.pumpLimit) ∧
      recordArgs [17, 1, 1] = none ∧ recordArgs [2, 1, 12] = none ∧ recordArgs [2, 2, 1] = none ∧
      ([] : List Byte).length ≠ 1 ∧ [(0 : Byte)] ≠ [] ∧ [(0 : Byte)].length ≠ 3 ∧
      [(0 : Byte)].length ≠ 4) ∧
    (Served { rig with mode := .loading } 1 ∧ NamesHatch { rig with mode := .loading } 1) ∧
    (Served (rigBare .unconfigured) 1 ∧ NamesHatch (rigBare .unconfigured) 11 ∧
      (3 : Byte).toNat ≤ (rigBare .unconfigured).pumpLimit ∧ recordArgs [2, 1, 1] ≠ none) ∧
    (Served (rigBare .commission) 1 ∧ (rigBare .commission).mode = .commission ∧
      (rigBare .commission).inForce = none) :=
  ⟨⟨deck_served rfl rfl, by decide⟩, ⟨deck_served rfl rfl, by decide⟩,
    ⟨deck_served rfl rfl, by decide⟩, deck_served rfl rfl, rfl, rfl⟩

/-- A line in AWAITING, and an ACTIVE one that holds no hatch. -/
theorem test_witness_AnnounceOfTheStrappedClassIsAccepted :
    (Hears rig 4 (rigLine 4 .deck .awaiting) ∧ (rigLine 4 .deck .awaiting).queue.length < 4 ∧
      (rigLine 4 .deck .awaiting).cls ≠ .none ∧
      (1 : Byte).toNat = (rigLine 4 .deck .awaiting).cls.code) ∧
    (Hears rig 1 (rigLine 1 .deck .active) ∧ (rigLine 1 .deck .active).link = .active ∧
      rig.heldBy 1 = []) := by decide

theorem test_witness_AnnounceIsRefused :
    (Hears (rigHeld 1) 1 (rigLine 1 .deck .active) ∧ 1 ≤ (1 : Byte).toNat ∧ (3 : Byte).toNat ≤ 3 ∧
      (rigLine 1 .deck .active).link = .active ∧ (rigHeld 1).heldBy 1 ≠ []) ∧
    (Hears rig 1 (rigLine 1 .deck .active) ∧ rig.heldBy 1 = [] ∧
      (3 : Byte).toNat ≠ (rigLine 1 .deck .active).cls.code) := by decide

/-- Just before 1500 ms, and a DOWN line; at the boundary of 1500 ms: a line in AWAITING, an ACTIVE line with
and without a hatch, and one whose hatch is MOVING, QUEUED and PAUSED. -/
theorem test_witness_SilenceTakesTheLineDown :
    ((∀ t ∈ (rigLine 4 .deck .awaiting).silence, rig.now + 1499 < t + 1500) ∧
      Hears rig 5 (rigLine 5 .deck .down) ∧ (rigLine 5 .deck .down).link = .down) ∧
    (Hears rig 4 (rigLine 4 .deck .awaiting) ∧ (rigLine 4 .deck .awaiting).silence = some 0 ∧
      0 + 1500 ≤ rig.now + 1500 ∧ (rigLine 4 .deck .awaiting).link = .awaiting) ∧
    (Hears (rigHeld 1) 1 (rigLine 1 .deck .active) ∧ (rigLine 1 .deck .active).silence = some 0 ∧
      (rigLine 1 .deck .active).link = .active) ∧ rig.heldBy 1 = [] ∧
    (Hears rigMoving 1 (rigLine 1 .deck .active) ∧ (rigMoving.heldBy 1).any rigMoving.busy = true ∧
      rigMoving.claim? 1 = some ⟨1, some 1, none⟩ ∧ rigMoving.opState 1 = .moving) ∧
    (rigQueued.claim? 1 = some ⟨1, some 1, none⟩ ∧ rigQueued.opState 1 = .queued) ∧
    (rigPaused.claim? 1 = some ⟨1, some 1, some 0⟩ ∧ rigPaused.opState 1 = .paused) := by decide

/-- A REPORT due at the boundary, and 1 ms before it, with the transmitter free and busy; a frame's end with a REPORT due,
with an answer waiting, and with nothing to send. -/
theorem test_witness_ReportsAndFrames :
    let busy := { rigLine 1 .deck .active with tx := some ⟨kindAnswer, 0, []⟩ }
    let due := { busy with reportIsDue := true }
    let waiting := { busy with queue := [⟨0, 0x10, some .done, []⟩] }
    (Hears rig 1 (rigLine 1 .deck .active) ∧ (rigLine 1 .deck .active).reportAt = some 500 ∧
      500 ≤ rig.now + 500 ∧ (rigLine 1 .deck .active).tx = none ∧
      ∀ t ∈ (rigLine 1 .deck .active).reportAt, rig.now + 499 < t) ∧
    (Hears { rig with lines := [busy] } 1 busy ∧ busy.tx.isSome = true ∧ busy.reportIsDue = false ∧
      ∀ a ∈ busy.queue.head?, a.result = none) ∧
    (Hears { rig with lines := [due] } 1 due ∧ due.link = .active ∧ due.reportIsDue = true) ∧
    (Hears { rig with lines := [waiting] } 1 waiting ∧ waiting.reportIsDue = false ∧
      waiting.queue = [⟨0, 0x10, some .done, []⟩]) := by
  refine ⟨by decide, ⟨by decide, by decide, by decide, ?_⟩, by decide, by decide⟩
  intro a ha
  cases ha

theorem test_witness_ClearCounters :
    Served rig 1 ∧ Served rig 2 ∧ rig.mode ≠ .unconfigured ∧ rig.classOf 2 = .console ∧
      rig.classOf 1 ≠ .console :=
  ⟨deck_served rfl rfl, console_served rfl rfl, by decide⟩

/-- A free hatch, and one that the line holds; in HARBOUR and in SEA. -/
theorem test_witness_TakeGrantsAFreeHatch :
    Served rig 1 ∧ NamesHatch rig 1 ∧ (rig.mode = .sea ∨ rig.mode = .harbour) ∧
      rig.classOf 1 ≠ .bridge ∧ rig.covers 1 1 = true ∧ rig.claim? 1 = some ⟨1, none, none⟩ ∧
      (rigHeld 1).claim? 1 = some ⟨1, some 1, some 0⟩ :=
  ⟨deck_served rfl rfl, by decide⟩

/-- The rig in part mode `m`, its hatch held by line 1. -/
def rigAt (m : PartMode) : State := { rigHeld 1 with mode := m }

/-- The rig with a deck line that covers no hatch. -/
def rigShort : State := { rigPaused with lines := [{ rigLine 1 .deck .active with reach := 0 }] }

/-- A hatch that another deck or a console holds, and a deck's hatch asked for by the console, in
motion and at rest; a bridge line, a line that does not cover the hatch, and the holder in COMMISSION. -/
theorem test_witness_TakeOfAHeldHatch :
    (Served (rigHeld 2) 1 ∧ NamesHatch (rigHeld 2) 1 ∧ (rigHeld 2).mode = .harbour ∧
      (rigHeld 2).classOf 1 ≠ .bridge ∧ (rigHeld 2).covers 1 1 = true ∧
      (rigHeld 2).claim? 1 = some ⟨1, some 2, some 0⟩ ∧
      ¬((rigHeld 2).classOf 2 = .deck ∧ (rigHeld 2).classOf 1 = .console)) ∧
    (Served rigMoving 2 ∧ rigMoving.covers 2 1 = true ∧ rigMoving.classOf 2 = .console ∧
      rigMoving.claim? 1 = some ⟨1, some 1, none⟩ ∧ rigMoving.classOf 1 = .deck ∧
      rigMoving.busy 1 = true) ∧
    (Served rigPaused 2 ∧ rigPaused.covers 2 1 = true ∧ rigPaused.classOf 2 = .console ∧
      rigPaused.claim? 1 = some ⟨1, some 1, some 0⟩ ∧ rigPaused.busy 1 = false) ∧
    (Served rig 3 ∧ NamesHatch rig 1 ∧ rig.classOf 3 = .bridge) ∧
    (Served rigShort 1 ∧ NamesHatch rigShort 1 ∧ rigShort.mode = .harbour ∧
      rigShort.classOf 1 ≠ .bridge ∧ rigShort.covers 1 1 = false) ∧
    (Served (rigAt .commission) 1 ∧ NamesHatch (rigAt .commission) 1 ∧
      (rigAt .commission).classOf 1 ≠ .bridge ∧ (rigAt .commission).covers 1 1 = true ∧
      (rigAt .commission).holder? 1 = some 1 ∧ (rigAt .commission).opState 1 = .idle) :=
  ⟨⟨deck_served rfl rfl, by decide⟩, ⟨console_served rfl rfl, by decide⟩,
    ⟨console_served rfl rfl, by decide⟩, ⟨bridge_served rfl rfl, by decide⟩,
    ⟨⟨{ rigLine 1 .deck .active with reach := 0 }, by decide⟩, by decide⟩,
    deck_served rfl rfl, by decide⟩

theorem test_witness_YieldReleasesTheHatch :
    (Served rigMoving 1 ∧ NamesHatch rigMoving 1 ∧ InService rigMoving ∧
      rigMoving.claim? 1 = some ⟨1, some 1, none⟩ ∧ rigMoving.opState 1 = .moving) ∧
    rigQueued.opState 1 = .queued ∧
    (Served rig 1 ∧ InService rig ∧ rig.claim? 1 = some ⟨1, none, none⟩) :=
  ⟨⟨deck_served rfl rfl, by decide⟩, by decide, deck_served rfl rfl, by decide⟩

/-- At the boundary of the default limit of 10 minutes, and 1 ms before it. -/
theorem test_witness_ClaimIdleExpiryReleasesTheHatch :
    rigPaused.power = .running ∧ rigPaused.inForce = some [] ∧
      rigPaused.claim? 1 = some ⟨1, some 1, some 0⟩ ∧
      0 + (if itemNat [] 19 0 = 0 then 1 else itemNat [] 19 0) * 60000 ≤ rigPaused.now + 600000 ∧
      rigPaused.busy 1 = false ∧
      ∀ t ∈ (some 0 : Option Nat),
        rigPaused.now + 599999 < t + (if itemNat [] 19 0 = 0 then 1 else itemNat [] 19 0) * 60000 := by
  decide

/-- The hatch of the rig has an engaged sensor that is off, no panel sensor and one group: it is a ROLL
hatch; beside it a FOLD hatch. -/
theorem test_witness_PositionFollowsTheTables :
    (rigHatch.cover = .roll ∧ (rig.deriveHatch rigHatch).panel1 = ⟨.unknown, .unknown⟩ ∧
      (rig.deriveHatch rigHatch).panel2 = ⟨.unknown, .unknown⟩ ∧
      (rig.deriveHatch rigHatch).position = .indeterminate) ∧
    { rigHatch with cover := .fold }.cover = .fold ∧ rig.hatch? 1 = some rigHatch := by decide

/-- A group that is not released and is not engaged, on a ROLL hatch and on a FOLD hatch. -/
theorem test_witness_ProgramsFollowTheTables :
    rigHatch.cover = .roll ∧ { rigHatch with cover := .fold }.cover = .fold ∧
      (rigHatch.groups.filter fun g =>
        ¬∀ c ∈ rigHatch.cleats, c.group = g.num → c.st = .released).map Group.num = [1] := by decide

/-- A RUN of a hatch that another line holds; in LOADING, in UNCONFIGURED, and in COMMISSION without a
configuration from a deck, with the latch clear and set, and from the bridge. -/
theorem test_witness_RunIsRefusedInOrder :
    (Served (rigHeld 2) 1 ∧ NamesHatch (rigHeld 2) 1 ∧ OpKind.ofByte 1 = some .opening ∧
      (rigHeld 2).op? 1 = some (Op.idle 1) ∧ (rigHeld 2).hatch? 1 = some rigHatch ∧
      (rigHeld 2).mode = .harbour ∧ (rigHeld 2).classOf 1 ≠ .bridge ∧ (rigHeld 2).latch = false ∧
      (rigHeld 2).holder? 1 ≠ some 1) ∧
    (Served (rigBare .loading) 1 ∧ NamesHatch (rigBare .loading) 1) ∧
    (Served (rigBare .unconfigured) 1 ∧ NamesHatch (rigBare .unconfigured) 11) ∧
    (Served (rigBare .commission) 1 ∧ NamesHatch (rigBare .commission) 11 ∧
      (rigBare .commission).classOf 1 ≠ .bridge ∧ (rigBare .commission).latch = false) ∧
    (Served { rigBare .commission with latch := true } 1) ∧
    Served (rigBare .commission) 3 ∧ (rigBare .commission).classOf 3 = .bridge :=
  ⟨⟨deck_served rfl rfl, by decide⟩, ⟨deck_served rfl rfl, by decide⟩,
    ⟨deck_served rfl rfl, by decide⟩, ⟨deck_served rfl rfl, by decide⟩, deck_served rfl rfl,
    bridge_served rfl rfl, by decide⟩

/-- RELEASE of a hatch whose only cleat is RELEASED, and of one whose cleat is not. -/
theorem test_witness_AcceptedRunStartsTheOperation :
    (let hr := { rigHatch with cleats := [⟨1, 1, false, .complete, .released⟩] }
     let s := { rigHeld 1 with hatches := [hr] }
     Served s 1 ∧ NamesHatch s 1 ∧ OpKind.ofByte 3 = some .release ∧ s.op? 1 = some (Op.idle 1) ∧
       s.hatch? 1 = some hr ∧ s.claim? 1 = some ⟨1, some 1, some 0⟩ ∧ s.mode = .harbour ∧
       s.latch = false ∧ s.classOf 1 ≠ .bridge ∧
       (s.line? 1).bind Line.holdAbility = some true ∧ (Op.idle 1).st = .idle ∧
       hr.program .release = some []) ∧
    (Served (rigHeld 1) 1 ∧ NamesHatch (rigHeld 1) 1 ∧ (rigHeld 1).op? 1 = some (Op.idle 1) ∧
      (rigHeld 1).hatch? 1 = some rigHatch ∧ (rigHeld 1).claim? 1 = some ⟨1, some 1, some 0⟩ ∧
      (rigHeld 1).mode = .harbour ∧ (rigHeld 1).latch = false ∧ (rigHeld 1).classOf 1 ≠ .bridge ∧
      ((rigHeld 1).line? 1).bind Line.holdAbility = some true ∧
      rigHatch.program .release = some [.releaseGroup 1] ∧
      ((rigHeld 1).fraction (.releaseGroup 1)).isSome = true ∧
      rigHatch.targetHolds (.releaseGroup 1) = false ∧
      (rigHeld 1).stepOffline rigHatch (.releaseGroup 1) = false ∧
      rigHatch.stepDisagrees (.releaseGroup 1) = false) :=
  ⟨⟨deck_served rfl rfl, by decide⟩, deck_served rfl rfl, by decide⟩

/-- A step whose target holds, one on a lost node, one of a disagreeing group, and one that enters. -/
theorem test_witness_OfferTestsInOrder :
    let bad := { rigHatch with cleats := [⟨1, 1, true, .idle, .disagree⟩] }
    let dark := { rig with nodes := [{ rigNode 1 with st := .lost }] }
    rig.op? rigHatch.num = some (Op.idle 1) ∧ rigHatch.targetHolds .travelClose = true ∧
      (rigHatch.targetHolds (.releaseGroup 1) = false ∧
        dark.stepOffline rigHatch (.releaseGroup 1) = true) ∧
      (bad.targetHolds (.releaseGroup 1) = false ∧ rig.stepOffline bad (.releaseGroup 1) = false ∧
        bad.stepDisagrees (.releaseGroup 1) = true) ∧
      (rig.stepOffline rigHatch (.releaseGroup 1) = false ∧
        rigHatch.stepDisagrees (.releaseGroup 1) = false) := by decide

theorem test_witness_HoldRenewsTheWindow :
    (Served rigMoving 1 ∧ NamesHatch rigMoving 1 ∧ InService rigMoving ∧
      rigMoving.op? 1 = some { rigOp .moving with start := some 0 } ∧
      rigMoving.claim? 1 = some ⟨1, some 1, none⟩ ∧ rigMoving.classOf 1 ≠ .bridge) ∧
    (Served rigMoving 3 ∧ rigMoving.classOf 3 = .bridge) ∧
    (Served (rigHeld 2) 1 ∧ (rigHeld 2).claim? 1 = some ⟨1, some 2, some 0⟩) ∧
    (Served rigPaused 1 ∧ rigPaused.op? 1 = some (rigOp .paused)) :=
  ⟨⟨deck_served rfl rfl, by decide⟩, ⟨bridge_served rfl rfl, by decide⟩,
    ⟨deck_served rfl rfl, by decide⟩, deck_served rfl rfl, by decide⟩

theorem test_witness_HaltPausesTheMotion :
    (Served rigMoving 1 ∧ NamesHatch rigMoving 1 ∧ InService rigMoving ∧
      rigMoving.op? 1 = some { rigOp .moving with start := some 0 } ∧
      rigMoving.covers 1 1 = true) ∧
    rigQueued.op? 1 = some (rigOp .queued) ∧
    (rigPaused.covers 1 1 = true ∧ rigPaused.op? 1 = some (rigOp .paused)) ∧
    Served rigShort 1 ∧ rigShort.covers 1 1 = false :=
  ⟨⟨deck_served rfl rfl, by decide⟩, by decide, by decide,
    ⟨{ rigLine 1 .deck .active with reach := 0 }, by decide⟩, by decide⟩

theorem test_witness_HaltOfAStep :
    (rigMoving.op? 1 = some { rigOp .moving with start := some 0 } ∧
      (rigOp .moving).prog.head? = some (.releaseGroup 1) ∧
      1 ∈ (Step.releaseGroup 1).valveIndexes ∧
      rigMoving.point? .cleatReleaseValve 1 1 = some (rigPoint .cleatReleaseValve 1 1 3 none)) ∧
    rigQueued.op? 1 = some (rigOp .queued) := by decide

/-- A hatch without an entry beside one that has an entry. -/
theorem test_witness_EvaluationLeavesUnqueuedHatches :
    rigQueued.entry? 2 = none ∧ rigQueued.entry? 1 = some rigEntry := by decide

theorem test_witness_ClearFaultClearsTheRecord :
    (Served rigFaulted 2 ∧ NamesHatch rigFaulted 1 ∧ InService rigFaulted ∧
      rigFaulted.op? 1 = some (rigOp .faulted) ∧ rigFaulted.classOf 2 = .console) ∧
    (Served rigFaulted 1 ∧ rigFaulted.classOf 1 ≠ .console) ∧
    (Served rigPaused 2 ∧ rigPaused.op? 1 = some (rigOp .paused)) :=
  ⟨⟨console_served rfl rfl, by decide⟩, ⟨deck_served rfl rfl, by decide⟩,
    console_served rfl rfl, by decide⟩

/-- At and just before the default cleat timeout of 20 s, and the end of a hold window. -/
theorem test_witness_TimeoutAndHoldLapse :
    rigMoving.power = .running ∧ rigMoving.op? 1 = some { rigOp .moving with start := some 0 } ∧
      rigMoving.inForce = some [] ∧ (rigOp .moving).prog.head? = some (.releaseGroup 1) ∧
      0 + cfgTimeoutMs [] 1 (.releaseGroup 1) ≤ rigMoving.now + 20000 ∧
      rigMoving.now + 19999 < 0 + cfgTimeoutMs [] 1 (.releaseGroup 1) ∧
      (rigOp .queued).hold = some 300 ∧ 300 ≤ rigQueued.now + 300 ∧ rigQueued.now + 299 < 300 := by
  decide

/-- The boundaries 1200 ms and 200 ms of a pulse that began in scan 0; a pressure point of a hatch that
has a record, with a sample that stalls and one that does not, and of one that has none; and a MOVING
record at its second and at its third stall. -/
theorem test_witness_PressureSamplesFollowTheTables :
    (20 * (60 - 0) ≥ 1200 ∧ 20 * (59 - 0) < 1200 ∧ 20 * (10 - 0) ≥ 200 ∧ 20 * (9 - 0) < 200) ∧
    (let p := rigPoint .hatchPressure 1 0 5 (some false)
     rig.hatch? p.subject = some rigHatch ∧
      rigHatch.classifier.sample rig.scan.no true true = (.idle, false, false) ∧
      (Classifier.timing (some 0)).sample 60 true true = (.stalled, false, true) ∧
      rig.hatch? 2 = none) ∧
    (let s := fun n => { rig with ops := [{ rigOp .moving with stalls := n }] }
     (s 1).op? 1 = some { rigOp .moving with stalls := 1 } ∧
      (s 2).op? 1 = some { rigOp .moving with stalls := 2 } ∧ (rigOp .moving).st = .moving) := by
  decide

/-- At the boundary of 5000 ms, in an IDLE, a FAULTED and a QUEUED record, and 1 ms before it. -/
theorem test_witness_PressureWatchExpiry :
    let s := fun (st : OpState) => { rig with ops := [{ rigOp st with watch := some 0 }] }
    (s .idle).power = .running ∧ 0 + 5000 ≤ (s .idle).now + 5000 ∧
      (s .idle).op? 1 = some { rigOp .idle with watch := some 0 } ∧
      (s .faulted).op? 1 = some { rigOp .faulted with watch := some 0 } ∧
      (s .queued).op? 1 = some { rigOp .queued with watch := some 0 } ∧
      ∀ t ∈ ({ rigOp .idle with watch := some 0 } : Op).watch, (s .idle).now + 4999 < t + 5000 := by
  decide

/-- At the boundary of 1500 ms, and 1 ms before it; and a change of the rig's hatch with no operation, with a step whose
group disagrees, QUEUED and MOVING, and with a MOVING step short of its target and at it. -/
theorem test_witness_DwellCompletes :
    (rig.power = .running ∧ rig.hatch? 1 = some rigHatch ∧
      findKey Cleat.num 1 rigHatch.cleats = some ⟨1, 1, false, .running 0, .between⟩ ∧
      0 + 1500 ≤ rig.now + 1500 ∧ rig.qual .cleatEngaged 1 1 = some false ∧
      rigHatch.dirOf 1 = .release ∧ rig.busy 1 = false ∧ rigMoving.busy 1 = true ∧
      rig.now + 1499 < 0 + 1500) ∧
    (rig.op? 1 = some (Op.idle 1) ∧ (Op.idle 1).st ≠ .queued ∧ (Op.idle 1).st ≠ .moving) ∧
    (rigQueued.op? 1 = some (rigOp .queued) ∧ (rigOp .queued).prog = [.releaseGroup 1] ∧
      rigQueued.entry? 1 ≠ none ∧ rigMoving.grant? 1 = some rigGrant ∧
      rigMoving.op? 1 = some { rigOp .moving with start := some 0 }) ∧
    (let both := rigPoint .cleatReleased 1 1 5 (some true)
     let on := rigPoint .cleatEngaged 1 1 0 (some true)
     let clash := { rigHatch with cleats := [⟨1, 1, true, .idle, .between⟩] }
     Hatch.InDisagreement (State.deriveHatch { rig with points := [on, both] } clash)
       (.releaseGroup 1)) ∧
    (¬(rigMoving.deriveHatch rigHatch).InDisagreement (.releaseGroup 1) ∧
      ¬(rigMoving.deriveHatch rigHatch).AtTarget (.releaseGroup 1)) ∧
    (rigMoving.deriveHatch
      { rigHatch with cleats := [⟨1, 1, false, .complete, .between⟩] }).AtTarget
        (.releaseGroup 1) := by decide

/-- An entry without a flow, without a permit, one that fits in MaxB and not in the flow left, and one
that fits in the flow left. -/
theorem test_witness_DemandClampAndTheBlockedHead :
    let travel := { rigEntry with step := Step.travelOpen }
    let s := { rigQueued with queue := [travel] }
    let full := { rigQueued with budget := 60 }
    (rigQueued.queue = [rigEntry] ∧ rigQueued.op? 1 = some (rigOp .queued) ∧
      rigQueued.offerOf 1 rigEntry.step = .fits 60 100 false ∧ rigQueued.freeFlow < 60) ∧
    State.offerOf { rigQueued with maxB := 0 } 1 rigEntry.step = .noFlow ∧
    (s.queue = [travel] ∧ s.op? 1 = some (rigOp .queued) ∧ s.offerOf 1 travel.step = .noPermit) ∧
    (full.offerOf 1 rigEntry.step = .fits 60 100 false ∧ 60 ≤ full.freeFlow ∧
      (rigOp .queued).prog.head? = some rigEntry.step ∧ full.hatch? 1 = some rigHatch ∧
      rigEntry.step = .releaseGroup 1 ∧
      ¬(full.directed rigHatch (.releaseGroup 1)).AtTarget (.releaseGroup 1)) ∧
    rig.point? .liftValve 1 0 = some (rigPoint .liftValve 1 0 0 none) := by decide

/-- The queued rig with a flow of 60, and its hatch with `c` as the only cleat. -/
def rigFlow (c : Cleat) : State :=
  { rigQueued with budget := 60, hatches := [{ rigHatch with cleats := [c] }] }

/-- A queue of two in order; a removal pass that leaves an entry, with too little flow and with enough,
and one that leaves none; a grant of a step that is at its target. -/
theorem test_witness_DemandClampAndTheBlockedHead_queue :
    (Entry.InOrder { rigEntry with hatch := 2, closing := true } rigEntry ∧ MotionOk rigQueued ∧
      rigQueued.removalPass.queue = [{ rigEntry with demand := some 60 }] ∧
      rigQueued.removalPass.freeFlow < 60 ∧
      (State.removalPass { rigQueued with maxB := 0 }).queue = []) ∧
    let s := rigFlow ⟨1, 1, false, .complete, .between⟩
    MotionOk s ∧ 60 ≤ s.removalPass.freeFlow ∧
      s.hatch? 1 = some { rigHatch with cleats := [⟨1, 1, false, .complete, .between⟩] } ∧
      (s.directed { rigHatch with cleats := [⟨1, 1, false, .complete, .between⟩] }
        (.releaseGroup 1)).AtTarget (.releaseGroup 1) := by
  refine ⟨⟨?_, ?_, ?_, ?_, ?_⟩, ?_, ?_, ?_, ?_⟩ <;> decide

/-- A part in motion, and one whose oil is hot. -/
theorem test_witness_BudgetIsComputedAndKept :
    MotionOk rigMoving ∧
    (let hot := { rig with points := [rigPoint .oilHot 0 0 2 (some true)] }
     hot.deriveBand = .hot ∧ hot.deriveBand ≠ hot.band ∧ rig.deriveBand = rig.band) := by decide

/-- A start at its deadline and at its settle end, and 1 ms before each; a startable pump beside a STARTING one; the feedback
of a pump without and with a settle, of a RUNNING one and of an OFF one. -/
theorem test_witness_PumpStartEnds :
    let s := fun (d t : Option Nat) => { rig with pumps := [⟨1, 150, .starting, d, t⟩] }
    ((s (some 10000) none).power = .running ∧ 10000 ≤ (s (some 10000) none).now + 10000 ∧
      (s (some 10000) none).pump? 1 = some ⟨1, 150, .starting, some 10000, none⟩ ∧
      (s (some 10000) none).pumpPoint? .pumpRun 1 = some (rigPoint .pumpRun 1 0 2 none) ∧
      (s none (some 3000)).pump? 1 = some ⟨1, 150, .starting, none, some 3000⟩ ∧
      3000 ≤ (s none (some 3000)).now + 3000 ∧
      (s (some 10000) none).now + 9999 < 10000 ∧ (s none (some 3000)).now + 2999 < 3000) ∧
    ((rig.pumps.map Pump.num).Nodup ∧ (∀ q ∈ rig.pumps, q.st ≠ .starting) ∧
      rig.pumps = [] ++ ⟨1, 150, .off, none, none⟩ :: [] ∧
      rig.startable ⟨1, 150, .off, none, none⟩ = true ∧
      rig.pumpPoint? .pumpRunning 1 = some (rigPoint .pumpRunning 1 0 1 (some false))) ∧
    (∃ p ∈ (s none none).pumps, p.st = .starting) ∧
    rigMoving.pump? 1 = some ⟨1, 150, .running, none, none⟩ ∧
    rig.pump? 1 = some ⟨1, 150, .off, none, none⟩ := by decide

theorem test_witness_PumpIdleStop :
    rig.power = .running ∧ rig.pumpIdle = some 0 ∧ 0 + 60000 ≤ rig.now + 60000 ∧
      (∀ t ∈ rig.pumpIdle, rig.now + 59999 < t + 60000) ∧
      (rig.pumps.map Pump.num).Nodup ∧ rig.pumps = [⟨1, 150, .off, none, none⟩] ∧
      rig.pumpPoint? .pumpRun 1 = some (rigPoint .pumpRun 1 0 2 none) := by decide

theorem test_witness_ClearPumpMakesThePumpOff :
    let s := { rig with pumps := [⟨1, 150, .failed, none, none⟩] }
    (Served s 2 ∧ InService s ∧ 1 ≤ (1 : Byte).toNat ∧ (1 : Byte).toNat ≤ s.pumpLimit ∧
      s.pump? 1 = some ⟨1, 150, .failed, none, none⟩ ∧ s.classOf 2 = .console) ∧
    (Served s 1 ∧ s.classOf 1 ≠ .console) ∧
    (Served rig 2 ∧ rig.pump? 1 = some ⟨1, 150, .off, none, none⟩) :=
  ⟨⟨console_served rfl rfl, by decide⟩, ⟨deck_served rfl rfl, by decide⟩,
    console_served rfl rfl, by decide⟩

/-- A telegram with heel -450, trim 451 and the CRC that its bytes have; a granted travel step whose
demand falls and whose demand rises. -/
theorem test_witness_AcceptedReadingJoinsTheWindow :
    (rig.power = .running ∧
      crc8 (be16 (0xFE3E : Word).toNat ++ be16 (0x01C3 : Word).toNat ++ [1]) =
        crc8 [0xFE, 0x3E, 0x01, 0xC3, 1] ∧ (1 : Byte).getLsbD 0 = true ∧
      (0xFE3E : Word).toInt = -450 ∧ (0x01C3 : Word).toInt = 451 ∧
      rig.att.window.length < 3 ∧ rig.att.heel = none ∧ rig.att.trim = none) ∧
    (let g := { rigGrant with step := Step.travelOpen, demand := 30, speed := 50, setpoint := 50 }
     let s := { rigMoving with granted := [g] }
     s.grant? 1 = some g ∧ s.hatch? 1 = some rigHatch ∧ g.step.isProportional = true ∧
       demandAt 60 40 = 24 ∧ 24 < g.demand ∧
       (demandAt 60 80 = 48 ∧ g.demand ≤ 48 ∧ g.speed ≤ 80 ∧ demandAt 60 80 ≤ s.maxB)) := by
  decide +kernel

/-- A CRC that differs, an invalid reading with its own CRC, and the silence at 1000 ms and 1 ms before. -/
theorem test_witness_TheAttitudeLineWithoutAReading :
    rig.power = .running ∧ crc8 (be16 0 ++ be16 0 ++ [1]) ≠ 0 ∧
      crc8 (be16 0 ++ be16 0 ++ [0]) = 0 ∧ (0 : Byte).getLsbD 0 = false ∧
      rig.att.silence = some 0 ∧ 0 + 1000 ≤ rig.now + 1000 ∧
      (∀ t ∈ rig.att.silence, rig.now + 999 < t + 1000) ∧ rig.att.heel = none ∧
      rig.att.trim = none := by decide +kernel

/-- A window of four readings; the peaks are the default limits 20 and 50 of heel, 10 and 30 of
trim. -/
theorem test_witness_SpeedFraction :
    let s := { rig with att := { rig.att with window := [(-50, 30), (0, 0), (0, 0), (20, 10)] } }
    s.inForce = some [] ∧ s.att.peakHeel = some 50 ∧ s.att.peakTrim = some 30 ∧
      4 ≤ s.att.window.length ∧ rig.att.window.length < 4 ∧ (20 < 50 ∧ 40 ≤ 100) ∧
      fractionAt 20 50 40 50 = some 40 ∧ fractionAt 20 50 40 20 = some 100 ∧
      fractionAt 20 50 40 51 = none := by decide

/-- A part whose image has not been read; a scan that is due; place 3 after a reply in place 2, at its slot,
less than 1 ms before it and earlier; and a running turn. -/
theorem test_witness_ScanPollsTheFirstNode :
    let replied := fun (now : Nat) => { rig with now := now, scan := ⟨7, 20, some 2, true, true, []⟩
                                                 nodes := [1, 2, 3, 4].map rigNode }
    (State.reset.power = .running ∧ State.reset.started = false) ∧
    (rig.power = .running ∧ rig.started = true ∧ rig.nodes = rigNode 1 :: [rigNode 2] ∧
      rig.scan.place = none ∧ rig.scan.due ≤ rig.now + 20) ∧
    ((replied 0).scan.place = some 2 ∧ (replied 0).nodes[2 + 1]? = some (rigNode 4) ∧
      5 * 20 + 2 * (2 + 1) ≤ 5 * ((replied 0).now + 2 + 20) ∧
      5 * ((replied 0).now + 1 + 20) < 5 * 20 + 2 * (2 + 1) ∧
      20 + 2 * (2 + 1) / 5 ≤ (replied 0).now + 1 + 20 ∧
      (replied 0).now + 0 + 20 < 20 + 2 * (2 + 1) / 5) ∧
    rig.now + 19 < rig.scan.due ∧ { rig.scan with place := some 0 }.place ≠ none ∧
      rig.scan.replied = false := by decide

/-- The rig in the turn of the node in place `k`. -/
def rigTurn (k : Nat) : State := { rig with scan := ⟨7, 20, some k, false, true, []⟩ }

/-- A turn that is not the last of its scan, and the last; a node that is ONLINE, one that comes back and
one at its first good reply; inputs with a debounced, with a pressure and with no binding. -/
theorem test_witness_GoodReplyFollowsTheNodeTable :
    (rigTurn 0).power = .running ∧ ((rigTurn 0).nodes.map Node.addr).Nodup ∧
      (rigTurn 0).scan.place = some 0 ∧ (rigTurn 0).scan.replied = false ∧
      (rigTurn 0).nodes[0]? = some (rigNode 1) ∧ (1 : Byte) = byte (rigNode 1).addr ∧
      crc8 [1, 0, 0] = crc8 [1, 0, 0] ∧ 0 + 1 < (rigTurn 0).nodes.length ∧
      (rigTurn 1).nodes[1]? = some (rigNode 2) ∧ (rigTurn 1).nodes.length ≤ 1 + 1 ∧
      (rigNode 1).st = .online ∧
      (let back := { rigNode 1 with st := .lost, goods := 1 }
       ({ rigTurn 0 with nodes := [back] } : State).nodes[0]? = some back ∧ back.st ≠ .online ∧
        1 ≤ back.goods ∧ { back with goods := 0 }.goods = 0) ∧
      rigPoints.find? (fun p => p.node = 1 ∧ p.point = 0 ∧ p.role.code ≤ 12) =
        some (rigPoint .cleatEngaged 1 1 0 (some false)) ∧
      rigPoints.find? (fun p => p.node = 1 ∧ p.point = 9 ∧ p.role.code ≤ 12) = none := by
  decide +kernel

theorem test_witness_MissedTurnFollowsTheNodeTable :
    ((rigTurn 0).power = .running ∧ ((rigTurn 0).nodes.map Node.addr).Nodup ∧
      (rigTurn 0).scan.place = some 0 ∧ (rigTurn 0).scan.replied = false ∧
      (rigTurn 0).nodes[0]? = some (rigNode 1) ∧ (rigTurn 0).nodes[0 + 1]? = some (rigNode 2) ∧
      (rigTurn 0).scan.due + 2 * (0 + 1) / 5 ≤ (rigTurn 0).now + 0 + 20 ∧
      { rigTurn 0 with scan := ⟨7, 21, some 0, false, true, []⟩ }.now + 0 + 20 < 21 + 2 * (0 + 1) / 5 ∧
      (rigTurn 1).nodes[1]? = some (rigNode 2) ∧ (rigTurn 1).nodes.length ≤ 1 + 1 ∧
      replyBits 1 [1, 0] = none ∧ replyBits 1 [2, 0, 0, 0] = none) ∧
    (let s := { rigTurn 0 with nodes := [{ rigNode 1 with misses := 2 }, rigNode 2] }
     s.nodes[0]? = some { rigNode 1 with misses := 2 } ∧ (rigNode 1).st = .online ∧
       2 ≤ ({ rigNode 1 with misses := 2 } : Node).misses) ∧
    rigMoving.motionUses 1 1 = true ∧ rigMoving.motionUses 2 1 = false ∧
    replyBits 1 [1, 0, 0, crc8 [1, 0, 0]] = some 0 ∧
    (let ended := { rigTurn 0 with scan := ⟨7, 20, some 0, true, true, []⟩ }
     rig.scan.place = none ∧ (rigTurn 0).scan.replied = false ∧ (rigNode 1).addr ≠ 2 ∧
      (State.advance ended 0).scan.place = some 0 ∧ (State.advance ended 0).scan.replied = true ∧
      ended.nodes[0]? = some (rigNode 1) ∧ ended.nodes[0 + 1]? = some (rigNode 2)) := by
  decide +kernel

/-- A pending value that began in scan 5 with N = 3: at scan 7 it waits, at scan 8 it qualifies. A sample
of the rig's cleat that qualifies, one that chatters for the fiftieth time, and one that does neither. -/
theorem test_witness_DebounceFollowsTheTables :
    let p := { rigPoint .panelOpen 1 1 0 (some false) with pend := some (true, 5) }
    p.qual = some (!true) ∧ p.pend = some (true, 5) ∧ 7 < 5 + 3 ∧ 5 + 3 ≤ 8 ∧
      { p with qual := none }.qual = none ∧ { p with pend := none }.pend = none ∧
    (let q := { rigPoint .cleatEngaged 1 1 0 (some false) with pend := some (true, 0), chatter := 49 }
     let n := (itemNat [] 18 2 + 19) / 20
     rig.inForce = some [] ∧ (q.debounce n 60 true).2 = (true, false) ∧
      (q.debounce n 60 false).2 = (false, true) ∧ q.chatter = 49 ∧
      (q.debounce n 0 true).2 = (false, false) ∧
      (∀ r ∈ rig.points, r.role.code ≤ 12 → r.chatter < 50)) := by decide

/-- The cleat of the rig chatters for the fiftieth time, beside a panel of its hatch whose count is `n`. -/
def rigChatter (n : Nat) : State :=
  let p := { rigPoint .cleatEngaged 1 1 0 (some false) with pend := some (true, 0), chatter := 49 }
  State.sampleDebounced
    { rig with points := [p, { rigPoint .panelOpen 1 1 2 (some false) with chatter := n }] } p false

/-- The second point of a subject that reaches 50 does not raise the alarm (R35). -/
theorem test_second_chatter_raises_nothing :
    (rigChatter 49).alarms.recs.length = 1 ∧ (rigChatter 50).alarms.recs = [] := by decide

/-- The rig at sea, with the harbour arm held by line `l`. -/
def rigSea (arm : Option Arm) : State := { rig with mode := .sea, arm := arm }

/-- No arm, the arm of the bridge at and before its expiry, and a line that is no bridge. -/
theorem test_witness_HarbourArmAndConfirmation :
    (Served (rigSea none) 3 ∧ (rigSea none).mode = .sea ∧ (rigSea none).classOf 3 = .bridge ∧
      (rigSea none).arm.map Arm.line ≠ some 3) ∧
    (Served (rigSea (some ⟨3, 10000⟩)) 3 ∧ (rigSea (some ⟨3, 10000⟩)).arm.map Arm.line = some 3) ∧
    (Served rig 1 ∧ rig.classOf 1 ≠ .bridge) ∧ (Served rig 3 ∧ rig.mode = .harbour) ∧
    ((rigSea (some ⟨3, 10000⟩)).power = .running ∧
      10000 ≤ (rigSea (some ⟨3, 10000⟩)).now + 10000 ∧
      (rigSea (some ⟨3, 10000⟩)).now + 9999 < 10000) :=
  ⟨⟨bridge_served rfl rfl, by decide⟩, ⟨bridge_served rfl rfl, by decide⟩,
    ⟨deck_served rfl rfl, by decide⟩, ⟨bridge_served rfl rfl, rfl⟩, by decide⟩

/-- The rig with its hatch SECURED. -/
def rigSecured : State := { rig with hatches := [{ rigHatch with position := .secured }] }

theorem test_witness_SeaIsEnteredSecured :
    (Served rigSecured 3 ∧ rigSecured.classOf 3 = .bridge ∧ rigSecured.mode = .harbour ∧
      (∀ hr ∈ rigSecured.hatches, hr.position = .secured) ∧ ∀ o ∈ rigSecured.ops, o.st = .idle) ∧
    (Served rig 3 ∧ rig.mode = .harbour ∧ ∃ hr ∈ rig.hatches, hr.position ≠ .secured) ∧
    (Served (rigSea none) 3 ∧ (rigSea none).mode = .sea) ∧
    (rigHeld 1).claims.any (fun d => d.hatch == 1 && d.holder.isSome) = true ∧
    Served { rig with mode := .commission } 3 ∧ (Served rig 1 ∧ rig.classOf 1 ≠ .bridge) :=
  ⟨⟨bridge_served rfl rfl, by decide⟩, ⟨bridge_served rfl rfl, by decide⟩,
    ⟨bridge_served rfl rfl, rfl⟩, by decide, bridge_served rfl rfl, deck_served rfl rfl, by decide⟩

/-- One hatch of FOLD type with one cleat, one node, one pump, every required role bound. -/
def goodItems : Items :=
  [(2 * 256 + 1, 1), (7 * 256 + 1, 0x0101), (8 * 256 + 1, 0x80F0), (32 * 256 + 1, 0x0221),
    (33 * 256 + 1, 0x0223), (34 * 256 + 1, 0x0423), (35 * 256 + 1, 0x0227),
    (36 * 256 + 1, 0x0427), (37 * 256 + 1, 0x0028), (38 * 256 + 1, 0x0029),
    (48 * 256 + 1, 0x022D), (49 * 256 + 1, 0x022E), (50 * 256 + 1, 0x0031),
    (52 * 256 + 1, 0x0234), (53 * 256 + 1, 0x0434), (54 * 256 + 1, 0x0235),
    (55 * 256 + 1, 0x0435)]

/-- The rig in COMMISSION with working configuration `c`. -/
def rigCommission (c : Items) : State := { rig with mode := .commission, working := c }

theorem test_good_configuration_is_valid : validConfig goodItems = true := by decide +kernel

/-- The build resolves the reach of a line that announced before it (R116, R129). -/
theorem test_the_load_resolves_the_reach :
    (State.line? (State.loaded (after (.announce 5 1 0 [1, 7, 0xFF, 3])
      (fresh (setItem goodItems 20 1 1)))) 1).map Line.reach = some 1 := by decide +kernel

theorem test_default_configuration_is_invalid : validConfig [] = false := by decide +kernel

theorem test_witness_CommissionIsEnteredAndLeft :
    (Served rig 2 ∧ rig.classOf 2 = .console ∧ rig.commissionEnable = true ∧ rig.mode = .harbour ∧
      ∀ o ∈ rig.ops, o.st = .idle ∨ o.st = .faulted) ∧
    (Served rigPaused 2 ∧ ∃ o ∈ rigPaused.ops, o.st ≠ .idle ∧ o.st ≠ .faulted) ∧
    (Served (rigCommission goodItems) 2 ∧ (rigCommission goodItems).mode = .commission ∧
      (rigCommission goodItems).storing = none) ∧
    (Served (rigCommission []) 2 ∧ (rigCommission []).storing = none) ∧
    Served { rigCommission [] with storing := some [] } 2 ∧ Served (rigSea none) 2 ∧
    (Served rig 1 ∧ rig.classOf 1 ≠ .console) ∧
    (Served { rig with straps := 377 } 2 ∧
      State.commissionEnable { rig with straps := 377 } = false) :=
  ⟨⟨console_served rfl rfl, by decide⟩, ⟨console_served rfl rfl, by decide⟩,
    ⟨console_served rfl rfl, rfl, rfl⟩, ⟨console_served rfl rfl, rfl⟩, console_served rfl rfl,
    console_served rfl rfl, ⟨deck_served rfl rfl, by decide⟩, console_served rfl rfl, by decide⟩

/-- The rig with a deck station that announced no emergency-stop ability. -/
def rigNoStop : State :=
  { rig with lines := [{ rigLine 1 .deck .active with estopAbility := some false }] }

/-- A motion under way with the latch clear, a latched part, a line without the ability; and a part
without hatches and nodes, stopped. -/
theorem test_witness_EmergencyStop :
    ((MotionOk rigMoving ∧ (rigMoving.pumps.map Pump.num).Nodup ∧ Served rigMoving 1 ∧
      rigMoving.mode ≠ .unconfigured ∧
      (rigMoving.line? 1).bind Line.estopAbility = some true ∧ rigMoving.latch = false ∧
      rigMoving.estopIn = false) ∧
    (MotionOk { rig with latch := true } ∧ Served { rig with latch := true } 1) ∧
    MotionOk rigNoStop ∧ Served rigNoStop 1 ∧
      (rigNoStop.line? 1).bind Line.estopAbility ≠ some true) ∧
    Stopped { State.reset with estopIn := true } (after (.estopInActive 0) State.reset) :=
  ⟨⟨⟨by decide, by decide, deck_served rfl rfl, by decide⟩, ⟨by decide, deck_served rfl rfl⟩,
    by decide, ⟨{ rigLine 1 .deck .active with estopAbility := some false }, by decide⟩,
    by decide⟩, ⟨rfl, rfl, by decide, by decide, fun _ _ => .inl rfl⟩⟩

/-- From the console and from a deck, with the latch clear and set, ESTOP_IN active and inactive. -/
theorem test_witness_ClearEstop :
    Served { rig with latch := true } 2 ∧ State.classOf { rig with latch := true } 2 = .console ∧
      Served { rig with latch := true, estopIn := true } 2 ∧ Served rig 2 ∧ Served rig 1 ∧
      rig.classOf 1 ≠ .console ∧ rig.mode = .harbour :=
  ⟨console_served rfl rfl, by decide, console_served rfl rfl, console_served rfl rfl,
    deck_served rfl rfl, by decide⟩

/-- An alarm record of hatch 1. -/
def rigAlarm (st : AlarmState) : Alarm := ⟨.stall, .hatch 1, 0, st⟩

/-- An absent record with room and with a list of 48, and a present one in each state. -/
theorem test_witness_RaiseAndClearFollowTheTables :
    let full := (List.range 48).map fun n => (⟨.nodeLost, .node (n + 1), 0, .raisedUnack⟩ : Alarm)
    (full.map fun a => (a.code, a.subject)).Nodup ∧ 48 ≤ full.length ∧ full.tail.length < 48 ∧
      (∀ a ∈ full, ¬(a.code = .stall ∧ a.subject = .hatch 1)) ∧
      [rigAlarm .raisedAck] = [] ++ ⟨.stall, .hatch 1, 0, .raisedAck⟩ :: [] ∧
      [rigAlarm .clearedUnack] = [] ++ ⟨.stall, .hatch 1, 0, .clearedUnack⟩ :: [] := by
  decide +kernel

theorem test_witness_AcknowledgeFollowsTheTables :
    let s := { rig with alarms := ⟨[rigAlarm .raisedUnack], true⟩ }
    (Served s 1 ∧ s.mode ≠ .unconfigured ∧ AlarmsOk s ∧
      recordArgs [2, 1, 1] = some (.stall, .hatch 1) ∧ s.mayAck 1 (.hatch 1) = true ∧
      recordArgs [14, 7, 0] = some (.estopActive, .part) ∧ s.mayAck 1 .part = false ∧
      s.alarms.recs = [] ++ ⟨.stall, .hatch 1, 0, .raisedUnack⟩ :: [] ∧ Served rig 1 ∧
      ∀ a ∈ rig.alarms.recs, ¬(a.code = .stall ∧ a.subject = .hatch 1)) ∧
    rig.line? 1 = some (rigLine 1 .deck .active) :=
  ⟨⟨deck_served rfl rfl, by decide, by decide, by decide, by decide, by decide, by decide, rfl,
    deck_served rfl rfl, by decide⟩, by decide⟩

theorem test_witness_ReadsAnswerDone :
    Served rig 1 ∧ Served rig 2 ∧ rig.classOf 2 = .console ∧
      (State.taken rig 0 1).lines.length = 6 ∧ (∀ x ∈ [1, 11], 1 ≤ x) :=
  ⟨deck_served rfl rfl, console_served rfl rfl, by decide⟩

/-- Item 19 index 0 at the ends of its range, an index and a value outside; a valid and an invalid
working configuration; a STORE write in progress with an answer held on a line. -/
theorem test_witness_WriteAndStore :
    (Served (rigCommission goodItems) 2 ∧ (rigCommission goodItems).classOf 2 = .console ∧
      (rigCommission goodItems).mode = .commission ∧ (rigCommission goodItems).storing = none ∧
      indexOk 19 0 = true ∧ valueOk 19 0 = true ∧ valueOk 19 63 = true ∧ indexOk 19 1 = false ∧
      valueOk 19 64 = false ∧ itemsWf goodItems = true) ∧
    (Served (rigCommission []) 2 ∧ (rigCommission []).storing = none) ∧
    (Served rig 1 ∧ rig.classOf 1 ≠ .console) ∧ (Served rig 2 ∧ rig.mode = .harbour) ∧
    (let held := { rigLine 2 .console .active with queue := [⟨0, kindStore, none, []⟩] }
     let s := { rig with storing := some goodItems, lines := [held] }
     s.power = .running ∧ s.storing = some goodItems ∧ s.line? 2 = some held ∧ held.tx = none) :=
  ⟨⟨console_served rfl rfl, by decide +kernel⟩, ⟨console_served rfl rfl, rfl⟩,
    ⟨deck_served rfl rfl, by decide⟩, ⟨console_served rfl rfl, rfl⟩, by decide⟩

/-- The item 19 at the ends of its range, and outside it. -/
theorem test_witness_WriteAndStore_range :
    ItemRange 19 0 0 ∧ ItemRange 19 0 63 ∧ ¬ItemRange 19 0 64 ∧ ¬ItemRange 19 1 0 := by
  simp [ItemRange, itemRows]

/-- Each power state with ESTOP_IN inactive and active, a command that does nothing in reset, a whole
valid and a whole invalid image, and the last turn of the first scan at sea. -/
theorem test_witness_ResetsLeaveTheResetValues :
    (rig.power = .running ∧ rig.estopIn = false ∧ { rig with estopIn := true }.estopIn = true ∧
      { rig with power := .inReset }.power = .inReset ∧
      { rig with power := .supplyHold }.power = .supplyHold) ∧
    ((Instr.store 5 6 0 []).wellFormed = true ∧ (Instr.store 5 6 0 []).actsUnpowered = false ∧
      (Instr.store 5 6 0 []).dt = 5 ∧ (Instr.scan 5).wellFormed = true ∧
      (Instr.scan 5).actsUnpowered = false) ∧
    ({ rig with image := .whole goodItems }.image = .whole goodItems ∧
      { rig with image := .whole [] }.image = .whole [] ∧ State.reset.image = .bad) ∧
    (rig.nodes.length ≤ 1 + 1 ∧ 0 + 1 < rig.nodes.length ∧ rig.mode ≠ .loading ∧
      { rig with mode := .loading }.mode = .loading ∧
      { rig.scan with firstOver := false }.firstOver = false) := by decide

/-- The rig in motion meets the invariants, and takes a step. -/
theorem test_witness_StepKeepsTheBounds :
    AlarmsOk rigMoving ∧ QueuesOk rigMoving ∧ ConfigsOk rigMoving ∧ WindowOk rigMoving ∧
      PumpsOk rigMoving := by decide

theorem test_witness_StepKeepsTheHolders : HoldersOk rigMoving := by
  intro c hc l hl
  have h : c = ⟨1, some 1, none⟩ := by simpa [rigMoving] using hc
  subst h
  have h1 : l = 1 := by simpa using hl.symm
  subst h1
  exact ⟨rigLine 1 .deck .active, by decide⟩

theorem test_witness_StepKeepsTheMotions :
    (MotionOk rigMoving ∧ StepsOk rigMoving) ∧ MotionOk rigQueued ∧ StepsOk rigQueued :=
  ⟨⟨by decide, by decide⟩, by decide, by decide⟩

/-- The valve of the granted release step is energised. -/
theorem test_witness_StepKeepsTheStop_valves :
    let s := State.drive rigMoving .cleatReleaseValve 1 1 100
    s.outAt 1 3 = 100 ∧ MotionOk s ∧ StepsOk s ∧ ValvesOk s := by
  refine ⟨?_, ?_, ?_, ?_, ?_, ?_⟩ <;> decide

theorem test_witness_StepKeepsTheStop_points : PointsOk rigMoving := by decide

theorem test_witness_StepKeepsTheFlow : MotionOk rigMoving ∧ FlowOk rigMoving := by decide

theorem test_witness_StepKeepsTheStop :
    MotionOk { rig with latch := true } ∧ StopOk { rig with latch := true } ∧ MotionOk rigMoving ∧
      StopOk rigMoving := by decide

theorem test_witness_StepKeepsTheSea :
    (MotionOk rigMoving ∧ SeaOk rigMoving) ∧ (MotionOk (rigSea none) ∧ SeaOk (rigSea none)) ∧
      StepsOk (rigSea none) ∧ ValvesOk (rigSea none) :=
  ⟨⟨by decide, by decide, by decide⟩, ⟨by decide, by decide, by decide⟩, by decide,
    by decide, by decide, by decide⟩

/-- The steps that the invariants' statements speak of are taken: the front command gives a next
state. -/
theorem test_witness_step_is_taken :
    step { rigMoving with pending := [.scan 20] } =
      .next (after (.scan 20) { rigMoving with pending := [] }) := rfl

end Sys2Proof.Tests
end

/-! The step programs of R46 to R48: what the group predicates say of the cleats, what *as
needed* selects, and the program of each kind by cover type. -/

namespace Sys2Proof.Machine

/-! ### Groups and their steps (R10, R46) -/

/-- The members of a group are all in one state when every cleat of that group number is. -/
theorem members_all_st_iff (hr : Hatch) (g : Nat) (x : CleatState) :
    ((hr.members g).all fun c => c.st == x) = true ↔
      ∀ c ∈ hr.cleats, c.group = g → c.st = x := by
  simp [Hatch.members, imp_iff_not_or]

theorem groupReleased_iff (hr : Hatch) (g : Nat) :
    hr.groupReleased g = true ↔ ∀ c ∈ hr.cleats, c.group = g → c.st = .released :=
  members_all_st_iff hr g .released

theorem groupEngaged_iff (hr : Hatch) (g : Nat) :
    hr.groupEngaged g = true ↔ ∀ c ∈ hr.cleats, c.group = g → c.st = .engaged :=
  members_all_st_iff hr g .engaged

theorem releaseSteps_eq (hr : Hatch) :
    hr.releaseSteps = (hr.groups.filter fun g =>
      ¬∀ c ∈ hr.cleats, c.group = g.num → c.st = .released).map fun g => .releaseGroup g.num := by
  simp only [Hatch.releaseSteps, ← groupReleased_iff, Bool.not_eq_true, Bool.decide_eq_false]

theorem engageSteps_eq (hr : Hatch) :
    hr.engageSteps = (hr.groups.filter fun g =>
      ¬∀ c ∈ hr.cleats, c.group = g.num → c.st = .engaged).map fun g => .engageGroup g.num := by
  simp only [Hatch.engageSteps, ← groupEngaged_iff, Bool.not_eq_true, Bool.decide_eq_false]

/-! ### The program of each kind -/

theorem program_opening_of_roll {hr : Hatch} (h : hr.cover = .roll) :
    hr.program .opening = hr.rollOpen := by
  simp only [Hatch.program, h]

theorem program_closing_of_roll {hr : Hatch} (h : hr.cover = .roll) :
    hr.program .closing = hr.rollClose := by
  simp only [Hatch.program, h]

theorem program_opening_of_fold {hr : Hatch} (h : hr.cover = .fold) :
    hr.program .opening = hr.foldOpen := by
  simp only [Hatch.program, h]

theorem program_closing_of_fold {hr : Hatch} (h : hr.cover = .fold) :
    hr.program .closing = hr.foldClose := by
  simp only [Hatch.program, h]

theorem isShut_iff (p : Position) : p.isShut = true ↔ p = .secured ∨ p = .seated := by
  simp [Position.isShut]

theorem program_release (hr : Hatch) : hr.program .release =
    if hr.position = .secured ∨ hr.position = .seated then some hr.releaseSteps else none := by
  simp only [Hatch.program, isShut_iff]

theorem program_engage (hr : Hatch) : hr.program .engage =
    if hr.position = .secured ∨ hr.position = .seated then some hr.engageSteps else none := by
  simp only [Hatch.program, isShut_iff]

/-- Settles O19: `rel` and `eng` are the model's release and engage steps, and each table is read off
position by position. -/
theorem programsFollowTheTables : Obligations.ProgramsFollowTheTables := by
  intro hr rel eng hrel heng
  obtain rfl : rel = hr.releaseSteps := hrel.trans (releaseSteps_eq hr).symm
  obtain rfl : eng = hr.engageSteps := heng.trans (engageSteps_eq hr).symm
  refine ⟨fun hc => ?_, fun hc => ?_, fun hc => ?_, fun hc => ?_, program_release hr,
    program_engage hr⟩
  · rw [program_opening_of_roll hc]
    cases hp : hr.position <;> simp only [Hatch.rollOpen, hp]
  · rw [program_closing_of_roll hc]
    cases hp : hr.position <;> simp only [Hatch.rollClose, hp]
  · rw [program_opening_of_fold hc]
    cases hp : hr.position <;> simp only [Hatch.foldOpen, hp]
  · rw [program_closing_of_fold hc]
    cases hp : hr.position <;> simp only [Hatch.foldClose, hp]

end Sys2Proof.Machine

/-! CLEAR FAULT (R64): the argument and the gate of a request in service, the clearing to
IDLE (R44), and the three answers of the owner. -/

namespace Sys2Proof.Machine

/-! ### A request that names a hatch of a part in service -/

theorem namesHatch_taken (s : State) (dt l : Nat) (b : Byte) :
    NamesHatch (s.taken dt l) b ↔ NamesHatch s b := Iff.rfl

theorem opState_taken (s : State) (dt l h : Nat) :
    (s.taken dt l).opState h = s.opState h := rfl

theorem configGate_taken (s : State) (dt l : Nat) :
    (s.taken dt l).configGate = s.configGate := rfl

theorem byte_toNat (b : Byte) : byte b.toNat = b := by
  simp [byte]

theorem oneHatch_of_named {s : State} {b : Byte} (h : NamesHatch s b) :
    s.oneHatch [b] = some b.toNat :=
  if_pos h

theorem configGate_of_inService {s : State} (h : InService s) : s.configGate = none := by
  obtain ⟨hmode, hforce⟩ := h
  have hgate : s.modeGate = none := by
    rcases hmode with hm | hm | hm <;> simp [State.modeGate, hm]
  simp [State.configGate, hgate, Option.isNone_iff_eq_none, Option.isSome_iff_ne_none.mp hforce]

theorem opState_of_op? {s : State} {h : Nat} {o : Op} (ho : s.op? h = some o) :
    s.opState h = o.st := by
  simp [State.opState, ho]

/-! ### Clearing to IDLE (R44) -/

theorem op?_clearIdle_same (s : State) (h : Nat) :
    (s.clearIdle h).op? h = (s.op? h).map Op.cleared :=
  op?_updOp_same s h Op.cleared fun _ => rfl

theorem claim?_clearIdle_same (s : State) (h : Nat) :
    (s.clearIdle h).claim? h = (s.claim? h).map fun c =>
      if c.holder.isSome then { c with idle := some s.now } else c :=
  claim?_claimRun_same _ h

/-! ### The owner's reply (R64) -/

theorem clearFault_of_class {s : State} {l : Nat} (hg : s.configGate = none)
    (hc : s.classOf l ≠ .console) (h : Nat) : s.clearFault l h = (s, .class) := by
  simp only [State.clearFault, hg, if_pos hc]

theorem clearFault_of_not_faulted {s : State} {l h : Nat} (hg : s.configGate = none)
    (hc : s.classOf l = .console) (hf : s.opState h ≠ .faulted) :
    s.clearFault l h = (s, .notRunning) := by
  simp only [State.clearFault, hg, hc, ne_eq, not_true, if_false, if_neg hf]

/-- The state that CLEAR FAULT leaves: the record cleared to IDLE, and the fault alarms of the hatch
cleared after its STALL. -/
def State.faultCleared (s : State) (h : Nat) : State :=
  (((s.clearIdle h).clearAlarm .timeout (.hatch h)).clearAlarm .jammed (.hatch h)).clearAlarm
    .pressureStuck (.hatch h)

theorem clearFault_of_faulted {s : State} {l h : Nat} (hg : s.configGate = none)
    (hc : s.classOf l = .console) (hf : s.opState h = .faulted) :
    s.clearFault l h = (s.faultCleared h, .done) := by
  simp only [State.clearFault, hg, hc, ne_eq, not_true, if_false, if_pos hf]
  rfl

theorem faultCleared_eq (s : State) (h : Nat) : s.faultCleared h =
    { s with
      ops := (s.faultCleared h).ops
      claims := (s.faultCleared h).claims
      alarms := (((s.alarms.clear .stall (.hatch h)).clear .timeout (.hatch h)).clear .jammed
        (.hatch h)).clear .pressureStuck (.hatch h) } := by
  simp only [State.faultCleared, State.clearIdle, State.claimRun, State.updClaim, State.clearAlarm,
    State.updOp]

theorem sameOther_faultCleared (s : State) (h : Nat) : SameOtherHatches s h (s.faultCleared h) :=
  (sameOther_clearIdle s h).trans <| (sameOther_clearAlarm ..).trans <|
    (sameOther_clearAlarm ..).trans (sameOther_clearAlarm ..)

theorem op?_faultCleared_same (s : State) (h : Nat) :
    (s.faultCleared h).op? h = (s.op? h).map Op.cleared :=
  op?_clearIdle_same s h

theorem claim?_faultCleared_same (s : State) (h : Nat) :
    (s.faultCleared h).claim? h = (s.claim? h).map fun c =>
      if c.holder.isSome then { c with idle := some s.now } else c :=
  claim?_clearIdle_same s h

/-- A CLEAR FAULT that names a hatch is answered with what the Engine makes of it. -/
theorem exec_clearFault {s : State} {l : Nat} (hs : Served s l) {b : Byte} (hb : NamesHatch s b)
    (dt : Nat) (seq : Byte) : exec (.clearFault dt l seq [b]) s =
      .next (((s.taken dt l).clearFault l b.toNat).1.answer l seq kindClear
        (some ((s.taken dt l).clearFault l b.toNat).2) [1, b]) := by
  have hreq : requestClearFault [b] (s.taken dt l) l =
      (((s.taken dt l).clearFault l b.toNat).1, some ((s.taken dt l).clearFault l b.toNat).2,
        [1, b]) := by
    simp only [requestClearFault, oneHatch_of_named ((namesHatch_taken s dt l b).mpr hb),
      byte_toNat, clearFaultTarget]
  have hexec : exec (.clearFault dt l seq [b]) s =
      s.onRequest dt l 2 seq kindClear (requestClearFault [b]) := rfl
  rw [hexec, request_served hs (by decide), hreq]

/-- Settles O27, by the three answers of the Engine; the FAULTED case leaves `State.faultCleared`. -/
theorem clearFaultClearsTheRecord : Obligations.ClearFaultClearsTheRecord := by
  intro s dt l seq b o hs hb hserv ho
  have hg : (s.taken dt l).configGate = none :=
    (configGate_taken s dt l).trans (configGate_of_inService hserv)
  have hcls : (s.taken dt l).classOf l = s.classOf l := classOf_taken s dt l l
  have hst : (s.taken dt l).opState b.toNat = o.st :=
    (opState_taken s dt l b.toNat).trans (opState_of_op? ho)
  have hnow : (s.taken dt l).now = s.now + dt :=
    let ⟨_, hh⟩ := hs.hears
    taken_now hh.1 dt l
  rw [exec_clearFault hs hb]
  refine ⟨fun hc => ?_, fun hc hf => ?_, fun hc hf => ?_⟩
  · rw [clearFault_of_class hg (hcls ▸ hc)]
  · rw [clearFault_of_not_faulted hg (hcls.trans hc) (hst ▸ hf)]
  · rw [clearFault_of_faulted hg (hcls.trans hc) (hst.trans hf)]
    have hother := sameOther_faultCleared (s.taken dt l) b.toNat
    refine ⟨(s.taken dt l).faultCleared b.toNat, rfl, faultCleared_eq _ _,
      fun k hk => ⟨hother.op k hk, hother.claim k hk⟩, ?_, ?_⟩
    · exact (op?_faultCleared_same _ _).trans (congrArg (Option.map Op.cleared) ho)
    · rw [← hnow]
      exact claim?_faultCleared_same (s.taken dt l) b.toNat

end Sys2Proof.Machine

/-! The speed fractions (R109): the fraction by peak angle, its bounds, the fill that a fraction
needs (R108), and the P of a proportional step (R77). -/

namespace Sys2Proof.Machine

/-! ### The fraction at a peak angle (R109) -/

/-- The table of R109 with the stop limit tested first; at full speed the model tests both limits. -/
theorem fractionAt_eq_table (fl sl mn angle : Nat) : fractionAt fl sl mn angle =
    if angle ≤ sl then
      if angle ≤ fl then some 100 else some (100 - (100 - mn) * (angle - fl) / (sl - fl))
    else none := by
  by_cases hsl : angle ≤ sl <;> simp [fractionAt, hsl]

/-- The rows of R109 that a fraction can come from. -/
theorem fractionAt_eq_some {fl sl mn angle p : Nat} (h : fractionAt fl sl mn angle = some p) :
    (angle ≤ fl ∧ p = 100) ∨
      (fl < angle ∧ angle ≤ sl ∧ p = 100 - (100 - mn) * (angle - fl) / (sl - fl)) := by
  rw [fractionAt_eq_table] at h
  split_ifs at h with hsl hfl
  · exact .inl ⟨hfl, (Option.some.inj h).symm⟩
  · exact .inr ⟨Nat.lt_of_not_le hfl, hsl, (Option.some.inj h).symm⟩

/-- Up to the stop limit no more than `100 - mn` is taken off. -/
theorem reduction_le {fl sl angle : Nat} (mn : Nat) (hsl : angle ≤ sl) :
    (100 - mn) * (angle - fl) / (sl - fl) ≤ 100 - mn :=
  Nat.div_le_of_le_mul <| by
    rw [Nat.mul_comm (sl - fl)]
    exact Nat.mul_le_mul_left _ (Nat.sub_le_sub_right hsl fl)

theorem reduction_at_stop {fl sl : Nat} (mn : Nat) (h : fl < sl) :
    (100 - mn) * (sl - fl) / (sl - fl) = 100 - mn :=
  Nat.mul_div_cancel _ (Nat.sub_pos_of_lt h)

theorem fractionAt_le_full {fl sl mn angle p : Nat} (h : fractionAt fl sl mn angle = some p) :
    p ≤ 100 := by
  obtain ⟨_, rfl⟩ | ⟨_, _, rfl⟩ := fractionAt_eq_some h
  · exact le_rfl
  · exact Nat.sub_le ..

theorem minimum_le_fractionAt {fl sl mn angle p : Nat} (hmn : mn ≤ 100)
    (h : fractionAt fl sl mn angle = some p) : mn ≤ p := by
  obtain ⟨_, rfl⟩ | ⟨_, hsl, rfl⟩ := fractionAt_eq_some h
  · exact hmn
  · have hred := reduction_le (fl := fl) mn hsl
    omega

theorem fractionAt_stop_eq_minimum {fl sl mn p : Nat} (hlim : fl < sl) (hmn : mn ≤ 100)
    (h : fractionAt fl sl mn sl = some p) : p = mn := by
  obtain ⟨hfl, _⟩ | ⟨_, _, rfl⟩ := fractionAt_eq_some h
  · exact absurd hlim (Nat.not_lt.mpr hfl)
  · rw [reduction_at_stop mn hlim, Nat.sub_sub_self hmn]

/-! ### The fraction of an axis and its fill (R108) -/

theorem axisFraction_of_fill {fill : Nat} (hfill : 4 ≤ fill) (angle fl sl mn : Nat) :
    axisFraction fill (some angle) fl sl mn = fractionAt fl sl mn angle :=
  if_pos hfill

theorem axisFraction_of_short_fill {fill : Nat} (hfill : fill < 4) (pk : Option Nat)
    (fl sl mn : Nat) : axisFraction fill pk fl sl mn = none := by
  cases pk with
  | none => rfl
  | some angle => exact if_neg (Nat.not_le.mpr hfill)

/-! ### Both axes under the configuration in force (R107) -/

theorem deriveFractions_heel {s : State} {c : Items} (hc : s.inForce = some c) :
    s.deriveFractions.heel = axisFraction s.att.window.length s.att.peakHeel (itemNat c 12 0)
      (itemNat c 13 0) (itemNat c 14 0) := by
  simp only [State.deriveFractions, hc]

theorem deriveFractions_trim {s : State} {c : Items} (hc : s.inForce = some c) :
    s.deriveFractions.trim = axisFraction s.att.window.length s.att.peakTrim (itemNat c 15 0)
      (itemNat c 16 0) (itemNat c 17 0) := by
  simp only [State.deriveFractions, hc]

/-! ### The P of a step (R77) -/

theorem fraction_of_roll_axis (s : State) {st : Step} (h : st.axis = some .roll) :
    s.fraction st = s.att.heel := by
  simp only [State.fraction, h]

theorem fraction_of_fold_axis (s : State) {st : Step} (h : st.axis = some .fold) :
    s.fraction st = s.att.trim := by
  simp only [State.fraction, h]

/-- Settles O39, axis by axis from the table of R109, with the bounds of `fractionAt`. -/
theorem speedFraction : Obligations.SpeedFraction := by
  intro s c hc
  refine ⟨fun a hpeak hfill => ?heel, fun a hpeak hfill => ?trim, fun hfill => ⟨?_, ?_⟩,
    fun fl sl mn a p hlim hmn hp => ⟨minimum_le_fractionAt hmn hp, fractionAt_le_full hp, ?stop⟩,
    fraction_of_roll_axis s rfl, fraction_of_roll_axis s rfl,
    fraction_of_fold_axis s rfl, fraction_of_fold_axis s rfl⟩
  case heel =>
    rw [deriveFractions_heel hc, hpeak, axisFraction_of_fill hfill, fractionAt_eq_table]
  case trim =>
    rw [deriveFractions_trim hc, hpeak, axisFraction_of_fill hfill, fractionAt_eq_table]
  case stop =>
    rintro rfl
    exact fractionAt_stop_eq_minimum hlim hmn hp
  · rw [deriveFractions_heel hc, axisFraction_of_short_fill hfill]
  · rw [deriveFractions_trim hc, axisFraction_of_short_fill hfill]

end Sys2Proof.Machine

/-! The gate of a part in a ship mode (R131), and CLEAR ESTOP (R142): its answer row by row, and
what the last row leaves. -/

namespace Sys2Proof.Machine

/-! ### The gate of the part mode (R131) -/

/-- A part in a ship mode turns no request away by its part mode. -/
theorem modeGate_of_ship_mode {s : State}
    (hm : s.mode = .sea ∨ s.mode = .harbour ∨ s.mode = .commission) : s.modeGate = none := by
  rcases hm with hm | hm | hm <;> simp only [State.modeGate, hm]

theorem modeGate_taken (s : State) (dt l : Nat) : (s.taken dt l).modeGate = s.modeGate := rfl

/-! ### The rows of CLEAR ESTOP (R142) -/

theorem clearEstop_of_class {s : State} {l : Nat} (hg : s.modeGate = none)
    (hc : s.classOf l ≠ .console) : s.clearEstop l = (s, .class) := by
  simp only [State.clearEstop, hg, if_pos hc]

theorem clearEstop_of_latch_clear {s : State} {l : Nat} (hg : s.modeGate = none)
    (hc : s.classOf l = .console) (hl : s.latch = false) : s.clearEstop l = (s, .notRunning) := by
  simp only [State.clearEstop, hg, hc, ne_eq, not_true, if_false, if_pos hl]

theorem clearEstop_of_line_active {s : State} {l : Nat} (hg : s.modeGate = none)
    (hc : s.classOf l = .console) (hl : s.latch ≠ false) (hin : s.estopIn = true) :
    s.clearEstop l = (s, .lineActive) := by
  simp only [State.clearEstop, hg, hc, ne_eq, not_true, if_false, if_neg hl, if_pos hin]

theorem clearEstop_of_latch_set {s : State} {l : Nat} (hg : s.modeGate = none)
    (hc : s.classOf l = .console) (hl : s.latch ≠ false) (hin : s.estopIn ≠ true) :
    s.clearEstop l =
      ({ s with latch := false, alarms := s.alarms.clear .estopActive .part }, .done) := by
  simp only [State.clearEstop, hg, hc, ne_eq, not_true, if_false, if_neg hl, if_neg hin,
    State.clearAlarm]

/-- A CLEAR ESTOP with its index byte is answered with what Mode Control makes of it. -/
theorem exec_clearEstop {s : State} {l : Nat} (hs : Served s l) (dt : Nat) (seq i : Byte) :
    exec (.clearEstop dt l seq [i]) s =
      .next (((s.taken dt l).clearEstop l).1.answer l seq kindClear
        (some ((s.taken dt l).clearEstop l).2) [3, i]) := by
  have hreq : requestClearEstop [i] (s.taken dt l) l =
      (((s.taken dt l).clearEstop l).1, some ((s.taken dt l).clearEstop l).2, [3, i]) := by
    simp only [requestClearEstop, anyIndex, clearEstopTarget, byte_toNat]
  have hexec : exec (.clearEstop dt l seq [i]) s =
      s.onRequest dt l 2 seq kindClear (requestClearEstop [i]) := rfl
  rw [hexec, request_served hs (by decide), hreq]

/-- Settles O48, row by row; the telegram that carries the request changes neither the class of its
line nor the latch and the level of ESTOP_IN. -/
theorem clearEstop : Obligations.ClearEstop := by
  intro s dt l seq i hs hm
  have hg : (s.taken dt l).modeGate = none :=
    (modeGate_taken s dt l).trans (modeGate_of_ship_mode hm)
  have hcls : (s.taken dt l).classOf l = s.classOf l := classOf_taken s dt l l
  rw [exec_clearEstop hs]
  split_ifs with hc hl hin
  · rw [clearEstop_of_class hg (hcls ▸ hc)]
  · rw [clearEstop_of_latch_clear hg (hcls.trans (not_not.mp hc)) hl]
  · rw [clearEstop_of_line_active hg (hcls.trans (not_not.mp hc)) hl hin]
  · rw [clearEstop_of_latch_set hg (hcls.trans (not_not.mp hc)) hl hin]
    rfl

end Sys2Proof.Machine

/-! MODE SEA (R136): its rows in their order, and the release of every claim (R118, R125) where
every operation record is IDLE. -/

namespace Sys2Proof.Machine

/-! ### The release of a claim (R118, R69) -/

/-- The claim of a hatch that has no holder, its idle timer discarded (R118). -/
def Claim.freed (c : Claim) : Claim := { c with holder := none, idle := none }

/-- Every operation record is IDLE. -/
def State.AllIdle (s : State) : Prop := ∀ o ∈ s.ops, o.st = .idle

theorem opState_of_allIdle {s : State} (hi : s.AllIdle) (h : Nat) : s.opState h = .idle := by
  unfold State.opState
  split
  · next o ho => exact hi o (findKey_mem ho)
  · rfl

/-- The Engine has nothing to clear at the loss of a claim where every record is IDLE (R69). -/
theorem release_of_allIdle {s : State} (hi : s.AllIdle) (h : Nat) :
    s.release h = s.claimFree h := by
  have hst : (s.claimFree h).opState h = .idle := opState_of_allIdle (s := s.claimFree h) hi h
  simp only [State.release, State.claimLoss, hst]

theorem foldl_release_of_allIdle (hs : List Nat) {s : State} (hi : s.AllIdle) :
    hs.foldl State.release s = hs.foldl State.claimFree s := by
  induction hs generalizing s with
  | nil => rfl
  | cons h hs ih =>
    rw [List.foldl_cons, List.foldl_cons, release_of_allIdle hi h]
    exact ih (s := s.claimFree h) hi

/-! ### The claims that are freed -/

theorem claims_claimFree (s : State) (h : Nat) :
    (s.claimFree h).claims = s.claims.map fun c => if c.hatch = h then c.freed else c := by
  simp only [State.claimFree, State.updClaim, updateKey, beq_iff_eq, Claim.freed]

theorem claims_foldl_claimFree (hs : List Nat) (s : State) :
    (hs.foldl State.claimFree s).claims =
      s.claims.map fun c => if c.hatch ∈ hs then c.freed else c := by
  induction hs generalizing s with
  | nil => simp
  | cons h hs ih =>
    rw [List.foldl_cons, ih, claims_claimFree, List.map_map]
    refine List.map_congr_left fun c _ => ?_
    by_cases hc : c.hatch = h <;> simp [hc, Claim.freed]

theorem foldl_claimFree_eq (hs : List Nat) (s : State) :
    hs.foldl State.claimFree s = { s with claims := (hs.foldl State.claimFree s).claims } := by
  induction hs generalizing s with
  | nil => rfl
  | cons h hs ih => exact ih (s.claimFree h)

/-! ### The release of every claim (R125) -/

/-- The hatch `h` has a holder: some claim record of it does. -/
def State.isHeld (s : State) (h : Nat) : Bool :=
  s.claims.any fun d => d.hatch == h && d.holder.isSome

theorem mem_held_iff (s : State) (h : Nat) :
    h ∈ (s.claims.filter fun c => c.holder.isSome).map Claim.hatch ↔ s.isHeld h = true := by
  simp only [State.isHeld, List.mem_map, List.mem_filter, List.any_eq_true, Bool.and_eq_true,
    beq_iff_eq]
  exact exists_congr fun c => ⟨fun ⟨⟨hc, hsome⟩, hh⟩ => ⟨hc, hh, hsome⟩,
    fun ⟨hc, hh, hsome⟩ => ⟨⟨hc, hsome⟩, hh⟩⟩

theorem releaseAll_of_allIdle {s : State} (hi : s.AllIdle) :
    s.releaseAll = { s with
      claims := s.claims.map fun c => if s.isHeld c.hatch = true then c.freed else c } := by
  rw [State.releaseAll, foldl_release_of_allIdle _ hi, foldl_claimFree_eq, claims_foldl_claimFree]
  simp only [mem_held_iff]

/-- A claim record that the release of every claim leaves was freed, or had no holder before. -/
theorem holder_none_of_mem_released {s : State} {c : Claim}
    (hc : c ∈ s.claims.map fun c => if s.isHeld c.hatch = true then c.freed else c) :
    c.holder = none := by
  obtain ⟨d, hd, rfl⟩ := List.mem_map.mp hc
  by_cases hheld : s.isHeld d.hatch = true
  · rw [if_pos hheld, Claim.freed]
  · rw [if_neg hheld]
    refine Option.not_isSome_iff_eq_none.mp fun hsome => hheld ?_
    exact List.any_eq_true.mpr ⟨d, hd, by simp [hsome]⟩

/-! ### The rows of MODE SEA (R136) -/

theorem secured_iff (s : State) : s.secured = true ↔
    (∀ hr ∈ s.hatches, hr.position = .secured) ∧ s.AllIdle := by
  simp [State.secured, State.AllIdle]

theorem secured_eq_false_iff (s : State) : s.secured = false ↔
    (∃ hr ∈ s.hatches, hr.position ≠ .secured) ∨ ∃ o ∈ s.ops, o.st ≠ .idle := by
  simp only [← Bool.not_eq_true, secured_iff, State.AllIdle, not_and_or, not_forall, exists_prop,
    ne_eq]

theorem enterSea_of_class {s : State} {l : Nat} (hg : s.modeGate = none)
    (hc : s.classOf l ≠ .bridge) : s.enterSea l = (s, .class) := by
  simp only [State.enterSea, hg, if_pos hc]

theorem enterSea_at_sea {s : State} {l : Nat} (hc : s.classOf l = .bridge) (hm : s.mode = .sea) :
    s.enterSea l = (s, .done) := by
  simp only [State.enterSea, modeGate_of_ship_mode (.inl hm), hc, ne_eq, not_true, if_false,
    if_pos hm]

theorem enterSea_in_commission {s : State} {l : Nat} (hc : s.classOf l = .bridge)
    (hm : s.mode = .commission) : s.enterSea l = (s, .mode) := by
  simp [State.enterSea, modeGate_of_ship_mode (.inr (.inr hm)), hc, hm]

theorem enterSea_of_unsecured {s : State} {l : Nat} (hc : s.classOf l = .bridge)
    (hm : s.mode = .harbour) (hsec : s.secured = false) : s.enterSea l = (s, .notSecured) := by
  simp [State.enterSea, modeGate_of_ship_mode (.inr (.inl hm)), hc, hm, hsec]

theorem enterSea_of_secured {s : State} {l : Nat} (hc : s.classOf l = .bridge)
    (hm : s.mode = .harbour) (hsec : s.secured = true) :
    s.enterSea l = ((s.setMode .sea).releaseAll, .done) := by
  simp [State.enterSea, modeGate_of_ship_mode (.inr (.inl hm)), hc, hm, hsec]

/-! ### The request -/

/-- A MODE SEA without a further byte is answered with what Mode Control makes of it, and with the
part mode after it. -/
theorem exec_modeSea {s : State} {l : Nat} (hs : Served s l) (dt : Nat) (seq : Byte) :
    exec (.modeSea dt l seq []) s =
      .next (((s.taken dt l).enterSea l).1.answer l seq kindMode
        (some ((s.taken dt l).enterSea l).2)
        [3, byte ((s.taken dt l).enterSea l).1.mode.code]) := by
  have hexec : exec (.modeSea dt l seq []) s =
      s.onRequest dt l 1 seq kindMode (requestModeSea []) := rfl
  rw [hexec, request_served hs (by decide)]
  rfl

theorem mode_taken (s : State) (dt l : Nat) : (s.taken dt l).mode = s.mode := rfl

/-- Settles O45, row by row; on the last row every record is IDLE, so that the releases free the
claims and nothing else. -/
theorem seaIsEnteredSecured : Obligations.SeaIsEnteredSecured := by
  intro s dt l seq hs
  have hcls : (s.taken dt l).classOf l = s.classOf l := classOf_taken s dt l l
  rw [exec_modeSea hs]
  refine ⟨fun hm hc => ?otherClass, fun hc => ⟨fun hm => ?atSea, fun hm => ?inCommission,
    fun hm hun => ?unsecured, fun hm hpos hidle => ?entered⟩⟩
  case otherClass =>
    have hg : (s.taken dt l).modeGate = none :=
      (modeGate_taken s dt l).trans (modeGate_of_ship_mode hm)
    rw [enterSea_of_class hg (hcls ▸ hc), mode_taken]
  case atSea =>
    rw [enterSea_at_sea (hcls.trans hc) hm, mode_taken, hm]
    rfl
  case inCommission =>
    rw [enterSea_in_commission (hcls.trans hc) hm, mode_taken, hm]
    rfl
  case unsecured =>
    have hsec : (s.taken dt l).secured = false := (secured_eq_false_iff s).mpr hun
    rw [enterSea_of_unsecured (hcls.trans hc) hm hsec, mode_taken, hm]
    rfl
  case entered =>
    have hsec : (s.taken dt l).secured = true := (secured_iff s).mpr ⟨hpos, hidle⟩
    have hrel := releaseAll_of_allIdle (s := (s.taken dt l).setMode .sea) hidle
    rw [enterSea_of_secured (hcls.trans hc) hm hsec, hrel]
    exact ⟨_, rfl, rfl, rfl, fun c => holder_none_of_mem_released⟩

end Sys2Proof.Machine

/-! Raising and clearing a condition (R146, R147): the answer by the record that the list finds,
and what finding, updating and removing come to where that record is the only one of its code and
subject (R145). -/

namespace Sys2Proof.Machine

/-! ### The rows, by what the list finds -/

section
variable {al : AlarmList} {c : AlarmCode} {sub : Subject}

theorem raise_of_room (h : al.find c sub = none) (hroom : al.recs.length < 48) (now : Nat) :
    al.raise c sub now = { al with recs := al.recs ++ [⟨c, sub, now, .raisedUnack⟩] } := by
  simp only [AlarmList.raise, h, if_pos hroom]

theorem raise_of_full (h : al.find c sub = none) (hfull : 48 ≤ al.recs.length) (now : Nat) :
    al.raise c sub now = { al with overflow := true } := by
  simp only [AlarmList.raise, h, if_neg hfull.not_gt]

/-- A raise changes a record found only where it stands CLEARED_UNACK. -/
theorem raise_of_find {a : Alarm} (h : al.find c sub = some a) (now : Nat) :
    al.raise c sub now =
      if a.st = .clearedUnack then
        al.update c sub fun x => { x with st := .raisedUnack, time := now }
      else al := by
  simp only [AlarmList.raise, h]
  cases a.st <;> rfl

theorem clear_of_absent (h : al.find c sub = none) : al.clear c sub = al := by
  simp only [AlarmList.clear, h]

theorem clear_of_raisedUnack {a : Alarm} (h : al.find c sub = some a) (hst : a.st = .raisedUnack) :
    al.clear c sub = al.update c sub fun x => { x with st := .clearedUnack } := by
  simp only [AlarmList.clear, h, hst]

theorem clear_of_raisedAck {a : Alarm} (h : al.find c sub = some a) (hst : a.st = .raisedAck) :
    al.clear c sub = al.remove c sub := by
  simp only [AlarmList.clear, h, hst]

theorem clear_of_clearedUnack {a : Alarm} (h : al.find c sub = some a)
    (hst : a.st = .clearedUnack) : al.clear c sub = al := by
  simp only [AlarmList.clear, h, hst]

end

/-! ### The one record of its code and subject (R145) -/

/-- The list splits at the record `a`, and no record beside it is of its code and subject. -/
structure AlarmList.StandsAt (al : AlarmList) (before : List Alarm) (a : Alarm)
    (after : List Alarm) : Prop where
  recs : al.recs = before ++ a :: after
  before_other : ∀ b ∈ before, b.isOf a.code a.subject = false
  after_other : ∀ b ∈ after, b.isOf a.code a.subject = false

theorem isOf_self (a : Alarm) : a.isOf a.code a.subject = true :=
  (isOf_iff ..).mpr ⟨rfl, rfl⟩

theorem isOf_eq_false_of_id_ne {a b : Alarm} (h : b.id ≠ a.id) :
    b.isOf a.code a.subject = false := by
  rw [← Bool.not_eq_true, isOf_iff]
  rintro ⟨hcode, hsubject⟩
  exact h (Prod.ext hcode hsubject)

theorem standsAt_of_nodup {al : AlarmList} {before after : List Alarm} {a : Alarm}
    (hnodup : (al.recs.map Alarm.id).Nodup) (hrecs : al.recs = before ++ a :: after) :
    al.StandsAt before a after := by
  have hfront : ((a :: (before ++ after)).map Alarm.id).Nodup :=
    (List.perm_middle.map Alarm.id).nodup_iff.mp (hrecs ▸ hnodup)
  have hother : ∀ b ∈ before ++ after, b.isOf a.code a.subject = false := fun b hb =>
    isOf_eq_false_of_id_ne fun hid =>
      (List.nodup_cons.mp hfront).1 (hid ▸ List.mem_map_of_mem hb)
  exact ⟨hrecs, fun b hb => hother b (List.mem_append_left _ hb),
    fun b hb => hother b (List.mem_append_right _ hb)⟩

namespace AlarmList.StandsAt
variable {al : AlarmList} {before after : List Alarm} {a : Alarm}

theorem find (h : al.StandsAt before a after) : al.find a.code a.subject = some a := by
  have hbefore : before.find? (fun b => b.isOf a.code a.subject) = none :=
    List.find?_eq_none.mpr fun b hb => by simp [h.before_other b hb]
  simp only [AlarmList.find, h.recs, List.find?_append, hbefore, List.find?_cons, isOf_self,
    Option.none_or]

theorem update (h : al.StandsAt before a after) (f : Alarm → Alarm) :
    al.update a.code a.subject f = { al with recs := before ++ f a :: after } := by
  have hkeep : ∀ l : List Alarm, (∀ b ∈ l, b.isOf a.code a.subject = false) →
      l.map (fun b => if b.isOf a.code a.subject then f b else b) = l := fun l hl =>
    (List.map_congr_left fun b hb => by simp [hl b hb]).trans l.map_id
  simp only [AlarmList.update, h.recs, List.map_append, List.map_cons,
    hkeep before h.before_other, hkeep after h.after_other, isOf_self, if_true]

theorem remove (h : al.StandsAt before a after) :
    al.remove a.code a.subject = ⟨before ++ after, false⟩ := by
  have hkeep : ∀ l : List Alarm, (∀ b ∈ l, b.isOf a.code a.subject = false) →
      l.filter (fun b => !b.isOf a.code a.subject) = l := fun l hl =>
    List.filter_eq_self.mpr fun b hb => by simp [hl b hb]
  simp [AlarmList.remove, h.recs, hkeep before h.before_other, hkeep after h.after_other,
    isOf_self]

end AlarmList.StandsAt

/-- Settles O49, row by row of R146 and R147: no record of the code and subject is found, or the
list splits at the only one. -/
theorem raiseAndClearFollowTheTables : Obligations.RaiseAndClearFollowTheTables := by
  intro al c sub now hnodup
  refine ⟨fun habsent => ?absent, fun before after t0 st hrecs => ?found⟩
  case absent =>
    have hfind : al.find c sub = none := (find_none_iff al c sub).mpr habsent
    exact ⟨fun hroom => raise_of_room hfind hroom now, fun hfull => raise_of_full hfind hfull now,
      clear_of_absent hfind⟩
  case found =>
    have hat : al.StandsAt before ⟨c, sub, t0, st⟩ after := standsAt_of_nodup hnodup hrecs
    have hraise := raise_of_find hat.find now
    refine ⟨fun hst => ?clearedUnack, fun hst => ?raisedUnack, fun hst => ?raisedAck⟩ <;> subst hst
    case clearedUnack => exact ⟨hraise.trans (hat.update _), clear_of_clearedUnack hat.find rfl⟩
    case raisedUnack => exact ⟨hraise, (clear_of_raisedUnack hat.find rfl).trans (hat.update _)⟩
    case raisedAck => exact ⟨hraise, (clear_of_raisedAck hat.find rfl).trans hat.remove⟩

end Sys2Proof.Machine

/-! The laws of motion, part 1: what the laws of R43, R53, R79, R81, R86 and R132 look at in a state. A change
that leaves all of it as it was is `Still`. -/

namespace Sys2Proof.Machine

/-! ### What the laws look at -/

/-- What the laws of motion look at in an operation record. -/
def Op.core (o : Op) : Nat × OpState × OpKind × List Step := (o.hatch, o.st, o.kind, o.prog)

/-- What they look at in a grant queue entry. -/
def Entry.core (e : Entry) : Nat × Step × Bool × Nat := (e.hatch, e.step, e.closing, e.time)

/-- What a binding says: role, subject, index, and the point it names. -/
def Point.core (p : Point) : Role × Nat × Nat × Nat × Nat :=
  (p.role, p.subject, p.index, p.node, p.point)

/-- The bindings of the outputs. -/
def State.outputs (s : State) : List Point := s.points.filter fun p => !p.role.isInput

/-- `t` is as `s` for every law of motion; the Alarm List, the pump records and the point map keep their own
laws. -/
structure Still (s t : State) : Prop where
  ops : t.ops.map Op.core = s.ops.map Op.core
  hatches : t.hatches.map Hatch.num = s.hatches.map Hatch.num
  queue : t.queue.map Entry.core = s.queue.map Entry.core
  granted : t.granted = s.granted
  outputs : t.outputs.map Point.core = s.outputs.map Point.core
  outs : ∀ a k, t.outAt a k = s.outAt a k
  budget : t.budget = s.budget
  pumpIdle : t.pumpIdle = s.pumpIdle
  latch : t.latch = s.latch
  mode : t.mode = s.mode
  alarms : AlarmsOk s → AlarmsOk t
  pumps : PumpsOk s → PumpsOk t
  points : PointsOk s → PointsOk t

theorem Still.refl (s : State) : Still s s :=
  ⟨rfl, rfl, rfl, rfl, rfl, fun _ _ => rfl, rfl, rfl, rfl, rfl, id, id, id⟩

theorem Still.trans {s t u : State} (h : Still s t) (k : Still t u) : Still s u :=
  ⟨k.ops.trans h.ops, k.hatches.trans h.hatches, k.queue.trans h.queue, k.granted.trans h.granted,
    k.outputs.trans h.outputs, fun a i => (k.outs a i).trans (h.outs a i), k.budget.trans h.budget,
    k.pumpIdle.trans h.pumpIdle, k.latch.trans h.latch, k.mode.trans h.mode,
    fun x => k.alarms (h.alarms x), fun x => k.pumps (h.pumps x),
    fun x => k.points (h.points x)⟩

theorem Still.foldl {α : Type} {f : State → α → State} (hf : ∀ x a, Still x (f x a)) (l : List α)
    (s : State) : Still s (l.foldl f s) := by
  induction l generalizing s with
  | nil => exact .refl s
  | cons a l ih => exact (hf s a).trans (ih _)

/-- The outputs are those of the node records. -/
theorem outAt_of_nodes {s t : State} (h : t.nodes = s.nodes) (a k : Nat) :
    t.outAt a k = s.outAt a k := by
  simp only [State.outAt, State.node?, h]

/-- A change of fields that no law looks at; each argument is found by `rfl` where it is not given. -/
theorem Still.of_eq {s t : State} (ops : t.ops.map Op.core = s.ops.map Op.core := by rfl)
    (hatches : t.hatches.map Hatch.num = s.hatches.map Hatch.num := by rfl)
    (queue : t.queue.map Entry.core = s.queue.map Entry.core := by rfl)
    (outputs : t.outputs.map Point.core = s.outputs.map Point.core := by rfl)
    (outs : ∀ a k, t.outAt a k = s.outAt a k := by exact outAt_of_nodes rfl)
    (alarms : AlarmsOk s → AlarmsOk t := by exact id) (pumps : PumpsOk s → PumpsOk t := by exact id)
    (points : PointsOk s → PointsOk t := by exact id)
    (granted : t.granted = s.granted := by rfl) (budget : t.budget = s.budget := by rfl)
    (pumpIdle : t.pumpIdle = s.pumpIdle := by rfl) (latch : t.latch = s.latch := by rfl)
    (mode : t.mode = s.mode := by rfl) : Still s t :=
  ⟨ops, hatches, queue, granted, outputs, outs, budget, pumpIdle, latch, mode, alarms, pumps, points⟩

/-! ### Records of one key -/

/-- An update of node records that keeps addresses and outputs keeps every output. -/
theorem outAt_updNode {s : State} (a : Nat) (f : Node → Node) (hf : ∀ n, (f n).addr = n.addr)
    (ho : ∀ n, (f n).outs = n.outs) (b k : Nat) : (s.updNode a f).outAt b k = s.outAt b k := by
  unfold State.outAt State.node?
  by_cases hb : b = a
  · subst hb
    rw [updNode_nodes, findKey_updateKey_same Node.addr b f fun n e => (hf n).trans e]
    cases findKey Node.addr b s.nodes <;> simp [ho]
  · rw [updNode_nodes, findKey_updateKey_ne Node.addr a b hb f fun n e => (hf n).trans e]

theorem still_updHatch (s : State) (h : Nat) (f : Hatch → Hatch)
    (hf : ∀ x, x.num = h → (f x).num = x.num) : Still s (s.updHatch h f) :=
  .of_eq (hatches := map_updateKey Hatch.num Hatch.num h f hf s.hatches)

theorem still_updOp (s : State) (h : Nat) (f : Op → Op)
    (hf : ∀ x, x.hatch = h → (f x).core = x.core) : Still s (s.updOp h f) :=
  .of_eq (ops := map_updateKey Op.hatch Op.core h f hf s.ops)

theorem still_updClaim (s : State) (h : Nat) (f : Claim → Claim) : Still s (s.updClaim h f) := .of_eq

theorem still_updLine (s : State) (l : Nat) (f : Line → Line) : Still s (s.updLine l f) := .of_eq

theorem still_updNode (s : State) (a : Nat) (f : Node → Node) (hf : ∀ n, (f n).addr = n.addr)
    (ho : ∀ n, (f n).outs = n.outs) : Still s (s.updNode a f) :=
  .of_eq (outs := outAt_updNode a f hf ho)

theorem still_raiseAlarm (s : State) (c : AlarmCode) (sub : Subject) : Still s (s.raiseAlarm c sub) :=
  .of_eq (alarms := fun h => alarmsOk_raiseAlarm h c sub)

theorem still_clearAlarm (s : State) (c : AlarmCode) (sub : Subject) : Still s (s.clearAlarm c sub) :=
  .of_eq (alarms := fun h => alarmsOk_clearAlarm h c sub)

theorem still_setAlarm (s : State) (b : Bool) (c : AlarmCode) (sub : Subject) :
    Still s (s.setAlarm b c sub) := by
  cases b
  · exact still_clearAlarm ..
  · exact still_raiseAlarm ..

theorem still_clearAlarms (s : State) (cs : List AlarmCode) : Still s (s.clearAlarms cs) :=
  .of_eq (alarms := fun h => alarmsOk_clearAlarms h cs)

theorem still_claimRun (s : State) (h : Nat) : Still s (s.claimRun h) := .of_eq
theorem still_claimStop (s : State) (h : Nat) : Still s (s.claimStop h) := .of_eq
theorem still_claimFree (s : State) (h : Nat) : Still s (s.claimFree h) := .of_eq
theorem still_claimGrant (s : State) (h l : Nat) : Still s (s.claimGrant h l) := .of_eq

theorem still_claimTouch (s : State) (h l : Nat) : Still s (s.claimTouch h l) := by
  unfold State.claimTouch
  split
  · exact still_claimRun ..
  · exact .refl s

theorem still_advance (s : State) (dt : Nat) : Still s (s.advance dt) := .of_eq

theorem still_noteEntry (s : State) (h d : Nat) (b : Bool) : Still s (s.noteEntry h d b) :=
  .of_eq (queue := map_updateKey Entry.hatch Entry.core h
    (fun e => { e with demand := some d, blocked := b }) (fun _ _ => rfl) s.queue)

/-! ### The Hatch Table and the classifier -/

theorem still_refresh (s : State) (h : Nat) : Still s (s.refresh h) := by
  unfold State.refresh
  split
  · exact .refl s
  · next old hold =>
    have base : Still s (s.updHatch h fun _ => s.deriveHatch old) :=
      still_updHatch s h _ fun x hx => (findKey_key hold).trans hx.symm
    have pick : ∀ (p : Prop) [Decidable p] {x y : State}, Still s x → Still s y →
        Still s (if p then x else y) := fun p _ _ _ hx hy => by split <;> assumption
    dsimp only
    have disagree := pick ((s.deriveHatch old).disagree = old.disagree) base
      (base.trans (still_setAlarm _ (s.deriveHatch old).disagree .sensorDisagree (.hatch h)))
    exact pick _ (disagree.trans (still_setAlarm ..)) disagree

theorem still_classifierIdle (s : State) (h : Nat) : Still s (s.classifierIdle h) :=
  still_updHatch _ _ _ fun _ _ => rfl

theorem still_classifierStart (s : State) (h : Nat) : Still s (s.classifierStart h) :=
  still_updHatch _ _ _ fun _ _ => rfl

theorem still_recordDirection (s : State) (h : Nat) (st : Step) :
    Still s (s.recordDirection h st) := by
  unfold State.recordDirection
  split
  · exact .refl s
  · refine Still.trans ?_ (still_refresh ..)
    exact still_updHatch _ _ _ fun _ _ => rfl

theorem still_refreshAll (s : State) : Still s s.refreshAll := Still.foldl still_refresh _ s

/-! ### Points and lines -/

/-- A change of the point records that keeps what they bind keeps the law of the point map. -/
theorem pointsOk_of_core {s t : State} (h : t.points.map Point.core = s.points.map Point.core)
    (hs : PointsOk s) : PointsOk t := by
  have hmap : ∀ {β : Type} (g : Role × Nat × Nat × Nat × Nat → β),
      t.points.map (g ∘ Point.core) = s.points.map (g ∘ Point.core) := fun g => by
    rw [← List.map_map, h, List.map_map]
  have hpts := hmap fun c => (c.1.isInput, c.2.2.2.1, c.2.2.2.2)
  have hroles := hmap fun c => (c.1, c.2.1, c.2.2.1)
  exact ⟨hpts ▸ hs.1, hroles ▸ hs.2⟩

/-- A map of the point records that keeps what the outputs bind. -/
theorem outputs_map {s t : State} (f : Point → Point) (ht : t.points = s.points.map f)
    (hin : ∀ p, (f p).role.isInput = p.role.isInput)
    (hf : ∀ p, p.role.isInput = false → (f p).core = p.core) :
    t.outputs.map Point.core = s.outputs.map Point.core := by
  rw [State.outputs, ht, List.filter_map, List.map_map]
  have hkeep : (fun p : Point => !p.role.isInput) ∘ f = fun p => !p.role.isInput :=
    funext fun p => by simp [hin]
  rw [hkeep]
  refine List.map_congr_left fun p hp => hf p ?_
  simpa using (List.mem_filter.mp hp).2

/-- A map of the point records that keeps what they bind. -/
theorem still_points {s t : State} (f : Point → Point) (ht : t = { s with points := s.points.map f })
    (hf : ∀ p, (f p).core = p.core) : Still s t := by
  subst ht
  have hrole : ∀ p, (f p).role = p.role := fun p => congrArg Prod.fst (hf p)
  refine .of_eq (outputs := outputs_map f rfl (fun p => by rw [hrole]) fun p _ => hf p)
    (points := pointsOk_of_core ?_)
  rw [List.map_map]
  exact List.map_congr_left fun p _ => hf p

theorem still_mapPoints (s : State) (a : Nat) (f : Point → Point) (hf : ∀ p, (f p).core = p.core) :
    Still s (s.mapPoints a f) :=
  still_points _ rfl fun p => by by_cases hp : p.node = a <;> simp [hp, hf]

/-- An update of the records of one input that leaves them inputs, and that keeps what they bind where no
input is bound twice. -/
theorem still_updInput (s : State) (a k : Nat) (f : Point → Point)
    (hin : ∀ p, p.role.isInput = true → (f p).role.isInput = true)
    (hf : PointsOk s → ∀ p ∈ s.points, p.node = a ∧ p.point = k ∧ p.role.isInput = true →
      (f p).core = p.core) :
    Still s (s.updInput a k f) := by
  refine .of_eq (outputs := outputs_map _ rfl (fun p => ?_) fun p hp => ?_)
    (points := fun hs => pointsOk_of_core ?_ hs)
  · split
    · next h => rw [h.2.2, hin p h.2.2]
    · rfl
  · rw [if_neg]
    rintro ⟨_, _, h⟩
    rw [hp] at h
    cases h
  · rw [State.updInput, List.map_map]
    refine List.map_congr_left fun p hp => ?_
    by_cases hk : p.node = a ∧ p.point = k ∧ p.role.isInput = true
    · simpa [hk] using hf hs p hp hk
    · simp [hk]

theorem still_transmit (s : State) (l : Nat) : Still s (s.transmit l) := .of_eq

theorem still_answer (s : State) (l : Nat) (seq kind : Byte) (r : Option Result) (args : List Byte) :
    Still s (s.answer l seq kind r args) := .of_eq

theorem still_heard (s : State) (l : Nat) : Still s (s.heard l) := .of_eq

theorem still_abandonFrame (s : State) (l : Nat) (c : FrameBreak) : Still s (s.abandonFrame l c) :=
  .of_eq

/-! ### Pump records -/

/-- An update of the records of one pump that keeps its number and starts nothing. -/
theorem pumpsOk_updPump {s : State} (n : Nat) (f : Pump → Pump) (hn : ∀ p, (f p).num = p.num)
    (hs : ∀ p, (f p).st = .starting → p.st = .starting) (h : PumpsOk s) : PumpsOk (s.updPump n f) := by
  obtain ⟨hone, hnum⟩ := h
  refine ⟨?_, ?_⟩
  · refine le_trans ?_ hone
    rw [updPump_pumps, updateKey, List.filter_map, List.length_map]
    refine (List.monotone_filter_right s.pumps fun p hp => ?_).length_le
    simp only [Function.comp_apply, beq_iff_eq] at hp ⊢
    split at hp
    · exact hs p hp
    · exact hp
  · rwa [updPump_pumps, map_updateKey Pump.num Pump.num n f (fun p _ => hn p)]

theorem still_updPump (s : State) (n : Nat) (f : Pump → Pump) (hn : ∀ p, (f p).num = p.num)
    (hs : ∀ p, (f p).st = .starting → p.st = .starting) : Still s (s.updPump n f) :=
  .of_eq (pumps := pumpsOk_updPump n f hn hs)

end Sys2Proof.Machine

/-! The laws of motion, part 2: every operation of the Hatch Engine, the Flow Arbiter and Pump Control is a
run of moves. A law of motion is then shown once for each move. -/

namespace Sys2Proof.Machine

/-- How far the records stand together. `whole`: as the laws have it. `off h again`: hatch `h` has neither
entry nor grant, whatever its op state says; `again` when its operation may be queued. `idle`: nothing is
granted, so that the budget may change. -/
inductive Focus where
  | whole
  | off (h : Nat) (again : Bool)
  | idle

/-- The operation is QUEUED or MOVING. -/
def Op.isBusy (o : Op) : Bool := o.st == .queued || o.st == .moving

/-- One move of the part: what the shared operations are made of, each with the tests that it stands under. -/
inductive Move : Focus → State → Focus → State → Prop where
  | still {f s t} : Still s t → Move f s f t
  | zero {f s} (a k : Nat) : Move f s f (s.setOut a k 0)
  | unqueue {s h o} : s.op? h = some o → o.st = .queued → Move .whole s (.off h false) (s.dropEntry h)
  | endMotion {s h o} : s.op? h = some o → o.st = .moving → Move .whole s (.off h true) (s.endMotion o)
  | rest {s h o} : s.op? h = some o → o.isBusy = false → Move .whole s (.off h false) s
  | accept {s h o} {hr : Hatch} {k d prog} : s.op? h = some o → o.isBusy = false → hr.program k = some prog →
      s.latch = false → s.mode = .sea ∨ s.mode = .harbour → (s.mode = .sea → k.isClosing = true) →
      Move .whole s (.off h true) (s.updOp h fun o => o.accept k d prog s.now)
  | settle {s h b} (f : Op → Op) : (∀ o, (f o).hatch = o.hatch) →
      (∀ o, s.op? h = some o → (f o).isBusy = false) →
      (∀ o, (f o).prog = [] ∨ (f o).kind = o.kind ∧ (f o).prog = o.prog) →
      Move (.off h b) s .whole (s.updOp h f)
  | pass {s h b o p} : s.op? h = some o → p <:+ o.prog →
      Move (.off h b) s (.off h b) (s.updOp h fun o => { o with prog := p, start := none })
  | join {s h o e} : s.op? h = some o → e.hatch = h → o.prog.head? = some e.step →
      e.closing = o.kind.isClosing →
      Move (.off h true) s .whole ((s.updOp h fun o => { o with st := .queued }).joinQueue e)
  | grant {s e rest hr d speed clamped g} : s.queue = e :: rest → s.hatch? e.hatch = some hr →
      s.offerOf e.hatch e.step = .fits d speed clamped → d ≤ s.freeFlow →
      g = ⟨e.hatch, e.step, e.closing, e.time, s.qStep e.hatch e.step, d, speed, speed, clamped⟩ →
      Move .whole s .whole (State.openValves
        (State.updOp
          { s with queue := s.queue.filter fun x => x.hatch != e.hatch, granted := s.granted ++ [g] }
          e.hatch fun o => { o with st := .moving, start := some s.now, watch := none })
        hr e.step speed)
  | grantNone {s e rest g} : s.queue = e :: rest → s.hatch? e.hatch = none →
      Move .whole s .whole
        { s with queue := s.queue.filter fun x => x.hatch != e.hatch, granted := s.granted ++ [g] }
  | write {s h g hr st v} : s.grant? h = some g → s.hatch? h = some hr →
      (st = g.step ∨ ∃ o, s.op? h = some o ∧ o.step? = some st) →
      Move .whole s .whole (s.writeDriven hr st v)
  | follow {s h g p} : s.grant? h = some g → (MotionOk s → g.step.isProportional = true) →
      Move .whole s .whole (s.updGrant h fun _ => g.follow s.maxB s.freeFlow p)
  | startPump {s} : s.queue ≠ [] → Move .whole s .whole s.startPump
  | newBudget {s} (b m : Nat) :
      Move .whole s .whole (State.shedLoop s.granted.reverse { s with budget := b, maxB := m })
  | toIdle {s} : s.pumpIdle.isSome = true ∨ s.granted = [] → Move .whole s .idle s
  | stopTimer {s} : Move .idle s .idle { s with pumpIdle := none }
  | idleBudget {s} (b m : Nat) : Move .idle s .idle { s with budget := b, maxB := m }
  | fromIdle {s} : Move .idle s .whole s
  | empty {s} : (MotionOk s → ∀ o ∈ s.ops, o.isBusy = false) → Move .whole s .whole s.emptyGrants

/-- A run of moves. -/
def Goes (f : Focus) (s : State) (g : Focus) (t : State) : Prop :=
  Relation.ReflTransGen (fun a b : Focus × State => Move a.1 a.2 b.1 b.2) (f, s) (g, t)

/-- A run of moves between states whose records stand together. -/
abbrev Moves (s t : State) : Prop := Goes .whole s .whole t

/-! ### Runs -/

theorem Goes.refl (f : Focus) (s : State) : Goes f s f s :=
  Relation.ReflTransGen.refl

theorem Goes.trans {f g i : Focus} {s t u : State} (h : Goes f s g t) (k : Goes g t i u) :
    Goes f s i u :=
  Relation.ReflTransGen.trans h k

theorem Move.goes {f g : Focus} {s t : State} (h : Move f s g t) : Goes f s g t := .single h

theorem Still.goes {s t : State} (h : Still s t) (f : Focus) : Goes f s f t := (Move.still h).goes

theorem Still.moves {s t : State} (h : Still s t) : Moves s t := h.goes .whole

theorem Goes.still {f g : Focus} {s t u : State} (h : Goes f s g t) (k : Still t u) : Goes f s g u :=
  h.trans (k.goes g)

theorem Goes.move {f g i : Focus} {s t u : State} (h : Goes f s g t) (k : Move g t i u) :
    Goes f s i u :=
  h.trans k.goes

/-- A law that every move keeps is kept by every run. -/
theorem Goes.keeps {P : Focus → State → Prop} (hP : ∀ f s g t, P f s → Move f s g t → P g t)
    {f g : Focus} {s t : State} (h : Goes f s g t) (hs : P f s) : P g t := by
  have run : ∀ {a b : Focus × State}, Relation.ReflTransGen
      (fun a b : Focus × State => Move a.1 a.2 b.1 b.2) a b → P a.1 a.2 → P b.1 b.2 := by
    intro a b hr ha
    induction hr with
    | refl => exact ha
    | tail _ hm ih => exact hP _ _ _ _ ih hm
  exact run h hs

theorem Goes.foldl {α : Type} {i : Focus} {f : State → α → State} (hf : ∀ x a, Goes i x i (f x a))
    (l : List α) (s : State) : Goes i s i (l.foldl f s) := by
  induction l generalizing s with
  | nil => exact .refl i s
  | cons a l ih => exact (hf s a).trans (ih _)

theorem Moves.ite {s t u : State} (p : Prop) [Decidable p] (h : Moves s t) (k : Moves s u) :
    Moves s (if p then t else u) := by
  split <;> assumption

/-! ### Hatch Engine -/

theorem isBusy_eq_false_iff (o : Op) : o.isBusy = false ↔ o.st ≠ .queued ∧ o.st ≠ .moving := by
  simp [Op.isBusy]

theorem ops_noteEmpty (s : State) : s.noteEmpty.ops = s.ops := by
  unfold State.noteEmpty
  split <;> rfl

theorem ops_dropEntry (s : State) (h : Nat) : (s.dropEntry h).ops = s.ops := by
  unfold State.dropEntry
  split
  · exact ops_noteEmpty _
  · rfl

theorem ops_dropGrant (s : State) (h : Nat) : (s.dropGrant h).ops = s.ops := by
  unfold State.dropGrant
  split
  · exact ops_noteEmpty _
  · rfl

theorem ops_zeroRole (s : State) (r : Role) (h : Nat) (is : List Nat) :
    (s.zeroRole r h is).ops = s.ops := by
  unfold State.zeroRole
  induction is generalizing s with
  | nil => rfl
  | cons i is ih =>
    rw [List.foldl_cons, ih]
    unfold State.drive
    split <;> rfl

theorem ops_endMotion (s : State) (o : Op) : (s.endMotion o).ops = s.ops := by
  unfold State.endMotion
  rw [classifierIdle_ops, ops_dropGrant]
  cases o.step? with
  | none => rfl
  | some st => exact (ops_zeroRole ..).trans (ops_zeroRole ..)

/-- Halting the step of a hatch and settling its operation. -/
theorem moves_haltOp (s : State) (h : Nat) {st : OpState} (hst : st ≠ .queued ∧ st ≠ .moving)
    (r : Option HaltReason) (f : Option FaultKind) : Moves s (s.haltOp h st r f) := by
  unfold State.haltOp
  split
  · exact .refl _ s
  · next o ho =>
    have settle : ∀ {x : State} {b : Bool}, Goes (.off h b) x .whole (State.claimRun
        (x.updOp h fun r' => { r' with st := st, start := none, halt := r, fault := f, hold := none })
        h) := fun {x b} =>
      (Move.goes (.settle (fun r' =>
          { r' with st := st, start := none, halt := r, fault := f, hold := none })
        (fun _ => rfl) (fun _ _ => by simp [Op.isBusy, hst]) fun _ => .inr ⟨rfl, rfl⟩)).still
        (still_claimRun ..)
    dsimp only
    split
    · next hm => exact (Move.endMotion ho hm).goes.trans settle
    · next hq => exact (Move.unqueue ho hq).goes.trans settle
    · exact .refl _ s

theorem moves_pauseOp (s : State) (h : Nat) (r : HaltReason) : Moves s (s.pauseOp h r) :=
  moves_haltOp s h (by decide) ..

theorem moves_faultOp (s : State) (h : Nat) (f : FaultKind) : Moves s (s.faultOp h f) :=
  moves_haltOp s h (by decide) ..

/-- The record of a hatch that is off is cleared. -/
theorem goes_clearIdle (s : State) (h : Nat) (b : Bool) :
    Goes (.off h b) s .whole (s.clearIdle h) := by
  unfold State.clearIdle
  refine Goes.still ?_ (still_claimRun ..)
  refine Goes.still ?_ (still_clearAlarm ..)
  exact Move.goes (.settle Op.cleared (fun _ => rfl) (fun _ _ => rfl) fun _ => .inl rfl)

/-- An update of a record that does not exist changes nothing. -/
theorem updOp_of_none {s : State} {h : Nat} (hn : s.op? h = none) (f : Op → Op) :
    s.updOp h f = s := by
  have hne : ∀ x ∈ s.ops, (x.hatch == h) = false := by
    simpa [State.op?, findKey, List.find?_eq_none] using hn
  have hops : updateKey Op.hatch h f s.ops = s.ops := by
    rw [updateKey, List.map_congr_left fun x hx => by rw [if_neg (by simp [hne x hx])]]
    exact s.ops.map_id
  rw [State.updOp, hops]

/-- An operation that is neither QUEUED nor MOVING is changed to another such state. -/
theorem moves_updOp_settled {s : State} {h : Nat} (hb : s.busy h = false) (f : Op → Op)
    (hf : ∀ o, (f o).hatch = o.hatch) (hst : ∀ o, o.isBusy = false → (f o).isBusy = false)
    (hp : ∀ o, (f o).prog = [] ∨ (f o).kind = o.kind ∧ (f o).prog = o.prog) :
    Moves s (s.updOp h f) := by
  cases ho : s.op? h with
  | none => rw [updOp_of_none ho f]; exact .refl _ s
  | some o =>
    have hbo : o.isBusy = false := by
      rw [State.busy, opState_of_op? ho] at hb
      exact hb
    refine (Move.rest ho hbo).goes.move (.settle f hf (fun x hx => ?_) hp)
    obtain rfl : x = o := Option.some.inj (hx.symm.trans ho)
    exact hst x hbo

theorem moves_clearIdle {s : State} {h : Nat} (hb : s.busy h = false) : Moves s (s.clearIdle h) := by
  unfold State.clearIdle
  refine Goes.still ?_ (still_claimRun ..)
  refine Goes.still ?_ (still_clearAlarm ..)
  exact moves_updOp_settled hb Op.cleared (fun _ => rfl) (fun _ _ => rfl) fun _ => .inl rfl

theorem busy_of_opState {s : State} {h : Nat} {st : OpState} (h1 : s.opState h = st)
    (h2 : st ≠ .queued ∧ st ≠ .moving) : s.busy h = false := by
  simp [State.busy, h1, h2]

/-- The op state of a hatch after a halt of its QUEUED or MOVING step. -/
theorem opState_haltOp {s : State} {h : Nat} {st : OpState} (hb : s.busy h = true)
    (r : Option HaltReason) (f : Option FaultKind) : (s.haltOp h st r f).opState h = st := by
  cases ho : s.op? h with
  | none => simp [State.busy, State.opState, ho] at hb
  | some o =>
    have put : ∀ x : State, x.ops = s.ops → (State.claimRun (x.updOp h fun r' =>
        { r' with st := st, start := none, halt := r, fault := f, hold := none }) h).opState h = st := by
      intro x hx
      have hxo : x.op? h = some o := by rw [← ho, State.op?, State.op?, hx]
      exact opState_of_op? ((op?_updOp_same x h (fun r' =>
        { r' with st := st, start := none, halt := r, fault := f, hold := none })
        fun _ => rfl).trans (congrArg _ hxo))
    simp only [State.busy, opState_of_op? ho, Bool.or_eq_true, beq_iff_eq] at hb
    unfold State.haltOp
    rw [ho]
    dsimp only
    rcases hb with hq | hm
    · rw [hq]; exact put _ (ops_dropEntry s h)
    · rw [hm]; exact put _ (ops_endMotion s o)

/-- A hatch that was under way is halted and cleared. -/
theorem moves_haltClear {s : State} {h : Nat} (hb : s.busy h = true) :
    Moves s ((s.haltOp h .idle none none).clearIdle h) :=
  (moves_haltOp s h (by decide) ..).trans
    (moves_clearIdle (busy_of_opState (opState_haltOp hb ..) (by decide)))

theorem moves_claimLoss (s : State) (h : Nat) : Moves s (s.claimLoss h) := by
  unfold State.claimLoss
  split
  · next hq => exact moves_haltClear (by simp [State.busy, hq])
  · next hm => exact moves_haltClear (by simp [State.busy, hm])
  · next hp => exact moves_clearIdle (busy_of_opState hp (by decide))
  · exact .refl _ s
  · exact .refl _ s

theorem moves_release (s : State) (h : Nat) : Moves s (s.release h) :=
  (still_claimFree s h).moves.trans (moves_claimLoss ..)

theorem moves_abortOp (s : State) (h : Nat) : Moves s (s.abortOp h) := by
  unfold State.abortOp
  split
  · next hq => exact moves_haltClear (by simp [State.busy, hq])
  · next hm => exact moves_haltClear (by simp [State.busy, hm])
  · next hp => exact moves_clearIdle (busy_of_opState hp (by decide))
  · exact .refl _ s
  · next hf =>
    exact moves_updOp_settled (busy_of_opState hf (by decide)) _ (fun _ => rfl) (fun _ hb => hb)
      fun _ => .inl rfl

/-! ### The offer of a step (R51) and completion (R55) -/

theorem goes_endDone (s : State) (h : Nat) (b : Bool) : Goes (.off h b) s .whole (s.endDone h) :=
  ((still_updHatch s h (fun hr => { hr with completed := inc16 hr.completed }) fun _ _ => rfl).goes
    (.off h b)).trans (goes_clearIdle _ h b)

/-- The offer of a step leaves the operation PAUSED or FAULTED. -/
theorem goes_stopAtOffer (s : State) (h : Nat) {st : OpState} (hst : st ≠ .queued ∧ st ≠ .moving)
    (r : HaltReason) (f : Option FaultKind) (b : Bool) :
    Goes (.off h b) s .whole (s.stopAtOffer h st r f) := by
  refine Goes.still (Move.goes (.settle (fun o =>
    { o with st := st, start := none, halt := some r, fault := f, hold := none }) (fun _ => rfl)
    (fun _ _ => ?_) fun _ => .inr ⟨rfl, rfl⟩)) (still_claimRun ..)
  simp [Op.isBusy, hst]

/-- The rest of a program is offered to the hatch whose operation it belongs to. -/
theorem goes_offerFrom {s : State} {hr : Hatch} {o : Op} (ho : s.op? hr.num = some o)
    {p : List Step} (hp : p <:+ o.prog) :
    Goes (.off hr.num true) s .whole (s.offerFrom hr o.kind.isClosing p) := by
  induction p with
  | nil => exact goes_endDone ..
  | cons st rest ih =>
    unfold State.offerFrom
    split
    · exact ih ((List.suffix_cons st rest).trans hp)
    · have hpass := Move.goes (.pass (b := true) ho hp)
      have ho' := (op?_updOp_same s hr.num (fun o => { o with prog := st :: rest, start := none })
        fun _ => rfl).trans (congrArg _ ho)
      dsimp only
      split
      · exact hpass.trans (goes_stopAtOffer _ _ (by decide) ..)
      · split
        · exact hpass.trans (goes_stopAtOffer _ _ (by decide) ..)
        · refine hpass.trans (Goes.trans ((still_claimStop _ hr.num).goes _) ?_)
          exact Move.goes (.join (s := (s.updOp hr.num fun o =>
            { o with prog := st :: rest, start := none }).claimStop hr.num) ho' rfl rfl rfl)

theorem moves_complete {s : State} {h : Nat} {o : Op} (ho : s.op? h = some o) (hm : o.st = .moving) :
    Moves s (s.complete h) := by
  unfold State.complete
  rw [ho]
  cases hh : s.hatch? h with
  | none => exact .refl _ s
  | some hr =>
    obtain rfl : hr.num = h := findKey_key hh
    have ho' : (s.endMotion o).op? hr.num = some o := by
      rw [State.op?, ops_endMotion]; exact ho
    exact (Move.endMotion ho hm).goes.trans (goes_offerFrom ho' (List.tail_suffix _))

theorem moves_testTarget (s : State) (h : Nat) : Moves s (s.testTarget h) := by
  unfold State.testTarget
  split
  · next o hr ho hh =>
    split
    · next st hm _ =>
      split
      · exact moves_complete ho hm
      · exact .refl _ s
    · exact .refl _ s
  · exact .refl _ s

theorem moves_engineTakes (s : State) (h : Nat) : Moves s (s.engineTakes h) := by
  unfold State.engineTakes
  split
  · next o hr ho hh =>
    split
    · split
      · exact moves_faultOp ..
      · exact .refl _ s
    · next st hm hst =>
      split
      · exact moves_faultOp ..
      · split
        · next g hg =>
          refine Goes.trans (Moves.ite _ ?_ (.refl _ s)) (moves_testTarget ..)
          exact Move.goes (.write hg hh (.inr ⟨o, ho, hst⟩))
        · exact .refl _ s
    · exact .refl _ s
  · exact .refl _ s

theorem moves_shutAllValves (s : State) : Moves s s.shutAllValves :=
  Goes.foldl (fun _ (p : Point) => Move.goes (.zero p.node p.point)) _ s

theorem moves_abortAll (s : State) : Moves s s.abortAll :=
  (Goes.foldl moves_abortOp _ s).trans (moves_shutAllValves _)

theorem moves_releaseAll (s : State) : Moves s s.releaseAll := Goes.foldl moves_release _ s

/-! ### Writes to valves leave everything but the outputs -/

theorem drive_eq (s : State) (r : Role) (h i v : Nat) :
    s.drive r h i v = { s with nodes := (s.drive r h i v).nodes } := by
  unfold State.drive
  split <;> rfl

theorem zeroRole_eq (s : State) (r : Role) (h : Nat) (is : List Nat) :
    s.zeroRole r h is = { s with nodes := (s.zeroRole r h is).nodes } := by
  unfold State.zeroRole
  induction is generalizing s with
  | nil => rfl
  | cons i is ih => rw [List.foldl_cons, ih, drive_eq s r h i 0]

theorem shutValves_eq (s : State) (h : Nat) (st : Step) :
    s.shutValves h st = { s with nodes := (s.shutValves h st).nodes } := by
  unfold State.shutValves
  rw [zeroRole_eq (s.zeroRole _ _ _), zeroRole_eq s]

theorem writeDriven_eq (s : State) (hr : Hatch) (st : Step) (v : Nat) :
    s.writeDriven hr st v = { s with nodes := (s.writeDriven hr st v).nodes } := by
  unfold State.writeDriven
  generalize st.valveIndexes = is
  induction is generalizing s with
  | nil => rfl
  | cons i is ih => rw [List.foldl_cons, ih, drive_eq s]

theorem openValves_eq (s : State) (hr : Hatch) (st : Step) (v : Nat) :
    s.openValves hr st v = { s with nodes := (s.openValves hr st v).nodes } := by
  unfold State.openValves
  rw [writeDriven_eq, zeroRole_eq]

theorem drivePump_eq (s : State) (n v : Nat) :
    s.drivePump n v = { s with nodes := (s.drivePump n v).nodes } := by
  unfold State.drivePump
  split <;> rfl

theorem startPump_eq (s : State) :
    s.startPump = { s with nodes := s.startPump.nodes, pumps := s.startPump.pumps } := by
  unfold State.startPump
  split
  · rfl
  · split
    · rfl
    · dsimp only
      rw [drivePump_eq]
      rfl

/-! ### Flow Arbiter -/

theorem moves_visitEntry (s : State) (e : Entry) : Moves s (s.visitEntry e) := by
  unfold State.visitEntry
  split
  · exact moves_pauseOp ..
  · exact moves_pauseOp ..
  · exact (still_noteEntry ..).moves

theorem moves_removalPass (s : State) : Moves s s.removalPass := Goes.foldl moves_visitEntry _ s

theorem moves_grantHead {s : State} {e : Entry} {rest : List Entry} (hq : s.queue = e :: rest)
    {d speed : Nat} {clamped : Bool} (ho : s.offerOf e.hatch e.step = .fits d speed clamped)
    (hd : d ≤ s.freeFlow) : Moves s (s.grantHead e d speed clamped) := by
  unfold State.grantHead State.takeGrant
  dsimp only
  cases hh : s.hatch? e.hatch with
  | none =>
    have hh' : State.hatch? { s with queue := s.queue.filter fun x => x.hatch != e.hatch, granted :=
      s.granted ++ [⟨e.hatch, e.step, e.closing, e.time, s.qStep e.hatch e.step, d, speed, speed,
        clamped⟩] } e.hatch = none := hh
    rw [hh']
    exact Move.goes (.grantNone hq hh)
  | some hr =>
    have hh' : State.hatch? { s with queue := s.queue.filter fun x => x.hatch != e.hatch, granted :=
      s.granted ++ [⟨e.hatch, e.step, e.closing, e.time, s.qStep e.hatch e.step, d, speed, speed,
        clamped⟩] } e.hatch = some hr := hh
    rw [hh']
    refine Goes.trans ?_ (moves_testTarget ..)
    refine Goes.still ?_ (still_classifierStart ..)
    refine Goes.still ?_ (still_recordDirection ..)
    refine (still_clearAlarm s .stall (.hatch e.hatch)).moves.trans ?_
    exact Move.goes (.grant (s := s.clearAlarm .stall (.hatch e.hatch)) hq hh ho hd rfl)

theorem moves_evalLoop (n : Nat) (s : State) : Moves s (State.evalLoop n s) := by
  induction n generalizing s with
  | zero => exact .refl _ s
  | succ n ih =>
    unfold State.evalLoop
    refine (moves_removalPass s).trans ?_
    dsimp only
    split
    · exact .refl _ _
    · next e rest hq =>
      split
      · next d speed clamped ho =>
        split
        · next hd => exact (moves_grantHead hq ho hd).trans (ih _)
        · refine ((still_noteEntry ..).moves).move (.startPump ?_)
          simp [State.noteEntry, updateKey, hq]
      · exact .refl _ _

theorem moves_evaluate (s : State) : Moves s s.evaluate := moves_evalLoop ..

theorem moves_takeBudget (s : State) : Moves s s.takeBudget :=
  (Move.goes (.newBudget s.computeB s.computeMaxB)).trans (moves_evaluate _)

theorem still_enterBand (s : State) (b : Band) : Still s (s.enterBand b) := by
  have base : Still s { s with band := b } := .of_eq
  unfold State.enterBand
  split
  · exact base.trans (still_raiseAlarm ..)
  · split
    · exact base.trans (still_clearAlarm ..)
    · exact base

theorem moves_rederiveBand (s : State) : Moves s s.rederiveBand := by
  unfold State.rederiveBand
  dsimp only
  refine Moves.ite _ (.refl _ s) ?_
  refine (still_enterBand ..).moves.trans (Moves.ite _ (.refl _ _) (moves_takeBudget _))

/-- What a new fraction leaves of a grant. -/
theorem follow_keeps (g : Grant) (maxB f p : Nat) :
    (g.follow maxB f p).hatch = g.hatch ∧ (g.follow maxB f p).step = g.step ∧
      (g.follow maxB f p).closing = g.closing ∧ (g.follow maxB f p).q = g.q := by
  unfold Grant.follow
  dsimp only
  split <;> exact ⟨rfl, rfl, rfl, rfl⟩

theorem grant?_updGrant_same {s : State} {h : Nat} {g g' : Grant} (hg : s.grant? h = some g)
    (hh : g'.hatch = g.hatch) : (s.updGrant h fun _ => g').grant? h = some g' := by
  have hkey : g'.hatch = h := hh.trans (findKey_key hg)
  exact (findKey_updateKey_same Grant.hatch h (fun _ => g') (fun _ _ => hkey) s.granted).trans
    (congrArg _ hg)

/-- Each grant with its hatch and its step. -/
def State.steps (s : State) : List (Nat × Step) := s.granted.map fun g => (g.hatch, g.step)

/-- The hatch has only a step of the axis, where no hatch has two grants. -/
def State.Travels (s : State) (c : Cover) (h : Nat) : Prop :=
  (s.steps.map Prod.fst).Nodup → ∀ st, (h, st) ∈ s.steps → st.axis = some c

theorem travels_of_grantedOn {s : State} {c : Cover} {h : Nat} (hh : h ∈ s.grantedOn c) :
    s.Travels c h := by
  obtain ⟨g, hg, rfl⟩ := List.mem_map.mp hh
  obtain ⟨hmem, haxis⟩ := List.mem_filter.mp hg
  intro hnodup st hst
  have hin : (g.hatch, g.step) ∈ s.steps := List.mem_map_of_mem (f := fun g : Grant => (g.hatch, g.step)) hmem
  have heq := List.inj_on_of_nodup_map hnodup hst hin rfl
  rw [(Prod.mk.inj heq).2]
  simpa using haxis

theorem isProportional_of_axis {st : Step} {c : Cover} (h : st.axis = some c) :
    st.isProportional = true := by
  cases st <;> first | rfl | cases h

/-- The grants after a new fraction, up to the outputs. -/
theorem granted_followOne (s : State) (p h : Nat) : (s.followOne p h).granted = s.granted ∨
    ∃ g, s.grant? h = some g ∧
      (s.followOne p h).granted = (s.updGrant h fun _ => g.follow s.maxB s.freeFlow p).granted := by
  unfold State.followOne
  split
  · next g hr hg hh =>
    refine .inr ⟨g, hg, ?_⟩
    dsimp only
    split
    · rfl
    · rw [writeDriven_eq]
  · exact .inl rfl

theorem steps_followOne {s : State} (hn : (s.steps.map Prod.fst).Nodup) (p h : Nat) :
    (s.followOne p h).steps = s.steps := by
  obtain heq | ⟨g, hg, heq⟩ := granted_followOne s p h
  · rw [State.steps, heq]; rfl
  · rw [State.steps, heq, updGrant_granted, updateKey, List.map_map]
    refine List.map_congr_left fun x hx => ?_
    by_cases hk : x.hatch = h
    · have hn' : (s.granted.map Grant.hatch).Nodup := by
        simpa [State.steps, Function.comp_def] using hn
      obtain rfl : x = g := List.inj_on_of_nodup_map hn' hx (findKey_mem hg)
        (hk.trans (findKey_key (key := Grant.hatch) hg).symm)
      obtain ⟨hhatch, hstep, -, -⟩ := follow_keeps x s.maxB s.freeFlow p
      simp [hk, hhatch, hstep]
    · simp [hk]

theorem hatches_followOne (s : State) (p h : Nat) :
    (s.followOne p h).steps.map Prod.fst = s.steps.map Prod.fst := by
  have hatches : ∀ x : State, x.steps.map Prod.fst = x.granted.map Grant.hatch := fun x => by
    simp [State.steps, Function.comp_def]
  rw [hatches, hatches]
  obtain heq | ⟨g, hg, heq⟩ := granted_followOne s p h
  · rw [heq]
  · rw [heq]
    refine map_updateKey Grant.hatch Grant.hatch h _ (fun x hx => ?_) s.granted
    rw [(follow_keeps g s.maxB s.freeFlow p).1, findKey_key (key := Grant.hatch) hg, hx]

theorem travels_followOne {s : State} {c : Cover} {k : Nat} (ht : s.Travels c k) (p h : Nat) :
    (s.followOne p h).Travels c k := by
  intro hn
  rw [hatches_followOne] at hn
  rw [steps_followOne hn]
  exact ht hn

theorem moves_followOne {s : State} {c : Cover} {h : Nat} (ht : s.Travels c h) (p : Nat) :
    Moves s (s.followOne p h) := by
  unfold State.followOne
  split
  · next g hr hg hh =>
    obtain ⟨hhatch, hstep, -, -⟩ := follow_keeps g s.maxB s.freeFlow p
    have hprop : MotionOk s → g.step.isProportional = true := fun hm => by
      obtain ⟨-, -, -, hnodup, -⟩ := hm
      refine isProportional_of_axis (ht (by simpa [State.steps, Function.comp_def] using hnodup) g.step ?_)
      exact List.mem_map.mpr ⟨g, findKey_mem hg, by rw [findKey_key (key := Grant.hatch) hg]⟩
    have hfollow := Move.goes (.follow (p := p) hg hprop)
    exact Moves.ite _ hfollow (hfollow.move
      (.write (grant?_updGrant_same hg hhatch) hh (.inl hstep.symm)))
  · exact .refl _ s

theorem moves_followAll {c : Cover} (p : Nat) (hs : List Nat) {s : State}
    (ht : ∀ h ∈ hs, s.Travels c h) : Moves s (hs.foldl (fun x h => x.followOne p h) s) := by
  induction hs generalizing s with
  | nil => exact .refl _ s
  | cons h hs ih =>
    refine (moves_followOne (ht h List.mem_cons_self) p).trans (ih fun k hk => ?_)
    exact travels_followOne (ht k (List.mem_cons_of_mem _ hk)) p h

theorem moves_axisHandOn (s : State) (c : Cover) (a b : Option Nat) :
    Moves s (s.axisHandOn c a b) := by
  unfold State.axisHandOn
  split
  · next p p' =>
    have hfold := moves_followAll (c := c) p' (s.grantedOn c) fun h hh => travels_of_grantedOn hh
    exact Moves.ite _ hfold (hfold.trans (moves_evaluate _))
  · exact (Goes.foldl (fun x h => moves_pauseOp x h .attitude) _ s).trans (moves_evaluate _)
  · exact moves_evaluate s
  · exact .refl _ s

theorem moves_hatchEvent (s : State) (h : Nat) : Moves s (s.hatchEvent h) := by
  unfold State.hatchEvent
  dsimp only
  have htaken := (still_refresh s h).moves.trans (moves_engineTakes (s.refresh h) h)
  exact Moves.ite _ htaken (htaken.trans (moves_evaluate _))

/-! ### Pump Control -/

theorem goes_drivePump_zero (f : Focus) (s : State) (n : Nat) : Goes f s f (s.drivePump n 0) := by
  unfold State.drivePump
  split
  · exact Move.goes (.zero ..)
  · exact .refl f s

theorem moves_failPump (s : State) (n : Nat) : Moves s (s.failPump n) := by
  unfold State.failPump
  refine Goes.trans ?_ (moves_takeBudget _)
  refine Goes.still ?_ (still_raiseAlarm ..)
  refine Goes.trans ?_ (goes_drivePump_zero ..)
  exact (still_updPump s n (fun p => { p with st := .failed, deadline := none, settle := none })
    (fun _ => rfl) (fun _ h => by cases h)).moves

theorem moves_pumpFeedback (s : State) (n : Nat) (on : Bool) : Moves s (s.pumpFeedback n on) := by
  unfold State.pumpFeedback
  split
  · exact .refl _ s
  · split
    · refine Moves.ite _ (Still.moves ?_) (.refl _ s)
      exact still_updPump s n (fun x => { x with deadline := none, settle := some (s.now + 3000) })
        (fun _ => rfl) (fun _ h => h)
    · exact Moves.ite _ (moves_failPump ..) (.refl _ s)
    · exact moves_failPump ..
    · exact .refl _ s

theorem moves_pumpNodeLost (s : State) (n : Nat) : Moves s (s.pumpNodeLost n) := by
  unfold State.pumpNodeLost
  split
  · exact .refl _ s
  · split
    · exact moves_failPump ..
    · exact moves_failPump ..
    · exact .refl _ s

theorem goes_stopPump (s : State) (n : Nat) : Goes .idle s .idle (s.stopPump n) := by
  unfold State.stopPump
  split
  · exact .refl _ s
  · split
    · exact .refl _ s
    · refine Goes.trans (Still.goes ?_ _) (goes_drivePump_zero ..)
      exact still_updPump s n (fun x => { x with st := .off, deadline := none, settle := none })
        (fun _ => rfl) (fun _ h => by cases h)

/-- The pumps stop where nothing is granted. -/
theorem goes_stopPumps (s : State) : Goes .idle s .whole s.stopPumps :=
  (Goes.foldl goes_stopPump _ s).trans ((Move.goes (.idleBudget _ _)).move .fromIdle)

theorem moves_idleStop (s : State) : Moves s s.idleStop := by
  unfold State.idleStop
  split
  · next he =>
    have hsome : s.pumpIdle.isSome = true := by
      cases hp : s.pumpIdle with
      | none => rw [hp] at he; cases he
      | some t => rfl
    exact (Move.goes (.toIdle (.inl hsome))).trans ((Move.goes .stopTimer).trans (goes_stopPumps _))
  · exact .refl _ s

end Sys2Proof.Machine

/-! The build (R1, R22, R41, R73) and the resets leave the records fresh: nothing under way, every output
at 0, and a point map in which nothing is bound twice, since the configuration is valid (R172). -/

namespace Sys2Proof.Machine

/-! ### The point map of a valid configuration (R31, R172) -/

theorem mem_upTo {n k : Nat} : k ∈ upTo n ↔ 1 ≤ k ∧ k ≤ n := by
  simp only [upTo, List.mem_map, List.mem_range]
  exact ⟨by rintro ⟨j, hj, rfl⟩; omega, fun h => ⟨k - 1, by omega⟩⟩

theorem nodup_upTo (n : Nat) : (upTo n).Nodup :=
  List.nodup_range.map fun a b h => by simpa using h

theorem mem_cfgNodes {c : Items} {a : Nat} :
    a ∈ cfgNodes c ↔ 1 ≤ a ∧ a ≤ 48 ∧ bits (getItem c 8 a) 15 1 = 1 := by
  have hdrop : (List.range 49).drop 1 = upTo 48 := by decide
  rw [cfgNodes, hdrop, List.mem_filter, mem_upTo, beq_iff_eq, and_assoc]

theorem nodup_cfgNodes (c : Items) : (cfgNodes c).Nodup :=
  ((List.drop_sublist 1 _).nodup List.nodup_range).filter _

/-- The binding of the point `k` of node `a`, counted over inputs and outputs; none where its item is 0. -/
def cfgPoint (c : Items) (a k : Nat) : Option Point :=
  if getItem c (32 + k) a = 0 then none else bindingOf (32 + k) a (getItem c (32 + k) a)

theorem cfgPoints_eq (c : Items) : cfgPoints c =
    (cfgNodes c).flatMap fun a => (List.range 24).filterMap fun k => cfgPoint c a k := rfl

theorem mem_cfgPoints {c : Items} {p : Point} :
    p ∈ cfgPoints c ↔ ∃ a ∈ cfgNodes c, ∃ k < 24, cfgPoint c a k = some p := by
  simp [cfgPoints_eq, List.mem_flatMap, List.mem_filterMap]

theorem bindingOf_eq_some {code a : Nat} {v : Word} {p : Point} (h : bindingOf code a v = some p) :
    Role.ofCode (bits v 0 5) = some p.role ∧ p.subject = bits v 5 4 ∧ p.index = bits v 9 5 ∧
      p.node = a ∧ p.point = (if code < 48 then code - 32 else code - 48) ∧
      p.inverted = (bits v 14 1 == 1) ∧ p.qual = none ∧ p.pend = none ∧ p.chatter = 0 ∧
      p.stale = true := by
  unfold bindingOf at h
  split at h
  · cases h
  · next r hr => cases h; exact ⟨hr, rfl, rfl, rfl, rfl, rfl, rfl, rfl, rfl, rfl⟩

theorem cfgPoint_eq_some {c : Items} {a k : Nat} {p : Point} (h : cfgPoint c a k = some p) :
    getItem c (32 + k) a ≠ 0 ∧ bindingOf (32 + k) a (getItem c (32 + k) a) = some p := by
  unfold cfgPoint at h
  split at h
  · cases h
  · next hv => exact ⟨hv, h⟩

/-- An item that is not at its default stands in the list. -/
theorem mem_of_getItem_ne {c : Items} {code idx : Nat} (h : getItem c code idx ≠ itemDefault code idx) :
    (itemKey code idx, getItem c code idx) ∈ c := by
  unfold getItem at h ⊢
  split
  · next e he =>
    have hk : e.1 = itemKey code idx := by simpa using List.find?_some he
    exact hk ▸ List.mem_of_find?_eq_some he
  · next he =>
    rw [he] at h
    exact absurd rfl h

theorem itemDefault_binding {code : Nat} (h : 32 ≤ code) (idx : Nat) : itemDefault code idx = 0 := by
  unfold itemDefault
  split <;> first | omega | rfl

/-- A point of the map is one of the bindings that the checks of R172 look at. -/
theorem mem_allBindings_of_cfgPoint {c : Items} {a k : Nat} (ha : a ≤ 48) {p : Point}
    (h : cfgPoint c a k = some p) : (32 + k, p) ∈ allBindings c := by
  obtain ⟨hv, hb⟩ := cfgPoint_eq_some h
  have hmem := mem_of_getItem_ne (c := c) (code := 32 + k) (idx := a)
    (by rwa [itemDefault_binding (by omega)])
  refine List.mem_filterMap.mpr ⟨_, hmem, ?_⟩
  simp only [itemKey_div (show a < 256 by omega), itemKey_mod (show a < 256 by omega), hb]
  simp

/-- No two bindings of a configuration that passes check 2 have the same role. -/
theorem sameRole_unique {c : Items} (hc : bindingsOk c = true) {b d : Nat × Point}
    (hb : b ∈ allBindings c) (hd : d ∈ allBindings c) (h : d.2.sameRole b.2 = true) : d = b := by
  simp only [bindingsOk, Bool.and_eq_true, List.all_eq_true, beq_iff_eq] at hc
  obtain ⟨x, hx⟩ := List.length_eq_one_iff.mp (hc.2 b hb)
  have hself : b.2.sameRole b.2 = true := by simp [Point.sameRole]
  have hb' : b ∈ (allBindings c).filter fun d => d.2.sameRole b.2 := List.mem_filter.mpr ⟨hb, hself⟩
  have hd' : d ∈ (allBindings c).filter fun d => d.2.sameRole b.2 := List.mem_filter.mpr ⟨hd, h⟩
  rw [hx, List.mem_singleton] at hb' hd'
  rw [hb', hd']

theorem isInput_of_binding {c : Items} (hc : bindingsOk c = true) {b : Nat × Point}
    (hb : b ∈ allBindings c) : b.2.role.isInput = decide (b.1 < 48) := by
  simp only [bindingsOk, Bool.and_eq_true, List.all_eq_true] at hc
  have h := hc.1 b hb
  simp only [bindingOk, Bool.and_eq_true, beq_iff_eq] at h
  exact h.1.1.2

/-- A map of the points by a value that tells the places apart has no value twice. -/
theorem nodup_cfgPoints_map {β : Type} {c : Items} (g : Point → β)
    (hg : ∀ a ∈ cfgNodes c, ∀ b ∈ cfgNodes c, ∀ k < 24, ∀ j < 24, ∀ p q, cfgPoint c a k = some p →
      cfgPoint c b j = some q → g p = g q → a = b ∧ k = j) : ((cfgPoints c).map g).Nodup := by
  rw [cfgPoints_eq, List.map_flatMap, List.nodup_flatMap]
  simp only [List.map_filterMap]
  constructor
  · intro a ha
    rw [List.Nodup, List.pairwise_filterMap]
    refine List.Pairwise.imp_of_mem (fun {k j} hk hj hne => ?_) (List.nodup_range (n := 24))
    intro x hx y hy hxy
    obtain ⟨p, hp, rfl⟩ := Option.map_eq_some_iff.mp hx
    obtain ⟨q, hq, rfl⟩ := Option.map_eq_some_iff.mp hy
    exact hne (hg a ha a ha k (List.mem_range.mp hk) j (List.mem_range.mp hj) p q hp hq hxy).2
  · refine List.Pairwise.imp_of_mem (fun {a b} ha hb hne => ?_) (nodup_cfgNodes c)
    intro x hx hy
    obtain ⟨k, hk, hx⟩ := List.mem_filterMap.mp hx
    obtain ⟨j, hj, hy⟩ := List.mem_filterMap.mp hy
    obtain ⟨p, hp, rfl⟩ := Option.map_eq_some_iff.mp hx
    obtain ⟨q, hq, hqp⟩ := Option.map_eq_some_iff.mp hy
    exact hne (hg a ha b hb k (List.mem_range.mp hk) j (List.mem_range.mp hj) p q hp hq hqp.symm).1

/-- A valid configuration binds no point and no role twice. -/
theorem pointsOk_of_valid {c : Items} (hc : bindingsOk c = true) {s : State}
    (hs : s.points = cfgPoints c) : PointsOk s := by
  have hnode : ∀ a ∈ cfgNodes c, a ≤ 48 := fun a ha => (mem_cfgNodes.mp ha).2.1
  rw [PointsOk, hs]
  constructor
  · refine nodup_cfgPoints_map _ fun a ha b hb k hk j hj p q hp hq h => ?_
    obtain ⟨-, -, -, hpn, hpp, -⟩ := bindingOf_eq_some (cfgPoint_eq_some hp).2
    obtain ⟨-, -, -, hqn, hqp, -⟩ := bindingOf_eq_some (cfgPoint_eq_some hq).2
    have hpin := isInput_of_binding hc (mem_allBindings_of_cfgPoint (hnode a ha) hp)
    have hqin := isInput_of_binding hc (mem_allBindings_of_cfgPoint (hnode b hb) hq)
    simp only [Prod.mk.injEq] at h
    obtain ⟨hin, hnn, hpt⟩ := h
    refine ⟨hpn.symm.trans (hnn.trans hqn), ?_⟩
    rw [hpin, hqin, decide_eq_decide] at hin
    rw [hpp, hqp] at hpt
    split_ifs at hpt <;> omega
  · refine nodup_cfgPoints_map _ fun a ha b hb k hk j hj p q hp hq h => ?_
    simp only [Prod.mk.injEq] at h
    have hsame : p.sameRole q = true := by simp [Point.sameRole, h]
    have hpq := sameRole_unique hc (mem_allBindings_of_cfgPoint (hnode b hb) hq)
      (mem_allBindings_of_cfgPoint (hnode a ha) hp) hsame
    rw [Prod.mk.injEq] at hpq
    obtain ⟨-, -, -, hpn, -⟩ := bindingOf_eq_some (cfgPoint_eq_some hp).2
    obtain ⟨-, -, -, hqn, -⟩ := bindingOf_eq_some (cfgPoint_eq_some hq).2
    exact ⟨hpn.symm.trans ((congrArg Point.node hpq.2).trans hqn), by omega⟩

/-! ### Fresh records -/

/-- Every record at its start value, as far as the laws of motion look at it. -/
structure Fresh (t : State) : Prop where
  ops : t.ops.map Op.hatch = t.hatches.map Hatch.num
  nodup : (t.hatches.map Hatch.num).Nodup
  idle : ∀ o ∈ t.ops, o.st = .idle ∧ o.kind = .none ∧ o.prog = []
  queue : t.queue = []
  granted : t.granted = []
  outs : ∀ a k, t.outAt a k = 0
  points : PointsOk t
  pumps : PumpsOk t

/-- A state without any record is fresh. -/
theorem fresh_of_empty {t : State} (hn : t.nodes = []) (hp : t.points = []) (hh : t.hatches = [])
    (ho : t.ops = []) (hq : t.queue = []) (hg : t.granted = []) (hpu : t.pumps = []) : Fresh t where
  ops := by rw [ho, hh]; rfl
  nodup := by rw [hh]; exact List.nodup_nil
  idle := by rw [ho]; exact fun _ h => nomatch h
  queue := hq
  granted := hg
  outs := fun a k => by rw [State.outAt, State.node?, hn]; rfl
  points := by rw [PointsOk, hp]; exact ⟨List.nodup_nil, List.nodup_nil⟩
  pumps := by rw [PumpsOk, hpu]; exact ⟨Nat.zero_le _, List.nodup_nil⟩

theorem fresh_afterReset (s : State) (p : Power) (straps : Straps) (r : Retained) :
    Fresh (s.afterReset p straps r) := fresh_of_empty rfl rfl rfl rfl rfl rfl rfl

theorem fresh_enterUnconfigured (s : State) : Fresh s.enterUnconfigured :=
  fresh_of_empty rfl rfl rfl rfl rfl rfl rfl

/-- Every output of a node list whose outputs are all 0 is 0. -/
theorem outAt_of_zero {s : State} (h : ∀ n ∈ s.nodes, ∀ v ∈ n.outs, v = 0) (a k : Nat) :
    s.outAt a k = 0 := by
  unfold State.outAt
  split
  · next n hn =>
    cases hv : n.outs[k]? with
    | none => rfl
    | some v => exact h n (findKey_mem hn) v (List.mem_of_getElem? hv)
  · rfl

theorem fresh_build (s : State) {c : Items} (hc : validConfig c = true) : Fresh (s.build c) where
  ops := by simp [State.build, State.resolveAll, Op.idle, buildHatch, List.map_map, Function.comp_def]
  nodup := by
    have h : (s.build c).hatches.map Hatch.num = upTo (cfgHatches c) := by
      simp [State.build, State.resolveAll, buildHatch, List.map_map, Function.comp_def]
    exact h ▸ nodup_upTo _
  idle := by
    intro o ho
    obtain ⟨h, -, rfl⟩ := List.mem_map.mp ho
    exact ⟨rfl, rfl, rfl⟩
  queue := rfl
  granted := rfl
  outs := outAt_of_zero fun n hn v hv => by
    obtain ⟨a, -, rfl⟩ := List.mem_map.mp hn
    exact List.eq_of_mem_replicate hv
  points := by
    simp only [validConfig, Bool.and_eq_true] at hc
    exact pointsOk_of_valid hc.1.2 rfl
  pumps := by
    have hp : (s.build c).pumps = (upTo (cfgPumps c)).map fun n =>
        ⟨n, cfgPumpFlow c n, .off, none, none⟩ := rfl
    rw [PumpsOk, hp, List.filter_map, List.map_map]
    refine ⟨?_, ?_⟩
    · simp [Function.comp_def, show (PumpState.off == PumpState.starting) = false from rfl]
    · exact (nodup_upTo _).map fun _ _ h => h

theorem alarms_build (s : State) (c : Items) :
    (s.build c).alarms = (s.clearAlarms buildCodes).alarms := by
  simp only [State.build, State.resolveAll, State.clearAlarms]

theorem alarms_enterUnconfigured (s : State) : s.enterUnconfigured.alarms =
    ((s.clearAlarms buildCodes).raiseAlarm .configInvalid .part).alarms := by
  simp only [State.enterUnconfigured, State.discard, State.resolveAll, State.clearAlarms,
    State.raiseAlarm, State.runningTime]

theorem alarmsOk_build {s : State} (c : Items) (h : AlarmsOk s) : AlarmsOk (s.build c) := by
  rw [alarmsOk_iff, alarms_build, ← alarmsOk_iff]
  exact alarmsOk_clearAlarms h buildCodes

theorem alarmsOk_enterUnconfigured {s : State} (h : AlarmsOk s) : AlarmsOk s.enterUnconfigured := by
  rw [alarmsOk_iff, alarms_enterUnconfigured, ← alarmsOk_iff]
  exact alarmsOk_raiseAlarm (alarmsOk_clearAlarms h buildCodes) ..

end Sys2Proof.Machine

/-! The laws of motion, part 3: a step is a run of events, each a run of moves, a change of the part mode, of
the latch, or of every record at once. -/

namespace Sys2Proof.Machine

/-! ### Field line and hatch events as moves -/

theorem moves_engineNodeLost (s : State) (a : Nat) : Moves s (s.engineNodeLost a) := by
  unfold State.engineNodeLost
  dsimp only
  exact Moves.ite _ (.refl _ s)
    ((Goes.foldl (fun x h => moves_pauseOp x h .nodeLost) _ s).trans (moves_evaluate _))

theorem moves_supplyNodeLost (s : State) (a : Nat) : Moves s (s.supplyNodeLost a) :=
  (Goes.foldl moves_pumpNodeLost _ s).trans (moves_rederiveBand _)

theorem still_watchOff (s : State) (h : Nat) :
    Still s (s.updOp h fun o => { o with watch := none }) := still_updOp _ _ _ fun _ _ => rfl

theorem still_losePoints (s : State) (a : Nat) : Still s (s.mapPoints a Point.lose) :=
  still_mapPoints s a _ fun _ => rfl

theorem still_regainPoints (s : State) (a : Nat) : Still s (s.mapPoints a Point.regain) :=
  still_mapPoints s a _ fun _ => rfl

theorem moves_nodeLost (s : State) (a : Nat) (b : Bool) : Moves s (s.nodeLost a b) := by
  have lost : Still s ((s.raiseAlarm .nodeLost (.node a)).mapPoints a Point.lose).refreshAll :=
    ((still_raiseAlarm ..).trans (still_losePoints ..)).trans (still_refreshAll _)
  unfold State.nodeLost
  dsimp only
  have watches := lost.trans (Still.foldl still_watchOff
    (((s.raiseAlarm .nodeLost (.node a)).mapPoints a Point.lose).refreshAll.pressureHatches a) _)
  exact Moves.ite _
    ((watches.moves.trans (moves_supplyNodeLost ..)).trans (moves_engineNodeLost ..))
    ((watches.moves.trans (moves_engineNodeLost ..)).trans (moves_supplyNodeLost ..))

theorem moves_nodeReturn (s : State) (a : Nat) (b : Bool) : Moves s (s.nodeReturn a b) := by
  unfold State.nodeReturn
  refine Goes.trans (Still.moves ?_) (moves_rederiveBand _)
  refine Still.trans (Still.trans ?_ (still_regainPoints ..)) (still_refreshAll _)
  split
  · exact still_clearAlarm ..
  · exact .refl s

theorem moves_handOn (s : State) (p : Point) (v : Bool) : Moves s (s.handOn p v) :=
  Moves.ite _ (moves_hatchEvent ..) (Moves.ite _ (moves_pumpFeedback ..) (moves_rederiveBand _))

theorem debounce_core (p : Point) (n no : Nat) (v : Bool) : (p.debounce n no v).1.core = p.core := by
  unfold Point.debounce
  repeat' split
  all_goals rfl

/-- The point found for an input is the one of its record. -/
theorem input?_eq {s : State} {a k : Nat} {p : Point} (h : s.input? a k = some p) :
    p ∈ s.points ∧ p.node = a ∧ p.point = k ∧ p.role.isInput = true := by
  have hp := List.find?_some h
  simp only [Bool.and_eq_true, beq_iff_eq] at hp
  exact ⟨List.mem_of_find?_eq_some h, hp.1.1, hp.1.2, hp.2⟩

/-- An input's record is replaced by one that binds the same. -/
theorem still_replaceInput {s : State} {p q : Point} (hp : s.input? p.node p.point = some p)
    (hq : q.core = p.core) : Still s (s.updInput p.node p.point fun _ => q) := by
  obtain ⟨hmem, -, -, hin⟩ := input?_eq hp
  refine still_updInput s _ _ _ (fun _ _ => ?_) fun hs x hx hk => ?_
  · rwa [show q.role = p.role from congrArg Prod.fst hq]
  · have hx : x = p := List.inj_on_of_nodup_map hs.1 hx hmem (by simp [hk, hin])
    rw [hx, hq]

theorem input?_chatter (s : State) (p : Point) (a k : Nat) :
    (s.noteChatter p).input? a k = s.input? a k := by
  unfold State.noteChatter
  split <;> rfl

theorem moves_sampleDebounced {s : State} {p : Point} (hp : s.input? p.node p.point = some p)
    (v : Bool) : Moves s (s.sampleDebounced p v) := by
  unfold State.sampleDebounced
  dsimp only
  have hcore := debounce_core p (s.scansFor p.role) s.scan.no v
  have hchatter : Still s (s.noteChatter p) := by
    unfold State.noteChatter
    split
    · exact still_raiseAlarm ..
    · exact .refl s
  refine Moves.ite _ ((still_replaceInput hp hcore).moves.trans (moves_handOn ..)) (Moves.ite _ ?_ ?_)
  · exact (hchatter.trans (still_replaceInput ((input?_chatter ..).trans hp) hcore)).moves
  · exact (still_replaceInput hp hcore).moves

theorem moves_takeStall (s : State) (h : Nat) : Moves s (s.takeStall h) := by
  unfold State.takeStall
  split
  · exact .refl _ s
  · next o _ =>
    refine Moves.ite _ (Goes.trans ?_ (moves_evaluate _)) (.refl _ s)
    have halted := Moves.ite (o.stalls + 1 < 3) (moves_pauseOp s h .stall) (moves_faultOp s h .jammed)
    have noted := halted.still (still_updOp _ h
      (fun x => { x with stalls := o.stalls + 1, watch := some s.now }) fun _ _ => rfl)
    exact Moves.ite _ (noted.still (still_raiseAlarm ..)) (noted.still (still_raiseAlarm ..))

theorem moves_samplePressure (s : State) (p : Point) (high : Bool) :
    Moves s (s.samplePressure p high) := by
  unfold State.samplePressure
  dsimp only
  have hput : Still s (s.updInput p.node p.point fun x => { x with qual := some high, stale := false }) :=
    still_updInput s _ _ _ (fun _ h => h) fun _ _ _ _ => rfl
  have hwatch : Still s (if high = true then
      s.updInput p.node p.point fun x => { x with qual := some high, stale := false }
      else (s.updInput p.node p.point fun x => { x with qual := some high, stale := false }).updOp
        p.subject fun o => { o with watch := none }) := by
    split
    · exact hput
    · exact hput.trans (still_watchOff ..)
  split
  · exact hwatch.moves
  · refine Moves.ite _ (Goes.trans (Still.moves ?_) (moves_takeStall ..)) (Still.moves ?_)
    all_goals exact hwatch.trans (still_updHatch _ _ _ fun _ _ => rfl)

theorem moves_sampleInput (s : State) (a : Nat) (w : Word) (k : Nat) :
    Moves s (s.sampleInput a w k) := by
  unfold State.sampleInput
  split
  · exact .refl _ s
  · next p hp =>
    obtain ⟨-, rfl, rfl, -⟩ := input?_eq hp
    exact Moves.ite _ (moves_samplePressure ..) (moves_sampleDebounced hp _)

theorem moves_sampleNode (s : State) (a : Nat) (w : Word) (o : List Nat) :
    Moves s (s.sampleNode a w o) := Goes.foldl (fun x k => moves_sampleInput x a w k) _ s

theorem moves_missTurn (s : State) (n : Node) (b : Bool) : Moves s (s.missTurn n b) := by
  unfold State.missTurn
  dsimp only
  refine Moves.ite _ (Goes.trans (Still.moves ?_) (moves_nodeLost ..)) (Still.moves ?_)
  · exact still_updNode s n.addr (fun x => { x with misses := 3, goods := 0, st := .lost })
      (fun _ => rfl) fun _ => rfl
  · exact still_updNode s n.addr (fun x => { x with
      misses := if n.st = .lost then 3 else min (n.misses + 1) 3, goods := 0 }) (fun _ => rfl) fun _ => rfl

theorem moves_goodTurn (s : State) (n : Node) (w : Word) (o : List Nat) :
    Moves s (s.goodTurn n w o) := by
  have hnode : ∀ (x : State) (f : Node → Node), (∀ n, (f n).addr = n.addr ∧ (f n).outs = n.outs) →
      Moves x (x.updNode n.addr f) := fun x f hf =>
    (still_updNode x n.addr f (fun n => (hf n).1) fun n => (hf n).2).moves
  unfold State.goodTurn
  split
  · refine Goes.trans ?_ (moves_sampleNode ..)
    exact hnode _ _ fun _ => ⟨rfl, rfl⟩
  · have hgood := hnode s (fun x =>
      { x with misses := 0, goods := min (n.goods + 1) 2, sample := some w }) fun _ => ⟨rfl, rfl⟩
    refine Moves.ite _ hgood ?_
    refine Goes.trans ?_ (moves_sampleNode ..)
    refine Goes.trans (hgood.trans ?_) (moves_nodeReturn ..)
    exact hnode _ _ fun _ => ⟨rfl, rfl⟩

/-! ### Operations -/

theorem moves_acceptRun {s : State} {h : Nat} {o : Op} {hr : Hatch} (ho : s.op? h = some o)
    (hh : s.hatch? h = some hr) (hb : o.isBusy = false) {k : OpKind} {prog : List Step}
    (hp : hr.program k = some prog) (hl : s.latch = false) (hm : s.mode = .sea ∨ s.mode = .harbour)
    (hk : s.mode = .sea → k.isClosing = true) (d : Discipline) :
    Moves s (s.acceptRun hr k d prog).1 := by
  obtain rfl : hr.num = h := findKey_key hh
  have haccept := Move.goes (.accept (d := d) ho hb hp hl hm hk)
  unfold State.acceptRun
  split
  · exact haccept.trans (goes_clearIdle ..)
  · next st rest =>
    have ho' := (op?_updOp_same s hr.num (fun o => o.accept k d (st :: rest) s.now)
      fun _ => rfl).trans (congrArg _ ho)
    have hoffer := haccept.trans (goes_offerFrom ho' (List.suffix_refl _))
    exact Moves.ite _ hoffer (hoffer.trans (moves_evaluate _))

/-- What a request finds in a part that is in a ship mode. -/
theorem mode_of_gate {s : State} (h : s.modeGate = none) :
    s.mode = .sea ∨ s.mode = .harbour ∨ s.mode = .commission := by
  unfold State.modeGate at h
  cases hm : s.mode <;> simp [hm] at h ⊢

theorem moves_run (s : State) (l h : Nat) (k : OpKind) : Moves s (s.run l h k).1 := by
  unfold State.run
  split
  · exact .refl _ s
  · next hg =>
    split
    · exact .refl _ s
    · have htouch := (still_claimTouch s h l).moves
      have hmode : (s.claimTouch h l).mode = .sea ∨ (s.claimTouch h l).mode = .harbour ∨
        (s.claimTouch h l).mode = .commission := (still_claimTouch s h l).mode ▸ mode_of_gate hg
      generalize s.claimTouch h l = x at htouch hmode
      refine htouch.trans ?_
      dsimp only
      split
      · exact .refl _ x
      · next hl =>
        split
        · exact .refl _ x
        · next hforbid =>
          have hm : x.mode = .sea ∨ x.mode = .harbour := by
            rcases hmode with hm | hm | hm <;> simp [State.modeForbids, hm] at hforbid ⊢
          have hk : x.mode = .sea → k.isClosing = true := fun hm => by
            simpa [State.modeForbids, hm] using hforbid
          split
          · exact .refl _ x
          · split
            · exact .refl _ x
            · split
              · next o hr ho hh =>
                split
                · exact .refl _ x
                · exact .refl _ x
                · exact .refl _ x
                · next hq hmv _ =>
                  have hb : o.isBusy = false := (isBusy_eq_false_iff o).mpr ⟨hq, hmv⟩
                  split
                  · exact .refl _ x
                  · next prog hp =>
                    split
                    · exact .refl _ x
                    · exact moves_acceptRun ho hh hb hp (by simpa using hl) hm hk _
              · exact .refl _ x

theorem moves_renewHold (s : State) (l h : Nat) : Moves s (s.renewHold l h).1 := by
  unfold State.renewHold
  split
  · exact .refl _ s
  · split
    · exact .refl _ s
    · refine (still_claimTouch s h l).moves.trans ?_
      dsimp only
      split
      · exact .refl _ _
      · split
        · exact (still_updOp _ _ _ fun _ _ => by split <;> rfl).moves
        · exact .refl _ _

theorem moves_haltRequest (s : State) (l h : Nat) : Moves s (s.haltRequest l h).1 := by
  unfold State.haltRequest
  split
  · exact .refl _ s
  · refine (still_claimTouch s h l).moves.trans ?_
    dsimp only
    split
    · exact .refl _ _
    · split
      · exact (moves_pauseOp ..).trans (moves_evaluate _)
      · exact .refl _ _

theorem moves_clearFault (s : State) (l h : Nat) : Moves s (s.clearFault l h).1 := by
  unfold State.clearFault
  split
  · exact .refl _ s
  · split
    · exact .refl _ s
    · split
      · next hf =>
        refine Goes.still (Goes.still (Goes.still (moves_clearIdle ?_) (still_clearAlarm ..))
          (still_clearAlarm ..)) (still_clearAlarm ..)
        exact busy_of_opState hf (by decide)
      · exact .refl _ s

theorem moves_completeDwell (s : State) (h n : Nat) : Moves s (s.completeDwell h n) := by
  unfold State.completeDwell
  split
  · exact .refl _ s
  · split
    · exact .refl _ s
    · refine Moves.ite _ (Goes.trans ?_ (moves_hatchEvent ..)) (.refl _ s)
      refine Still.moves ?_
      exact still_updHatch _ _ _ fun _ _ => rfl

theorem moves_stepTimeout (s : State) (h : Nat) : Moves s (s.stepTimeout h) := by
  unfold State.stepTimeout
  split
  · exact .refl _ s
  · exact Moves.ite _ (((moves_faultOp ..).still (still_raiseAlarm ..)).trans (moves_evaluate _))
      (.refl _ s)

theorem moves_holdLapse (s : State) (h : Nat) : Moves s (s.holdLapse h) := by
  unfold State.holdLapse
  split
  · exact .refl _ s
  · exact Moves.ite _ ((moves_pauseOp ..).trans (moves_evaluate _)) (.refl _ s)

theorem moves_watchExpiry (s : State) (h : Nat) : Moves s (s.watchExpiry h) := by
  unfold State.watchExpiry
  split
  · exact .refl _ s
  · next o ho =>
    refine Moves.ite _ ?_ (.refl _ s)
    have halarm := ((still_raiseAlarm s .pressureStuck (.hatch h)).trans (still_watchOff _ h)).moves
    have hop : ((s.raiseAlarm .pressureStuck (.hatch h)).updOp h fun x =>
        { x with watch := none }).op? h = some { o with watch := none } :=
      (op?_updOp_same _ h (fun x => { x with watch := none }) fun _ => rfl).trans (congrArg _ ho)
    have stuck : ∀ st, o.st = st → st ≠ .queued ∧ st ≠ .moving →
        Moves s (((s.raiseAlarm .pressureStuck (.hatch h)).updOp h fun x =>
          { x with watch := none }).updOp h fun y =>
            { y with st := .faulted, halt := some .fault, fault := some .pressureStuck,
                     hold := none }) := fun st hst hne =>
      halarm.trans (moves_updOp_settled (busy_of_opState ((opState_of_op? hop).trans hst) hne) _
        (fun _ => rfl) (fun _ _ => rfl) fun _ => .inr ⟨rfl, rfl⟩)
    dsimp only
    split
    · next hst => exact stuck _ hst (by decide)
    · next hst => exact stuck _ hst (by decide)
    · exact halarm
    · exact halarm.trans ((moves_faultOp ..).trans (moves_evaluate _))
    · exact halarm.trans ((moves_faultOp ..).trans (moves_evaluate _))

/-! ### Authority, attitude and pumps -/

theorem moves_lineLost (s : State) (l : Nat) : Moves s (s.lineLost l) := by
  unfold State.lineLost
  dsimp only
  have hraise : Moves s (if (s.heldBy l).any s.busy = true then s.raiseAlarm .stationLost (.line l)
      else s) := Moves.ite _ (still_raiseAlarm ..).moves (.refl _ s)
  have hline := (hraise.trans (Goes.foldl moves_release (s.heldBy l) _)).still (still_updLine _ l
    fun ln => { ln with annReach := none, holdAbility := none, estopAbility := none, reach := 0 })
  refine Moves.ite _ (Goes.trans (hline.still .of_eq) (moves_evaluate _)) (hline.still .of_eq)

theorem moves_decideTake (s : State) (l h : Nat) : Moves s (s.decideTake l h).1 := by
  unfold State.decideTake
  split
  · exact (still_claimGrant ..).moves
  · split
    · exact .refl _ s
    · split
      · split
        · exact .refl _ s
        · exact (moves_release ..).still (still_claimGrant ..)
      · exact .refl _ s

theorem moves_take (s : State) (l h : Nat) : Moves s (s.take l h).1 := by
  unfold State.take
  split
  · exact .refl _ s
  · split
    · exact .refl _ s
    · refine (still_claimTouch s h l).moves.trans ?_
      dsimp only
      split
      · exact .refl _ _
      · split
        · exact .refl _ _
        · exact moves_decideTake ..

theorem moves_yieldHatch (s : State) (l h : Nat) : Moves s (s.yieldHatch l h).1 := by
  unfold State.yieldHatch
  split
  · exact .refl _ s
  · split
    · exact Moves.ite _ ((moves_release ..).trans (moves_evaluate _)) (moves_release ..)
    · exact .refl _ s

theorem moves_claimExpiry (s : State) (h : Nat) : Moves s (s.claimExpiry h) := by
  unfold State.claimExpiry
  split
  · exact Moves.ite _ (moves_release ..) (.refl _ s)
  · exact .refl _ s

theorem moves_feedbackDeadline (s : State) (n : Nat) : Moves s (s.feedbackDeadline n) := by
  unfold State.feedbackDeadline
  split
  · exact .refl _ s
  · exact Moves.ite _ (moves_failPump ..) (.refl _ s)

theorem moves_settleEnd (s : State) (n : Nat) : Moves s (s.settleEnd n) := by
  unfold State.settleEnd
  split
  · exact .refl _ s
  · refine Moves.ite _ (Goes.trans ?_ (moves_takeBudget _)) (.refl _ s)
    exact (still_updPump s n (fun x => { x with st := .running, settle := none }) (fun _ => rfl)
      (fun _ h => by cases h)).moves

theorem moves_clearPump (s : State) (l n : Nat) : Moves s (s.clearPump l n).1 := by
  unfold State.clearPump
  split
  · exact .refl _ s
  · split
    · exact .refl _ s
    · split
      · exact .refl _ s
      · split
        · refine Goes.trans (Still.moves ?_) (moves_takeBudget _)
          refine Still.trans ?_ (still_clearAlarm ..)
          exact still_updPump s n (fun x => { x with st := .off }) (fun _ => rfl)
            (fun _ h => by cases h)
        · exact .refl _ s

theorem moves_attitudeHandOn (s : State) (b : Bool) : Moves s (s.attitudeHandOn b) := by
  have hatt : Moves s { s with att := s.deriveFractions } := Still.moves .of_eq
  unfold State.attitudeHandOn
  dsimp only
  exact Moves.ite _ ((hatt.trans (moves_axisHandOn ..)).trans (moves_axisHandOn ..))
    ((hatt.trans (moves_axisHandOn ..)).trans (moves_axisHandOn ..))

theorem moves_acceptReading (s : State) (heel trim : Int) (b : Bool) :
    Moves s (s.acceptReading heel trim b) := by
  unfold State.acceptReading
  dsimp only
  refine Goes.trans (Moves.ite _ (Still.moves (Still.trans ?_ (still_clearAlarm ..))) (Still.moves ?_))
    (moves_attitudeHandOn ..) <;> exact .of_eq

theorem moves_attitudeFrame (s : State) (heel trim : Word) (flags crc : Byte) (b : Bool) :
    Moves s (s.attitudeFrame heel trim flags crc b) := by
  have hrx : Moves s { s with att := { s.att with rx := .hunting } } := Still.moves .of_eq
  unfold State.attitudeFrame
  dsimp only
  refine Moves.ite _ (Still.moves .of_eq) (Moves.ite _ (Still.moves .of_eq) ?_)
  exact hrx.trans (moves_acceptReading ..)

theorem moves_attitudeSilent (s : State) (b : Bool) : Moves s (s.attitudeSilent b) := by
  unfold State.attitudeSilent
  dsimp only
  refine Moves.ite _ (Goes.trans (Still.moves (Still.trans ?_ (still_raiseAlarm ..)))
    (moves_attitudeHandOn ..)) (.refl _ s)
  exact .of_eq

end Sys2Proof.Machine

/-! The owners of the station requests (R158 step 7): what a telegram by its KIND, and what each request
command, hands to whom. -/

namespace Sys2Proof.Machine

/-- An owner of station requests, with the payload that it is given. -/
inductive IsOwner : (State → Nat → Reply) → Prop where
  | announce (p : List Byte) : IsOwner (requestAnnounce p)
  | take (p : List Byte) : IsOwner (requestTake p)
  | yield (p : List Byte) : IsOwner (requestYield p)
  | run (p : List Byte) : IsOwner (requestRun p)
  | hold (p : List Byte) : IsOwner (requestHold p)
  | halt (p : List Byte) : IsOwner (requestHalt p)
  | clearFault (p : List Byte) : IsOwner (requestClearFault p)
  | clearPump (p : List Byte) : IsOwner (requestClearPump p)
  | clearEstop (p : List Byte) : IsOwner (requestClearEstop p)
  | clearCounters (p : List Byte) : IsOwner (requestClearCounters p)
  | estop (p : List Byte) : IsOwner (requestEstop p)
  | armHarbour (p : List Byte) : IsOwner (requestArmHarbour p)
  | confirmHarbour (p : List Byte) : IsOwner (requestConfirmHarbour p)
  | modeSea (p : List Byte) : IsOwner (requestModeSea p)
  | modeCommission (p : List Byte) : IsOwner (requestModeCommission p)
  | leaveCommission (p : List Byte) : IsOwner (requestLeaveCommission p)
  | ackOne (p : List Byte) : IsOwner (requestAckOne p)
  | ackAll (p : List Byte) : IsOwner (requestAckAll p)
  | readHatch (p : List Byte) : IsOwner (requestReadHatch p)
  | readCleat (p : List Byte) : IsOwner (requestReadCleat p)
  | readOperation (p : List Byte) : IsOwner (requestReadOperation p)
  | readQueue (p : List Byte) : IsOwner (requestReadQueue p)
  | readPump (p : List Byte) : IsOwner (requestReadPump p)
  | readAlarm (p : List Byte) : IsOwner (requestReadAlarm p)
  | readNode (p : List Byte) : IsOwner (requestReadNode p)
  | readPoint (p : List Byte) : IsOwner (requestReadPoint p)
  | readLine (p : List Byte) : IsOwner (requestReadLine p)
  | readConfig (p : List Byte) : IsOwner (requestReadConfig p)
  | readReset (p : List Byte) : IsOwner (requestReadReset p)
  | write (p : List Byte) : IsOwner (requestWrite p)
  | store (p : List Byte) : IsOwner (requestStore p)
  | badArg : IsOwner fun s _ => s.badArg

theorem IsOwner.ite {o o' : State → Nat → Reply} (c : Prop) [Decidable c] (h : IsOwner o)
    (h' : IsOwner o') : IsOwner fun s l => if c then o s l else o' s l := by
  by_cases hc : c
  · simpa only [if_pos hc] using h
  · simpa only [if_neg hc] using h'

theorem isOwner_clear (p : List Byte) : IsOwner (requestClear p) := by
  cases p with
  | nil => exact .badArg
  | cons t p =>
    exact .ite _ (.clearFault p) <| .ite _ (.clearPump p) <| .ite _ (.clearEstop p) <|
      .ite _ (.clearCounters p) .badArg

theorem isOwner_mode (p : List Byte) : IsOwner (requestMode p) := by
  cases p with
  | nil => exact .badArg
  | cons t p =>
    exact .ite _ (.armHarbour p) <| .ite _ (.confirmHarbour p) <| .ite _ (.modeSea p) <|
      .ite _ (.modeCommission p) <| .ite _ (.leaveCommission p) .badArg

theorem isOwner_acknowledge (p : List Byte) : IsOwner (requestAcknowledge p) := by
  cases p with
  | nil => exact .badArg
  | cons t p => exact .ite _ (.ackOne p) <| .ite _ (.ackAll p) .badArg

theorem isOwner_read (p : List Byte) : IsOwner (requestRead p) := by
  cases p with
  | nil => exact .badArg
  | cons t p =>
    exact .ite _ (.readHatch p) <| .ite _ (.readCleat p) <| .ite _ (.readOperation p) <|
      .ite _ (.readQueue p) <| .ite _ (.readPump p) <| .ite _ (.readAlarm p) <|
      .ite _ (.readNode p) <| .ite _ (.readPoint p) <| .ite _ (.readLine p) <|
      .ite _ (.readConfig p) <| .ite _ (.readReset p) .badArg

/-- The owner that a KIND chooses, row by row. -/
theorem owner_of_ite {P : (List Byte → State → Nat → Reply) → Prop} {c : Prop} [Decidable c]
    {o owner : List Byte → State → Nat → Reply} {rest : Option (List Byte → State → Nat → Reply)}
    (ho : P o) (hr : rest = some owner → P owner) (h : (if c then some o else rest) = some owner) :
    P owner := by
  split at h
  · exact Option.some.inj h ▸ ho
  · exact hr h

theorem isOwner_of_ownerOf {kind : Byte} {owner : List Byte → State → Nat → Reply}
    (h : ownerOf kind = some owner) (p : List Byte) : IsOwner (owner p) := by
  unfold ownerOf at h
  refine owner_of_ite (P := fun o => IsOwner (o p)) (.announce p) (fun h => ?_) h
  refine owner_of_ite (P := fun o => IsOwner (o p)) (.take p) (fun h => ?_) h
  refine owner_of_ite (P := fun o => IsOwner (o p)) (.yield p) (fun h => ?_) h
  refine owner_of_ite (P := fun o => IsOwner (o p)) (.run p) (fun h => ?_) h
  refine owner_of_ite (P := fun o => IsOwner (o p)) (.hold p) (fun h => ?_) h
  refine owner_of_ite (P := fun o => IsOwner (o p)) (.halt p) (fun h => ?_) h
  refine owner_of_ite (P := fun o => IsOwner (o p)) (isOwner_clear p) (fun h => ?_) h
  refine owner_of_ite (P := fun o => IsOwner (o p)) (.estop p) (fun h => ?_) h
  refine owner_of_ite (P := fun o => IsOwner (o p)) (isOwner_mode p) (fun h => ?_) h
  refine owner_of_ite (P := fun o => IsOwner (o p)) (isOwner_acknowledge p) (fun h => ?_) h
  refine owner_of_ite (P := fun o => IsOwner (o p)) (isOwner_read p) (fun h => ?_) h
  refine owner_of_ite (P := fun o => IsOwner (o p)) (.write p) (fun h => ?_) h
  exact owner_of_ite (P := fun o => IsOwner (o p)) (rest := none) (.store p) (fun h => nomatch h) h

/-- Every request command is a request to its owner. -/
theorem exec_request {c : Instr} {r : Request} (h : c.request? = some r) :
    ∃ owner, IsOwner owner ∧ ∀ s, exec c s = s.onRequest r.dt r.line r.len r.seq r.kind owner := by
  cases c with
  | announce dt l seq p => cases h; exact ⟨_, .announce p, fun _ => rfl⟩
  | take dt l seq p => cases h; exact ⟨_, .take p, fun _ => rfl⟩
  | yield dt l seq p => cases h; exact ⟨_, .yield p, fun _ => rfl⟩
  | run dt l seq p => cases h; exact ⟨_, .run p, fun _ => rfl⟩
  | hold dt l seq p => cases h; exact ⟨_, .hold p, fun _ => rfl⟩
  | halt dt l seq p => cases h; exact ⟨_, .halt p, fun _ => rfl⟩
  | clearFault dt l seq p => cases h; exact ⟨_, .clearFault p, fun _ => rfl⟩
  | clearPump dt l seq p => cases h; exact ⟨_, .clearPump p, fun _ => rfl⟩
  | clearEstop dt l seq p => cases h; exact ⟨_, .clearEstop p, fun _ => rfl⟩
  | clearCounters dt l seq p => cases h; exact ⟨_, .clearCounters p, fun _ => rfl⟩
  | estop dt l seq p => cases h; exact ⟨_, .estop p, fun _ => rfl⟩
  | armHarbour dt l seq p => cases h; exact ⟨_, .armHarbour p, fun _ => rfl⟩
  | confirmHarbour dt l seq p => cases h; exact ⟨_, .confirmHarbour p, fun _ => rfl⟩
  | modeSea dt l seq p => cases h; exact ⟨_, .modeSea p, fun _ => rfl⟩
  | modeCommission dt l seq p => cases h; exact ⟨_, .modeCommission p, fun _ => rfl⟩
  | leaveCommission dt l seq p => cases h; exact ⟨_, .leaveCommission p, fun _ => rfl⟩
  | acknowledgeOne dt l seq p => cases h; exact ⟨_, .ackOne p, fun _ => rfl⟩
  | acknowledgeAll dt l seq p => cases h; exact ⟨_, .ackAll p, fun _ => rfl⟩
  | readHatch dt l seq p => cases h; exact ⟨_, .readHatch p, fun _ => rfl⟩
  | readCleat dt l seq p => cases h; exact ⟨_, .readCleat p, fun _ => rfl⟩
  | readOperation dt l seq p => cases h; exact ⟨_, .readOperation p, fun _ => rfl⟩
  | readQueue dt l seq p => cases h; exact ⟨_, .readQueue p, fun _ => rfl⟩
  | readPump dt l seq p => cases h; exact ⟨_, .readPump p, fun _ => rfl⟩
  | readAlarm dt l seq p => cases h; exact ⟨_, .readAlarm p, fun _ => rfl⟩
  | readNode dt l seq p => cases h; exact ⟨_, .readNode p, fun _ => rfl⟩
  | readPoint dt l seq p => cases h; exact ⟨_, .readPoint p, fun _ => rfl⟩
  | readLine dt l seq p => cases h; exact ⟨_, .readLine p, fun _ => rfl⟩
  | readConfig dt l seq p => cases h; exact ⟨_, .readConfig p, fun _ => rfl⟩
  | readReset dt l seq p => cases h; exact ⟨_, .readReset p, fun _ => rfl⟩
  | write dt l seq p => cases h; exact ⟨_, .write p, fun _ => rfl⟩
  | store dt l seq p => cases h; exact ⟨_, .store p, fun _ => rfl⟩
  | _ => cases h

theorem next_inj {s t : State} (h : (Host.Outcome.next s : Host.Outcome State Fault Refusal) = .next t) :
    s = t :=
  Host.Outcome.next.inj h

end Sys2Proof.Machine

/-! The laws of motion, part 4: a step is a run of events, each a run of moves, a change of the part mode, of
the latch, or of every record at once. -/

namespace Sys2Proof.Machine

/-- One event of the part. -/
inductive Event (s : State) : State → Prop where
  | moves {t} : Moves s t → Event s t
  | fresh {t} : Fresh t → (AlarmsOk s → AlarmsOk t) → Event s t
  | mode (m : PartMode) : m = .harbour ∨ (s.mode ≠ .sea ∧ s.mode ≠ .harbour) → Event s { s with mode := m }
  | unlatch : Event s { s with latch := false }
  | stop : s.latch = false → Event s s.setLatch

/-- A run of events. -/
abbrev Events (s t : State) : Prop := Relation.ReflTransGen Event s t

theorem Events.refl (s : State) : Events s s := Relation.ReflTransGen.refl

theorem Event.run {s t : State} (h : Event s t) : Events s t := .single h

theorem Goes.events {s t : State} (h : Moves s t) : Events s t := (Event.moves h).run

theorem Still.events {s t : State} (h : Still s t) : Events s t := h.moves.events

theorem Fresh.events {s t : State} (h : Fresh t) (ha : AlarmsOk s → AlarmsOk t) : Events s t :=
  (Event.fresh h ha).run

theorem Events.still {s t u : State} (h : Events s t) (k : Still t u) : Events s u :=
  h.trans k.events

theorem Events.ite {s t u : State} (p : Prop) [Decidable p] (h : Events s t) (k : Events s u) :
    Events s (if p then t else u) := by
  split <;> assumption

/-- A law that every event keeps is kept by a run of events. -/
theorem Events.keeps {P : State → Prop} (hP : ∀ s t, P s → Event s t → P t) {s t : State}
    (h : Events s t) (hs : P s) : P t := by
  induction h with
  | refl => exact hs
  | tail _ he ih => exact hP _ _ ih he

/-- What a command makes of the part: a run of events, or the entry to SEA or COMMISSION of a part at rest,
with nothing before it that a law of motion looks at (R136, R137). -/
inductive Turns (s : State) : State → Prop where
  | run {t} : Events s t → Turns s t
  | rest {x t} (m : PartMode) : Still s x → (∀ o ∈ x.ops, o.isBusy = false) →
      Moves { x with mode := m } t → Turns s t

theorem Turns.refl (s : State) : Turns s s := .run (.refl s)

theorem Goes.turns {s t : State} (h : Moves s t) : Turns s t := .run h.events

theorem Still.turns {s t : State} (h : Still s t) : Turns s t := .run h.events

theorem Turns.still {s t u : State} (h : Turns s t) (k : Still t u) : Turns s u := by
  cases h with
  | run h => exact .run (Events.still h k)
  | rest m h1 h2 h3 => exact .rest m h1 h2 (h3.still k)

theorem Still.then_turns {s t u : State} (h : Still s t) (k : Turns t u) : Turns s u := by
  cases k with
  | run k => exact .run (Relation.ReflTransGen.trans h.events k)
  | rest m h1 h2 h3 => exact .rest m (h.trans h1) h2 h3

theorem Turns.ite {s t u : State} (p : Prop) [Decidable p] (h : Turns s t) (k : Turns s u) :
    Turns s (if p then t else u) := by
  split <;> assumption

/-- A law that every event keeps, and a change of mode of a part at rest, is kept by every command. -/
theorem Turns.keeps {P : State → Prop} (hP : ∀ s t, P s → Event s t → P t)
    (hrest : ∀ s m, P s → (∀ o ∈ s.ops, o.isBusy = false) → P { s with mode := m }) {s t : State}
    (h : Turns s t) (hs : P s) : P t := by
  cases h with
  | run h => exact h.keeps hP hs
  | rest m h1 h2 h3 => exact hP _ _ (hrest _ m (hP _ _ hs (.moves h1.moves)) h2) (.moves h3)

/-! ### The latch (R141) -/

/-- The op state of a hatch after its abort: it is neither QUEUED nor MOVING. -/
theorem busy_abortOp (s : State) (h : Nat) : (s.abortOp h).busy h = false := by
  have idle : ∀ x : State, x.busy h = false → (x.clearIdle h).busy h = false := by
    intro x hx
    cases ho : x.op? h with
    | none =>
      have hn : (x.clearIdle h).op? h = none := (op?_clearIdle_same x h).trans (by rw [ho]; rfl)
      simp [State.busy, State.opState, hn]
    | some o =>
      have hs : (x.clearIdle h).op? h = some o.cleared :=
        (op?_clearIdle_same x h).trans (by rw [ho]; rfl)
      exact busy_of_opState ((opState_of_op? hs).trans rfl) (st := .idle) (by decide)
  have halted : s.busy h = true → ((s.haltOp h .idle none none).clearIdle h).busy h = false :=
    fun hb => idle _ (busy_of_opState (opState_haltOp hb none none) (by decide))
  unfold State.abortOp
  split
  · next hq => exact halted (by simp [State.busy, hq])
  · next hm => exact halted (by simp [State.busy, hm])
  · next hp => exact idle s (busy_of_opState hp (by decide))
  · next hi => exact busy_of_opState hi (by decide)
  · next hf =>
    refine busy_of_opState (st := .faulted) ?_ (by decide)
    cases ho : s.op? h with
    | none => simp [State.opState, ho] at hf
    | some o =>
      have hs : (s.updOp h fun o => { o with prog := [] }).op? h = some { o with prog := [] } :=
        (op?_updOp_same s h (fun o => { o with prog := [] }) fun _ => rfl).trans (by rw [ho]; rfl)
      rw [opState_of_op? ho] at hf
      exact (opState_of_op? hs).trans hf

theorem sameOther_abortOp (s : State) (h : Nat) : SameOtherHatches s h (s.abortOp h) := by
  unfold State.abortOp
  split
  · exact (sameOther_haltOp ..).trans (sameOther_clearIdle ..)
  · exact (sameOther_haltOp ..).trans (sameOther_clearIdle ..)
  · exact sameOther_clearIdle ..
  · exact .refl s h
  · exact sameOther_updOp _ _ _ fun _ _ => rfl

theorem busy_of_sameOther {s t : State} {h k : Nat} (hst : SameOtherHatches s h t) (hk : k ≠ h) :
    t.busy k = s.busy k := by
  simp only [State.busy, State.opState, hst.op k hk]

/-- After the abort of a list of hatches none of them is QUEUED or MOVING. -/
theorem busy_foldl_abortOp (hs : List Nat) (s : State) (h : Nat)
    (hh : h ∈ hs ∨ s.busy h = false) : (hs.foldl State.abortOp s).busy h = false := by
  induction hs generalizing s with
  | nil => simpa using hh
  | cons k hs ih =>
    refine ih (s.abortOp k) ?_
    by_cases hk : h = k
    · exact .inr (hk ▸ busy_abortOp s k)
    · rw [busy_of_sameOther (sameOther_abortOp s k) hk]
      exact hh.imp_left fun hm => (List.mem_cons.mp hm).resolve_left hk

theorem ops_shutAllValves (s : State) : s.shutAllValves.ops = s.ops := by
  unfold State.shutAllValves
  generalize s.points.filter _ = l
  induction l generalizing s with
  | nil => rfl
  | cons p l ih => exact ih (s.setOut p.node p.point 0)

/-- After the abort nothing is QUEUED or MOVING, where every operation record is of a hatch record. -/
theorem isBusy_abortAll {s : State} (hm : MotionOk s.abortAll) :
    ∀ o ∈ s.abortAll.ops, o.isBusy = false := by
  intro o ho
  obtain ⟨hops, hnodup, -⟩ := hm
  have hnum : s.abortAll.hatches.map Hatch.num = s.hatches.map Hatch.num :=
    (onlyMotion_abortAll s).hatches
  have hmem : o.hatch ∈ s.hatches.map Hatch.num := hnum ▸ hops ▸ List.mem_map_of_mem ho
  have hop : s.abortAll.op? o.hatch = some o := findKey_of_mem (hops ▸ hnodup) ho
  have hb : s.abortAll.busy o.hatch = false := by
    have h := busy_foldl_abortOp (s.hatches.map Hatch.num) s o.hatch (.inl hmem)
    rwa [State.abortAll, State.busy, State.opState, State.op?, ops_shutAllValves]
  rwa [State.busy, opState_of_op? hop] at hb

theorem emptyGrants_eq_empty (s : State) :
    s.emptyGrants.queue = [] ∧ s.emptyGrants.granted = [] := by
  unfold State.emptyGrants
  split
  · next h => simpa using h
  · exact ⟨rfl, rfl⟩

/-- With the latch set, what follows is a run of moves. -/
theorem moves_setLatch {s : State} (h : s.latch = false) :
    Moves { s with latch := true } s.setLatch := by
  have habort := (still_raiseAlarm { s with latch := true } .estopActive .part).moves.trans
    (moves_abortAll (State.raiseAlarm { s with latch := true } .estopActive .part))
  have hempty := habort.move (.empty isBusy_abortAll)
  have hidle := hempty.move (.toIdle (.inr (emptyGrants_eq_empty _).2))
  unfold State.setLatch
  rw [if_neg (by simp [h])]
  exact hidle.trans (goes_stopPumps _)

theorem events_setLatch (s : State) : Events s s.setLatch := by
  cases h : s.latch with
  | false => exact (Event.stop h).run
  | true =>
    have hs : s.setLatch = s := by simp [State.setLatch, h]
    rw [hs]

/-! ### The part mode and the configuration -/

theorem events_setMode {s : State} {m : ShipMode} (hm : m.part = .harbour ∨
    (s.mode ≠ .sea ∧ s.mode ≠ .harbour)) :
    Events s (s.setMode m) :=
  (Event.mode m.part hm).run.still .of_eq

theorem events_build (s : State) {c : Items} (hc : validConfig c = true) : Events s (s.build c) :=
  (fresh_build s hc).events (alarmsOk_build c)

theorem events_enterUnconfigured (s : State) : Events s s.enterUnconfigured :=
  (fresh_enterUnconfigured s).events alarmsOk_enterUnconfigured

theorem events_startUp (s : State) : Events s s.startUp := by
  have hread : ∀ w, Events s { s with started := true, working := w } := fun w => Still.events .of_eq
  unfold State.startUp
  dsimp only
  split
  · split
    · next hc => exact (hread _).trans (events_build _ hc)
    · exact (hread _).trans (events_enterUnconfigured _)
  · exact (hread _).trans (events_enterUnconfigured _)

theorem events_loaded (s : State) : Events s s.loaded := Events.ite _ (.refl s) (events_startUp s)

theorem events_becomeReady {s : State} (h : s.mode = .loading) : Events s s.becomeReady := by
  unfold State.becomeReady
  dsimp only
  have hmode : Events s { s with mode := s.retained.mode.part } :=
    (Event.mode _ (.inr (by simp [h]))).run
  have hready : Events s (if s.retained.mode.part = .sea then
      (s.hatches.filter fun hr => hr.position != .secured).foldl
        (fun x hr => x.raiseAlarm .hatchUnsecuredAtSea (.hatch hr.num))
        { s with mode := s.retained.mode.part }
      else { s with mode := s.retained.mode.part }) :=
    Events.ite _ (hmode.still (Still.foldl (fun _ _ => still_raiseAlarm ..) _ _)) hmode
  exact Events.ite _ (hready.still (still_raiseAlarm ..)) hready

theorem events_endTurn (s : State) (k : Nat) : Events s (s.endTurn k) := by
  unfold State.endTurn
  dsimp only
  have hend : Events s { s with
      scan := { s.scan with place := none, replied := false, firstOver := true } } := Still.events .of_eq
  refine Events.ite _ ?_ (.refl s)
  split
  · next h => exact hend.trans (events_becomeReady h.1)
  · exact hend

theorem still_beginTurn (s : State) (k : Nat) : Still s (s.beginTurn k) := by
  unfold State.beginTurn
  split
  · exact .of_eq
  · exact .refl s

theorem still_pollNext (s : State) : Still s s.pollNext := by
  unfold State.pollNext State.beginScan
  split
  · split
    · exact .refl s
    · refine Still.trans ?_ (still_beginTurn ..)
      exact .of_eq
  · split
    · exact still_beginTurn ..
    · exact .refl s

theorem events_takeScan (s : State) : Events s s.takeScan :=
  (events_loaded s).still (still_pollNext _)

theorem still_turnOf (s : State) (a : Nat) : Still s (s.turnOf a).1 := by
  unfold State.turnOf
  repeat' split
  all_goals first
    | exact .refl s
    | exact still_beginTurn ..

theorem events_fieldReply (s : State) (a : Nat) (bytes : List Byte) (o : List Nat) (b : Bool) :
    Events s (s.fieldReply a bytes o b) := by
  have hturn := still_turnOf s a
  unfold State.fieldReply
  split
  · next s1 h =>
    rw [h] at hturn
    exact hturn.events
  · next s1 k n h =>
    rw [h] at hturn
    have hreplied : Events s { s1 with scan := { s1.scan with replied := true } } :=
      hturn.events.still .of_eq
    dsimp only
    refine Relation.ReflTransGen.trans (Relation.ReflTransGen.trans hreplied ?_) (events_endTurn ..)
    split
    · exact (moves_goodTurn ..).events
    · exact (moves_missTurn ..).events

theorem events_slotEnd (s : State) (a : Nat) (b : Bool) : Events s (s.slotEnd a b) := by
  have hturn := still_turnOf s a
  unfold State.slotEnd
  split
  · exact .refl s
  · next s1 k n h =>
    rw [h] at hturn
    refine Events.ite _ (Events.still ?_ (still_beginTurn ..)) (.refl s)
    exact (hturn.events.trans (moves_missTurn ..).events).trans (events_endTurn ..)

/-! ### Mode requests -/

theorem still_setFree (s : State) (n : Nat) : Still s { s with free := n } := .of_eq

theorem events_armHarbour (s : State) (l : Nat) : Events s (s.armHarbour l).1 := by
  unfold State.armHarbour
  repeat' split
  all_goals first
    | exact .refl s
    | exact Still.events .of_eq

theorem events_confirmHarbour (s : State) (l : Nat) : Events s (s.confirmHarbour l).1 := by
  unfold State.confirmHarbour
  repeat' split
  · exact .refl s
  · exact .refl s
  · exact .refl s
  · exact .refl s
  · have harm : Events s { s with arm := none } := Still.events .of_eq
    exact Events.still (harm.trans (events_setMode (.inl rfl))) (still_clearAlarms ..)

theorem isBusy_of_allIdle {s : State} (h : s.AllIdle) : ∀ o ∈ s.ops, o.isBusy = false := fun o ho =>
  (isBusy_eq_false_iff o).mpr (by simp [h o ho])

theorem turns_enterSea (s : State) (l : Nat) : Turns s (s.enterSea l).1 := by
  unfold State.enterSea
  repeat' split
  · exact .refl s
  · exact .refl s
  · exact .refl s
  · exact .refl s
  · exact .refl s
  · next h =>
    have hidle := ((secured_iff s).mp (by simpa using h)).2
    have hmode : Moves { s with mode := .sea } (s.setMode .sea) := Still.moves .of_eq
    exact .rest .sea (.refl s) (isBusy_of_allIdle hidle) (hmode.trans (moves_releaseAll _))

theorem isBusy_of_not_underWay {s : State} (h : ¬s.underWay = true) :
    ∀ o ∈ s.ops, o.isBusy = false := by
  intro o ho
  simp only [State.underWay, List.any_eq_true, not_exists, not_and, Bool.and_eq_true, bne_iff_ne,
    ne_eq] at h
  refine (isBusy_eq_false_iff o).mpr ⟨fun hq => h o ho (by simp [hq]) (by simp [hq]),
    fun hm => h o ho (by simp [hm]) (by simp [hm])⟩

theorem turns_enterCommission (s : State) (l : Nat) : Turns s (s.enterCommission l).1 := by
  unfold State.enterCommission
  repeat' split
  · exact .refl s
  · exact .refl s
  · exact .refl s
  · exact .refl s
  · exact .refl s
  · next h => exact .run (events_setMode (.inr (by simp [h])))
  · exact .refl s
  · exact .refl s
  · next h => exact .rest .commission (.refl s) (isBusy_of_not_underWay h) (Still.moves .of_eq)

theorem events_leaveCommission (s : State) (l : Nat) : Events s (s.leaveCommission l).1 := by
  unfold State.leaveCommission
  repeat' split
  · exact .refl s
  · exact .refl s
  · exact .refl s
  · exact .refl s
  · next h =>
    exact Events.still ((events_build s h).trans (events_setMode (.inl rfl))) (still_clearAlarm ..)
  · exact events_enterUnconfigured s

theorem events_clearEstop (s : State) (l : Nat) : Events s (s.clearEstop l).1 := by
  unfold State.clearEstop
  repeat' split
  · exact .refl s
  · exact .refl s
  · exact .refl s
  · exact .refl s
  · exact Event.unlatch.run.still (still_clearAlarm ..)

theorem events_estopRequest (s : State) (l : Nat) : Events s (s.estopRequest l).1 := by
  unfold State.estopRequest
  repeat' split
  · exact .refl s
  · exact .refl s
  · exact events_setLatch s

/-! ### Line requests -/

theorem still_enroll (s : State) (l : Nat) (m : Word) (e h : Bool) : Still s (s.enroll l m e h) := .of_eq

theorem still_announce (s : State) (l : Nat) (c : LineClass) (m : Word) (e h : Bool) :
    Still s (s.announce l c m e h).1 := by
  unfold State.announce
  dsimp only
  repeat' split
  · exact .refl s
  · exact .refl s
  · exact still_raiseAlarm ..
  · exact (still_enroll ..).trans (still_clearAlarm ..)
  · exact still_raiseAlarm ..
  · refine Still.trans (Still.trans (Still.trans ?_ (still_enroll ..)) (still_clearAlarm ..))
      (still_clearAlarm ..)
    exact still_updLine ..

theorem still_ackOne (s : State) (l : Nat) (c : AlarmCode) (sub : Subject) :
    Still s (s.ackOne l c sub).1 := by
  unfold State.ackOne
  repeat' split
  · exact .refl s
  · exact .refl s
  · exact .refl s
  · exact .of_eq (alarms := fun h => ok_ack h _)

theorem still_ackAll (s : State) (l : Nat) : Still s (s.ackAll l).1 := by
  unfold State.ackAll
  split
  · exact .refl s
  · exact .of_eq (alarms := fun h => ok_ack h _)

theorem still_clearCounters (s : State) (l : Nat) : Still s (s.clearCounters l).1 := by
  unfold State.clearCounters
  dsimp only
  repeat' split
  · exact .refl s
  · exact .refl s
  · refine Still.trans ?_ (still_clearAlarms ..)
    refine Still.trans (t := { s with points := s.points.map Point.zeroChatter })
      (still_points _ rfl fun _ => rfl) ?_
    exact .of_eq

theorem still_writeItem (s : State) (l c i : Nat) (v : Word) : Still s (s.writeItem l c i v).1 := by
  unfold State.writeItem
  repeat' split
  · exact .refl s
  · exact .of_eq
  · exact .refl s

theorem still_storeImage (s : State) (l : Nat) : Still s (s.storeImage l).1 := by
  unfold State.storeImage
  repeat' split
  · exact .refl s
  · exact .of_eq
  · exact .refl s

theorem still_storeComplete (s : State) : Still s s.storeComplete := by
  unfold State.storeComplete
  split
  · exact .refl s
  · refine Still.trans ?_ (Still.foldl still_transmit _ _)
    exact .of_eq

theorem still_readReply {α : Type} (s : State) (p : List Byte) (t : Byte) (b : Nat) (l : List α)
    (enc : Nat → α → List Byte) : Still s (s.readReply p t b l enc).1 := by
  unfold State.readReply
  split
  · exact .refl s
  · exact .of_eq

theorem still_requestReadHatch (p : List Byte) (s : State) (l : Nat) :
    Still s (requestReadHatch p s l).1 := by
  unfold requestReadHatch
  dsimp only
  split
  · exact .refl s
  · split
    · refine .of_eq (hatches := ?_)
      rw [State.zeroCounts, List.map_map]
      exact List.map_congr_left fun hr _ => by simp only [Function.comp_apply]; split <;> rfl
    · exact .refl s

theorem still_requestReadAlarm (p : List Byte) (s : State) (l : Nat) :
    Still s (requestReadAlarm p s l).1 := by
  unfold requestReadAlarm
  dsimp only
  split <;> exact .refl s

/-! ### Owners -/

/-- What an owner makes of a request. -/
abbrev OwnerRuns (owner : State → Nat → Reply) : Prop := ∀ s l, Turns s (owner s l).1

theorem ownerRuns_announce (p : List Byte) : OwnerRuns (requestAnnounce p) := fun s l => by
  unfold requestAnnounce
  split
  · exact .refl s
  · exact (still_announce ..).turns

theorem ownerRuns_take (p : List Byte) : OwnerRuns (requestTake p) := fun s l => by
  unfold requestTake
  split
  · exact .refl s
  · exact (moves_take ..).turns

theorem ownerRuns_yield (p : List Byte) : OwnerRuns (requestYield p) := fun s l => by
  unfold requestYield
  split
  · exact .refl s
  · exact (moves_yieldHatch ..).turns

theorem ownerRuns_run (p : List Byte) : OwnerRuns (requestRun p) := fun s l => by
  unfold requestRun
  split
  · exact .refl s
  · exact (moves_run ..).turns

theorem ownerRuns_hold (p : List Byte) : OwnerRuns (requestHold p) := fun s l => by
  unfold requestHold
  split
  · exact .refl s
  · exact (moves_renewHold ..).turns

theorem ownerRuns_halt (p : List Byte) : OwnerRuns (requestHalt p) := fun s l => by
  unfold requestHalt
  split
  · exact .refl s
  · exact (moves_haltRequest ..).turns

theorem ownerRuns_clearFault (p : List Byte) : OwnerRuns (requestClearFault p) := fun s l => by
  unfold requestClearFault
  split
  · exact .refl s
  · exact (moves_clearFault ..).turns

theorem ownerRuns_clearPump (p : List Byte) : OwnerRuns (requestClearPump p) := fun s l => by
  unfold requestClearPump
  split
  · exact .refl s
  · exact (moves_clearPump ..).turns

theorem ownerRuns_clearEstop (p : List Byte) : OwnerRuns (requestClearEstop p) := fun s l => by
  unfold requestClearEstop
  split
  · exact .refl s
  · exact .run (events_clearEstop s l)

theorem ownerRuns_clearCounters (p : List Byte) : OwnerRuns (requestClearCounters p) := fun s l => by
  unfold requestClearCounters
  split
  · exact .refl s
  · exact (still_clearCounters ..).turns

theorem ownerRuns_estop (p : List Byte) : OwnerRuns (requestEstop p) := fun s l => by
  unfold requestEstop
  split
  · exact .refl s
  · exact .run (events_estopRequest s l)

theorem turns_modeReply (arg : Byte) (p : List Byte) {s : State} {f : State → State × Result}
    (hf : Turns s (f s).1) : Turns s (modeReply arg p s f).1 := by
  unfold modeReply
  split
  · exact .refl s
  · exact hf

theorem ownerRuns_armHarbour (p : List Byte) : OwnerRuns (requestArmHarbour p) := fun s l =>
  turns_modeReply _ p (.run (events_armHarbour s l))

theorem ownerRuns_confirmHarbour (p : List Byte) : OwnerRuns (requestConfirmHarbour p) := fun s l =>
  turns_modeReply _ p (.run (events_confirmHarbour s l))

theorem ownerRuns_modeSea (p : List Byte) : OwnerRuns (requestModeSea p) := fun s l =>
  turns_modeReply _ p (turns_enterSea s l)

theorem ownerRuns_modeCommission (p : List Byte) : OwnerRuns (requestModeCommission p) := fun s l =>
  turns_modeReply _ p (turns_enterCommission s l)

theorem ownerRuns_leaveCommission (p : List Byte) : OwnerRuns (requestLeaveCommission p) :=
  fun s l => turns_modeReply _ p (.run (events_leaveCommission s l))

theorem ownerRuns_ackOne (p : List Byte) : OwnerRuns (requestAckOne p) := fun s l => by
  unfold requestAckOne
  split
  · exact .refl s
  · exact (still_ackOne ..).turns

theorem ownerRuns_ackAll (p : List Byte) : OwnerRuns (requestAckAll p) := fun s l => by
  unfold requestAckAll
  split
  · exact .refl s
  · exact (still_ackAll ..).turns

theorem ownerRuns_write (p : List Byte) : OwnerRuns (requestWrite p) := fun s l => by
  unfold requestWrite
  split
  · exact .refl s
  · exact (still_writeItem ..).turns

theorem ownerRuns_store (p : List Byte) : OwnerRuns (requestStore p) := fun s l => by
  unfold requestStore
  split
  · exact .refl s
  · exact (still_storeImage ..).turns

theorem ownerRuns_readHatch (p : List Byte) : OwnerRuns (requestReadHatch p) := fun s l =>
  (still_requestReadHatch p s l).turns

theorem ownerRuns_readAlarm (p : List Byte) : OwnerRuns (requestReadAlarm p) := fun s l =>
  (still_requestReadAlarm p s l).turns

theorem ownerRuns_of_isOwner {owner : State → Nat → Reply} (h : IsOwner owner) : OwnerRuns owner := by
  cases h with
  | announce p => exact ownerRuns_announce p
  | take p => exact ownerRuns_take p
  | yield p => exact ownerRuns_yield p
  | run p => exact ownerRuns_run p
  | hold p => exact ownerRuns_hold p
  | halt p => exact ownerRuns_halt p
  | clearFault p => exact ownerRuns_clearFault p
  | clearPump p => exact ownerRuns_clearPump p
  | clearEstop p => exact ownerRuns_clearEstop p
  | clearCounters p => exact ownerRuns_clearCounters p
  | estop p => exact ownerRuns_estop p
  | armHarbour p => exact ownerRuns_armHarbour p
  | confirmHarbour p => exact ownerRuns_confirmHarbour p
  | modeSea p => exact ownerRuns_modeSea p
  | modeCommission p => exact ownerRuns_modeCommission p
  | leaveCommission p => exact ownerRuns_leaveCommission p
  | ackOne p => exact ownerRuns_ackOne p
  | ackAll p => exact ownerRuns_ackAll p
  | readHatch p => exact ownerRuns_readHatch p
  | readAlarm p => exact ownerRuns_readAlarm p
  | write p => exact ownerRuns_write p
  | store p => exact ownerRuns_store p
  | badArg => exact fun s _ => .refl s
  | _ => exact fun _ _ => (still_readReply ..).turns

/-! ### Commands -/

theorem turns_live {s : State} (dt : Nat) {f : State → State} (hf : ∀ x, Turns x (f x)) :
    Turns s (s.live dt f) :=
  Turns.ite _ ((still_advance s dt).then_turns (hf _)) (still_advance s dt).turns

theorem turns_onLine {s t : State} {dt l : Nat} {f : State → State} (hf : ∀ x, Turns x (f x))
    (h : s.onLine dt l f = .next t) : Turns s t := by
  unfold State.onLine at h
  split at h
  · exact next_inj h ▸ turns_live dt hf
  · cases h

theorem turns_onTelegram {s : State} {l len : Nat} {act : State → Line → State}
    (ha : ∀ x ln, Turns x (act x ln)) : Turns s (s.onTelegram l len act) := by
  unfold State.onTelegram
  split
  · exact .refl s
  · refine Turns.ite _ (.refl s) (Turns.ite _ (still_abandonFrame ..).turns ?_)
    exact Turns.ite _ ((still_heard s l).trans (still_updLine ..)).turns
      ((still_heard s l).then_turns (ha _ _))

theorem turns_request {s : State} {l len : Nat} {seq kind : Byte} {owner : State → Nat → Reply}
    (ho : OwnerRuns owner) : Turns s (s.request l len seq kind owner) :=
  turns_onTelegram fun x _ => Turns.ite _ (still_answer ..).turns ((ho x l).still (still_answer ..))

theorem turns_onRequest {s t : State} {dt l len : Nat} {seq kind : Byte}
    {owner : State → Nat → Reply} (ho : OwnerRuns owner)
    (h : s.onRequest dt l len seq kind owner = .next t) : Turns s t :=
  turns_onLine (fun _ => turns_request ho) h

theorem turns_live_next {s t : State} {dt : Nat} {f : State → State} (hf : ∀ x, Turns x (f x))
    (h : (Host.Outcome.next (s.live dt f) : Host.Outcome State Fault Refusal) = .next t) : Turns s t :=
  next_inj h ▸ turns_live dt hf

theorem still_idleTelegram (s : State) (l len : Nat) : Still s (s.idleTelegram l len) := by
  unfold State.idleTelegram
  repeat' split
  · exact .refl s
  · exact .refl s
  · exact still_abandonFrame ..
  · exact still_heard ..

theorem turns_anyTelegram (s : State) (l : Nat) (seq kind : Byte) (p : List Byte) :
    Turns s (s.anyTelegram l seq kind p) := by
  unfold State.anyTelegram
  split
  · exact (still_idleTelegram ..).turns
  · split
    · next owner h => exact turns_request (ownerRuns_of_isOwner (isOwner_of_ownerOf h p))
    · exact turns_onTelegram fun _ _ => (still_answer ..).turns

theorem still_framingFail (s : State) (l : Nat) (c : FrameBreak) : Still s (s.framingFail l c) := by
  unfold State.framingFail
  repeat' split
  · exact .refl s
  · exact .refl s
  · exact still_abandonFrame ..

theorem moves_lineSilent (s : State) (l : Nat) : Moves s (s.lineSilent l) := by
  unfold State.lineSilent
  dsimp only
  split
  · exact .refl _ s
  · have hdown := ((still_updLine s l Line.goDown).trans
      (still_clearAlarm _ .classMismatch (.line l))).moves
    exact Moves.ite _ (Moves.ite _ (hdown.trans (moves_lineLost ..)) hdown) (.refl _ s)

theorem still_reportFallsDue (s : State) (l : Nat) : Still s (s.reportFallsDue l) := by
  unfold State.reportFallsDue
  repeat' split
  · exact .refl s
  · exact .refl s
  · refine Still.trans ?_ (still_transmit ..)
    exact still_updLine ..
  · exact .refl s

theorem still_frameEnds (s : State) (l : Nat) : Still s (s.frameEnds l) := by
  refine Still.trans ?_ (still_transmit ..)
  exact still_updLine ..

theorem still_armExpiry (s : State) : Still s s.armExpiry := by
  unfold State.armExpiry
  repeat' split
  all_goals first
    | exact .refl s
    | exact .of_eq

theorem fresh_releaseReset {s : State} (h : Fresh s) : Fresh s.releaseReset := by
  unfold State.releaseReset
  split
  · exact ⟨h.ops, h.nodup, h.idle, h.queue, h.granted, h.outs, h.points, h.pumps⟩
  · exact h

theorem alarmsOk_afterReset (s : State) (p : Power) (straps : Straps) (r : Retained) :
    AlarmsOk (s.afterReset p straps r) := ⟨Nat.zero_le _, List.nodup_nil⟩

theorem alarmsOk_releaseReset {s : State} (h : AlarmsOk s) : AlarmsOk s.releaseReset := by
  unfold State.releaseReset
  split
  · exact alarmsOk_raiseAlarm (s := { s with latch := true }) h ..
  · exact h

theorem turns_afterReset (s x : State) (p : Power) (straps : Straps) (r : Retained) :
    Turns s (x.afterReset p straps r) :=
  .run <| (fresh_afterReset x p straps r).events fun _ => alarmsOk_afterReset ..

theorem turns_released (s x : State) (p : Power) (straps : Straps) (r : Retained) :
    Turns s (x.afterReset p straps r).releaseReset :=
  .run <| (fresh_releaseReset (fresh_afterReset x p straps r)).events fun _ =>
    alarmsOk_releaseReset (alarmsOk_afterReset ..)

theorem still_resetIn (s : State) (dt : Nat) (b : Bool) : Still s { s.advance dt with resetIn := b } :=
  .of_eq

theorem turns_event {c : Instr} {s t : State} (hr : c.request? = none) (h : exec c s = .next t) :
    Turns s t := by
  cases c with
  | idle dt l seq p => exact turns_onLine (fun _ => (still_idleTelegram ..).turns) h
  | unknownKind dt l seq kind p => exact turns_onLine (fun x => turns_anyTelegram x l seq kind p) h
  | storeWriteComplete dt => exact turns_live_next (fun x => (still_storeComplete x).turns) h
  | crcError dt l => exact turns_onLine (fun x => (still_updLine x l _).turns) h
  | framingError dt l cause => exact turns_onLine (fun x => (still_framingFail x l cause).turns) h
  | silenceExpiry dt l => exact turns_onLine (fun x => (moves_lineSilent x l).turns) h
  | reportDue dt l => exact turns_onLine (fun x => (still_reportFallsDue x l).turns) h
  | frameSent dt l => exact turns_onLine (fun x => (still_frameEnds x l).turns) h
  | attitudeTelegram dt heel trim flags crc b =>
    exact turns_live_next (fun x => (moves_attitudeFrame x heel trim flags crc b).turns) h
  | attitudeFramingError dt =>
    exact turns_live_next (f := State.attitudeBreak) (fun _ => Still.turns .of_eq) h
  | attitudeSilence dt b => exact turns_live_next (fun x => (moves_attitudeSilent x b).turns) h
  | scan dt => exact turns_live_next (fun x => .run (events_takeScan x)) h
  | fieldReply dt a bytes order b =>
    exact turns_live_next (fun x => .run (events_fieldReply x a bytes order b)) h
  | slotEnd dt a b => exact turns_live_next (fun x => .run (events_slotEnd x a b)) h
  | dwellComplete dt k n => exact turns_live_next (fun x => (moves_completeDwell x k n).turns) h
  | stepTimeout dt k => exact turns_live_next (fun x => (moves_stepTimeout x k).turns) h
  | holdWindowExpiry dt k => exact turns_live_next (fun x => (moves_holdLapse x k).turns) h
  | pressureWatchExpiry dt k => exact turns_live_next (fun x => (moves_watchExpiry x k).turns) h
  | claimIdleExpiry dt k => exact turns_live_next (fun x => (moves_claimExpiry x k).turns) h
  | feedbackDeadline dt n => exact turns_live_next (fun x => (moves_feedbackDeadline x n).turns) h
  | settleEnd dt n => exact turns_live_next (fun x => (moves_settleEnd x n).turns) h
  | pumpIdleStop dt => exact turns_live_next (fun x => (moves_idleStop x).turns) h
  | armExpiry dt => exact turns_live_next (fun x => (still_armExpiry x).turns) h
  | estopInActive dt =>
    have hpin : Still s { s with estopIn := true } := .of_eq
    refine hpin.then_turns (turns_live_next (fun x => ?_) h)
    exact Turns.ite _ (.refl x) (.run (events_setLatch x))
  | estopInInactive dt =>
    have hpin : Still s { s with estopIn := false } := .of_eq
    exact hpin.then_turns (turns_live_next (fun x => .refl x) h)
  | powerOn dt straps => exact next_inj h ▸ turns_released ..
  | external dt =>
    obtain rfl := next_inj h
    cases hp : s.power
    · exact turns_afterReset ..
    · exact (still_resetIn s dt true).turns
    · exact (still_resetIn s dt true).turns
  | supplyHold dt => exact next_inj h ▸ Still.turns .of_eq
  | supply dt straps =>
    obtain rfl := next_inj h
    cases hp : s.power
    · exact (still_advance s dt).turns
    · exact (still_advance s dt).turns
    · exact turns_released ..
  | resetRelease dt straps =>
    obtain rfl := next_inj h
    cases hp : s.power
    · exact (still_resetIn s dt false).turns
    · exact turns_released ..
    · exact (still_resetIn s dt false).turns
  | _ => cases hr

theorem turns_exec {c : Instr} {s t : State} (h : exec c s = .next t) : Turns s t := by
  cases hr : c.request? with
  | some r =>
    obtain ⟨owner, ho, hexec⟩ := exec_request hr
    exact turns_onRequest (ownerRuns_of_isOwner ho) ((hexec s).symm.trans h)
  | none => exact turns_event hr h

/-- A step is a run of events, or a change of mode of a part at rest. -/
theorem turns_step {s t : State} (h : step s = .next t) : Turns s t := by
  unfold step at h
  split at h
  · exact next_inj h ▸ Turns.ite _ (.run (events_loaded s)) (.refl s)
  · next c rest _ =>
    have hrest : Still s { s with pending := rest } := .of_eq
    exact hrest.then_turns (turns_exec h)

end Sys2Proof.Machine

/-! The law of motion (R43, R79): an entry for each QUEUED operation, a grant for each MOVING one, never both
and never two. Each move keeps it, and so does each event. -/

namespace Sys2Proof.Machine

/-! ### Queue and granted set after a record has left or joined -/

theorem filter_of_find_none {α : Type} {key : α → Nat} {h : Nat} {l : List α}
    (hn : (findKey key h l).isSome ≠ true) : (l.filter fun x => key x != h) = l := by
  rw [List.filter_eq_self]
  intro x hx
  have hnone : findKey key h l = none := by simpa using hn
  rw [findKey, List.find?_eq_none] at hnone
  simpa using hnone x hx

theorem noteEmpty_queue (s : State) : s.noteEmpty.queue = s.queue := by
  unfold State.noteEmpty
  split <;> rfl

theorem noteEmpty_granted (s : State) : s.noteEmpty.granted = s.granted := by
  unfold State.noteEmpty
  split <;> rfl

theorem queue_dropEntry (s : State) (h : Nat) :
    (s.dropEntry h).queue = s.queue.filter fun e => e.hatch != h := by
  unfold State.dropEntry
  split
  · exact noteEmpty_queue _
  · next hn => exact (filter_of_find_none hn).symm

theorem granted_dropEntry (s : State) (h : Nat) : (s.dropEntry h).granted = s.granted := by
  unfold State.dropEntry
  split
  · exact noteEmpty_granted _
  · rfl

theorem granted_dropGrant (s : State) (h : Nat) :
    (s.dropGrant h).granted = s.granted.filter fun g => g.hatch != h := by
  unfold State.dropGrant
  split
  · exact noteEmpty_granted _
  · next hn => exact (filter_of_find_none hn).symm

theorem queue_dropGrant (s : State) (h : Nat) : (s.dropGrant h).queue = s.queue := by
  unfold State.dropGrant
  split
  · exact noteEmpty_queue _
  · rfl

/-! ### The end of a motion -/

/-- The state after the valves of a MOVING step are shut, before its grant is returned. -/
def State.motionShut (s : State) (o : Op) : State :=
  match o.step? with
  | some st => s.shutValves o.hatch st
  | none => s

theorem endMotion_eq (s : State) (o : Op) :
    s.endMotion o = ((s.motionShut o).dropGrant o.hatch).classifierIdle o.hatch := rfl

theorem motionShut_eq (s : State) (o : Op) :
    s.motionShut o = { s with nodes := (s.motionShut o).nodes } := by
  unfold State.motionShut
  cases o.step? with
  | none => rfl
  | some st => exact shutValves_eq ..

theorem queue_endMotion (s : State) (o : Op) : (s.endMotion o).queue = s.queue := by
  rw [endMotion_eq, classifierIdle_queue, queue_dropGrant, motionShut_eq]

theorem granted_endMotion (s : State) (o : Op) :
    (s.endMotion o).granted = s.granted.filter fun g => g.hatch != o.hatch := by
  rw [endMotion_eq, classifierIdle_granted, granted_dropGrant, motionShut_eq]

theorem insertEntry_perm (e : Entry) (q : List Entry) : (insertEntry e q).Perm (e :: q) := by
  induction q with
  | nil => exact .refl _
  | cons x q ih =>
    unfold insertEntry
    split
    · exact .refl _
    · exact (ih.cons x).trans (.swap e x q)

/-! ### The law between moves -/

/-- The hatch is off: it has neither entry nor grant, whatever its op state says. -/
def Focus.isOff : Focus → Nat → Prop
  | .off h _, k => k = h
  | .whole, _ => False
  | .idle, _ => False

/-- The law of motion of R43 and R79 in a focus. -/
structure MotionIn (f : Focus) (s : State) : Prop where
  ops : s.ops.map Op.hatch = s.hatches.map Hatch.num
  nodup : (s.ops.map Op.hatch).Nodup
  queue : (s.queue.map Entry.hatch).Nodup
  granted : (s.granted.map Grant.hatch).Nodup
  queued_mem : ∀ e ∈ s.queue, e.hatch ∈ s.ops.map Op.hatch
  granted_mem : ∀ g ∈ s.granted, g.hatch ∈ s.ops.map Op.hatch
  states : ∀ o ∈ s.ops, ¬f.isOff o.hatch → (o.st = .queued ↔ o.hatch ∈ s.queue.map Entry.hatch) ∧
    (o.st = .moving ↔ o.hatch ∈ s.granted.map Grant.hatch)
  off : ∀ k, f.isOff k → k ∉ s.queue.map Entry.hatch ∧ k ∉ s.granted.map Grant.hatch

theorem motionOk_iff (s : State) : MotionOk s ↔ MotionIn .whole s := by
  constructor
  · rintro ⟨h1, h2, h3, h4, h5, h6, h7⟩
    exact ⟨h1, h1 ▸ h2, h3, h4, h5, h6, fun o ho _ => h7 o ho, fun _ h => h.elim⟩
  · rintro ⟨h1, h2, h3, h4, h5, h6, h7, -⟩
    exact ⟨h1, h1 ▸ h2, h3, h4, h5, h6, fun o ho => h7 o ho id⟩

theorem MotionIn.op_eq {f : Focus} {s : State} (h : MotionIn f s) {k : Nat} {o x : Op}
    (ho : s.op? k = some o) (hx : x ∈ s.ops) (hk : x.hatch = k) : x = o := by
  have hfind : s.op? x.hatch = some x := findKey_of_mem h.nodup hx
  rw [hk, ho] at hfind
  exact (Option.some.inj hfind).symm

/-- A law of motion that holds in a focus with the same hatch off holds in both. -/
theorem MotionIn.congr {f g : Focus} {s : State} (h : MotionIn f s) (hfg : f.isOff = g.isOff) :
    MotionIn g s :=
  ⟨h.ops, h.nodup, h.queue, h.granted, h.queued_mem, h.granted_mem, hfg ▸ h.states, hfg ▸ h.off⟩

/-- Only the lists of hatches and of op states matter. -/
theorem MotionIn.of_lists {f : Focus} {s t : State} (h : MotionIn f s)
    (ho : t.ops.map (fun o => (o.hatch, o.st)) = s.ops.map fun o => (o.hatch, o.st))
    (hh : t.hatches.map Hatch.num = s.hatches.map Hatch.num)
    (hq : t.queue.map Entry.hatch = s.queue.map Entry.hatch)
    (hg : t.granted.map Grant.hatch = s.granted.map Grant.hatch) : MotionIn f t := by
  have hops : t.ops.map Op.hatch = s.ops.map Op.hatch := by
    simpa [List.map_map, Function.comp_def] using congrArg (List.map Prod.fst) ho
  refine ⟨?_, hops ▸ h.nodup, hq ▸ h.queue, hg ▸ h.granted, fun e he => ?_, fun g hgr => ?_,
    fun o hot hf => ?_, fun k hk => ?_⟩
  · rw [hops, hh, h.ops]
  · obtain ⟨e', he', hee⟩ := List.mem_map.mp (hq ▸ List.mem_map_of_mem (f := Entry.hatch) he)
    exact hops ▸ hee ▸ h.queued_mem e' he'
  · obtain ⟨g', hg', hgg⟩ := List.mem_map.mp (hg ▸ List.mem_map_of_mem (f := Grant.hatch) hgr)
    exact hops ▸ hgg ▸ h.granted_mem g' hg'
  · obtain ⟨o', ho', hoo⟩ := List.mem_map.mp
      (ho ▸ List.mem_map_of_mem (f := fun o : Op => (o.hatch, o.st)) hot)
    obtain ⟨h1, h2⟩ := Prod.mk.inj hoo
    rw [hq, hg, ← h1, ← h2]
    exact h.states o' ho' (h1 ▸ hf)
  · rw [hq, hg]
    exact h.off k hk

theorem MotionIn.still {f : Focus} {s t : State} (h : MotionIn f s) (k : Still s t) :
    MotionIn f t := by
  refine h.of_lists ?_ k.hatches ?_ (by rw [k.granted])
  · simpa [List.map_map, Function.comp_def, Op.core] using
      congrArg (List.map fun c : Nat × OpState × OpKind × List Step => (c.1, c.2.1)) k.ops
  · simpa [List.map_map, Function.comp_def, Entry.core] using
      congrArg (List.map fun c : Nat × Step × Bool × Nat => c.1) k.queue

/-! ### Updates of one operation record -/

theorem mem_ops_updOp {s : State} {h : Nat} {f : Op → Op} {x : Op} :
    x ∈ (s.updOp h f).ops ↔ ∃ o ∈ s.ops, x = if o.hatch = h then f o else o :=
  mem_updateKey

theorem hatches_updOp {s : State} {h : Nat} {f : Op → Op} (hf : ∀ o, (f o).hatch = o.hatch) :
    (s.updOp h f).ops.map Op.hatch = s.ops.map Op.hatch :=
  map_updateKey Op.hatch Op.hatch h f (fun o _ => hf o) s.ops

/-- A hatch that is off settles. -/
theorem MotionIn.settle {s : State} {h : Nat} {b : Bool} (hm : MotionIn (.off h b) s) {f : Op → Op}
    (hf : ∀ o, (f o).hatch = o.hatch) (hst : ∀ o, s.op? h = some o → (f o).isBusy = false) :
    MotionIn .whole (s.updOp h f) := by
  obtain ⟨hq, hg⟩ := hm.off h rfl
  have hops := hatches_updOp (s := s) (h := h) hf
  refine ⟨hops.trans hm.ops, hops ▸ hm.nodup, hm.queue, hm.granted, hops ▸ hm.queued_mem,
    hops ▸ hm.granted_mem, fun x hx _ => ?_,
    fun _ hk => hk.elim⟩
  obtain ⟨o, ho, rfl⟩ := mem_ops_updOp.mp hx
  split
  · next hk =>
    have hop : s.op? h = some o := hk ▸ findKey_of_mem hm.nodup ho
    have hb := (isBusy_eq_false_iff _).mp (hst o hop)
    rw [hf, hk]
    exact ⟨⟨fun e => absurd e hb.1, fun e => absurd e hq⟩, ⟨fun e => absurd e hb.2, fun e => absurd e hg⟩⟩
  · next hk => exact hm.states o ho hk

/-- A hatch that is off is changed and stays off. -/
theorem MotionIn.updOff {s : State} {h : Nat} {b : Bool} (hm : MotionIn (.off h b) s) {f : Op → Op}
    (hf : ∀ o, (f o).hatch = o.hatch) : MotionIn (.off h b) (s.updOp h f) := by
  have hops := hatches_updOp (s := s) (h := h) hf
  refine ⟨hops.trans hm.ops, hops ▸ hm.nodup, hm.queue, hm.granted, hops ▸ hm.queued_mem,
    hops ▸ hm.granted_mem, fun x hx hoff => ?_, hm.off⟩
  obtain ⟨o, ho, rfl⟩ := mem_ops_updOp.mp hx
  split at hoff
  · next hk => exact absurd ((hf o).trans hk) hoff
  · next hk => rw [if_neg hk]; exact hm.states o ho hk

theorem mem_map_filter_ne {α : Type} {key : α → Nat} {h k : Nat} {l : List α} :
    k ∈ (l.filter fun x => key x != h).map key ↔ k ≠ h ∧ k ∈ l.map key := by
  simp only [List.mem_map, List.mem_filter, bne_iff_ne, ne_eq]
  constructor
  · rintro ⟨x, ⟨hx, hne⟩, rfl⟩; exact ⟨hne, x, hx, rfl⟩
  · rintro ⟨hne, x, hx, rfl⟩; exact ⟨x, ⟨hx, hne⟩, rfl⟩

/-- What has an entry or a grant is not at rest. -/
theorem MotionIn.not_mem_of_rest {s : State} (hm : MotionIn .whole s) {h : Nat} {o : Op}
    (ho : s.op? h = some o) (hb : o.isBusy = false) :
    h ∉ s.queue.map Entry.hatch ∧ h ∉ s.granted.map Grant.hatch := by
  obtain ⟨hq, hg⟩ := (isBusy_eq_false_iff o).mp hb
  have hh : o.hatch = h := findKey_key ho
  obtain ⟨h1, h2⟩ := hm.states o (findKey_mem ho) id
  rw [hh] at h1 h2
  exact ⟨fun e => hq (h1.mpr e), fun e => hg (h2.mpr e)⟩

theorem MotionIn.rest {s : State} (hm : MotionIn .whole s) {h : Nat} {o : Op} (b : Bool)
    (ho : s.op? h = some o) (hb : o.isBusy = false) : MotionIn (.off h b) s :=
  ⟨hm.ops, hm.nodup, hm.queue, hm.granted, hm.queued_mem, hm.granted_mem,
    fun o ho _ => hm.states o ho id, fun _ hk => hk ▸ hm.not_mem_of_rest ho hb⟩

/-- The entry of a QUEUED hatch leaves. -/
theorem MotionIn.unqueue {s : State} (hm : MotionIn .whole s) {h : Nat} {o : Op}
    (ho : s.op? h = some o) (hq : o.st = .queued) : MotionIn (.off h false) (s.dropEntry h) := by
  have hh : o.hatch = h := findKey_key ho
  obtain ⟨-, hmv⟩ := hm.states o (findKey_mem ho) id
  have hg : h ∉ s.granted.map Grant.hatch := fun e => by
    rw [hq, hh] at hmv
    cases hmv.mpr e
  refine ⟨?_, ?_, ?_, ?_, fun e he => ?_, ?_, fun x hx hoff => ?_, ?_⟩
  all_goals simp only [queue_dropEntry, granted_dropEntry, ops_dropEntry] at *
  · rw [(onlyMotion_dropEntry s h).hatches]; exact hm.ops
  · exact hm.nodup
  · exact hm.queue.sublist (List.filter_sublist.map _)
  · exact hm.granted
  · exact hm.queued_mem e (List.mem_of_mem_filter he)
  · exact hm.granted_mem
  · have hne : x.hatch ≠ h := hoff
    rw [mem_map_filter_ne]
    simpa [hne] using hm.states x hx id
  · rintro k rfl
    exact ⟨fun e => (mem_map_filter_ne.mp e).1 rfl, hg⟩

/-- The grant of a MOVING hatch leaves. -/
theorem MotionIn.endMotion {s : State} (hm : MotionIn .whole s) {h : Nat} {o : Op}
    (ho : s.op? h = some o) (hmv : o.st = .moving) : MotionIn (.off h true) (s.endMotion o) := by
  have hh : o.hatch = h := findKey_key ho
  obtain ⟨hqu, -⟩ := hm.states o (findKey_mem ho) id
  have hq : h ∉ s.queue.map Entry.hatch := fun e => by
    rw [hmv, hh] at hqu
    cases hqu.mpr e
  refine ⟨?_, ?_, ?_, ?_, ?_, fun g hg => ?_, fun x hx hoff => ?_, ?_⟩
  all_goals simp only [queue_endMotion, granted_endMotion, ops_endMotion, hh] at *
  · rw [(onlyMotion_endMotion s o).hatches]; exact hm.ops
  · exact hm.nodup
  · exact hm.queue
  · exact hm.granted.sublist (List.filter_sublist.map _)
  · exact hm.queued_mem
  · exact hm.granted_mem g (List.mem_of_mem_filter hg)
  · have hne : x.hatch ≠ h := hoff
    rw [mem_map_filter_ne]
    simpa [hne] using hm.states x hx id
  · rintro k rfl
    exact ⟨hq, fun e => (mem_map_filter_ne.mp e).1 rfl⟩

/-- A hatch that is off joins the queue. -/
theorem MotionIn.join {s : State} {h : Nat} {b : Bool} (hm : MotionIn (.off h b) s) {o : Op}
    (ho : s.op? h = some o) {e : Entry} (he : e.hatch = h) :
    MotionIn .whole ((s.updOp h fun o => { o with st := .queued }).joinQueue e) := by
  obtain ⟨hq, hg⟩ := hm.off h rfl
  have hops := hatches_updOp (s := s) (h := h) (f := fun o => { o with st := .queued }) fun _ => rfl
  have hperm := (insertEntry_perm e s.queue).map Entry.hatch
  have hmem : ∀ k, k ∈ (insertEntry e s.queue).map Entry.hatch ↔ k = h ∨ k ∈ s.queue.map Entry.hatch :=
    fun k => by rw [hperm.mem_iff, List.map_cons, List.mem_cons, he]
  have hop : h ∈ s.ops.map Op.hatch := List.mem_map.mpr ⟨o, findKey_mem ho, findKey_key ho⟩
  refine ⟨hops.trans hm.ops, hops ▸ hm.nodup, ?_, hm.granted, fun x hx => ?_, hops ▸ hm.granted_mem,
    fun x hx _ => ?_, fun _ hk => hk.elim⟩
  · refine hperm.nodup_iff.mpr (List.nodup_cons.mpr ⟨?_, hm.queue⟩)
    rwa [he]
  · refine hops ▸ ((mem_insertEntry hx).elim (fun hxe => ?_) (hm.queued_mem x))
    rw [hxe, he]; exact hop
  · obtain ⟨y, hy, rfl⟩ := mem_ops_updOp.mp hx
    rw [joinQueue_queue, joinQueue_granted, updOp_queue, updOp_granted, hmem]
    split
    · next hk => simp [hk, hg]
    · next hk => simpa [hk] using hm.states y hy hk

/-- The entry of a hatch becomes its grant. -/
theorem MotionIn.grant {s : State} (hm : MotionIn .whole s) {e : Entry} {rest : List Entry}
    (hq : s.queue = e :: rest) {g : Grant} (hg : g.hatch = e.hatch) {f : Op → Op}
    (hf : ∀ o, (f o).hatch = o.hatch) (hst : ∀ o, (f o).st = .moving) :
    MotionIn .whole (State.updOp
      { s with queue := s.queue.filter fun x => x.hatch != e.hatch, granted := s.granted ++ [g] }
      e.hatch f) := by
  have hmem : e ∈ s.queue := hq ▸ List.mem_cons_self
  have hops := hatches_updOp (s := { s with
    queue := s.queue.filter fun x => x.hatch != e.hatch, granted := s.granted ++ [g] })
    (h := e.hatch) hf
  have hng : e.hatch ∉ s.granted.map Grant.hatch := by
    intro hc
    obtain ⟨o, ho, hoe⟩ := List.mem_map.mp (hm.queued_mem e hmem)
    obtain ⟨h1, h2⟩ := hm.states o ho id
    rw [hoe] at h1 h2
    have := (h1.mpr (List.mem_map_of_mem hmem)).symm.trans (h2.mpr hc)
    cases this
  refine ⟨hops.trans hm.ops, hops ▸ hm.nodup, hm.queue.sublist (List.filter_sublist.map _), ?_,
    fun x hx => hops ▸ hm.queued_mem x (List.mem_of_mem_filter hx), fun x hx => ?_, fun x hx _ => ?_,
    fun _ hk => hk.elim⟩
  · rw [updOp_granted, List.map_append, List.nodup_append]
    refine ⟨hm.granted, by simp, ?_⟩
    rintro a ha b hb rfl
    rw [List.map_singleton, List.mem_singleton, hg] at hb
    exact hng (hb ▸ ha)
  · refine hops ▸ (List.mem_append.mp hx).elim (hm.granted_mem x) fun hxg => ?_
    rw [List.mem_singleton.mp hxg, hg]
    exact hm.queued_mem e hmem
  · obtain ⟨y, hy, rfl⟩ := mem_ops_updOp.mp hx
    rw [updOp_queue, updOp_granted, mem_map_filter_ne, List.map_append, List.mem_append]
    split
    · next hk => simp [hst, hf, hk, hg]
    · next hk => simpa [hk, hg] using hm.states y hy id

/-! ### Sheds (R86) -/

/-- The entry that a shed puts back into the queue. -/
def Grant.back (g : Grant) : Entry := ⟨g.hatch, g.step, g.closing, g.time, none, false⟩

theorem shedOne_lists (s : State) (g : Grant) :
    (s.shedOne g).queue = insertEntry g.back s.queue ∧
      (s.shedOne g).granted = (s.granted.filter fun x => x.hatch != g.hatch) ∧
      (s.shedOne g).ops = (s.updOp g.hatch fun o => { o with st := .queued, start := none }).ops ∧
      (s.shedOne g).hatches.map Hatch.num = s.hatches.map Hatch.num := by
  refine ⟨?_, ?_, ?_, (onlyMotion_shedOne s g).hatches⟩ <;>
    rw [State.shedOne, State.takeShed, shutValves_eq] <;> rfl

/-- A shed puts a grant back into the queue. -/
theorem MotionIn.shed {s : State} (hm : MotionIn .whole s) {g : Grant} (hg : g ∈ s.granted) :
    MotionIn .whole (s.shedOne g) := by
  obtain ⟨hq', hg', ho', hh'⟩ := shedOne_lists s g
  have hops := hatches_updOp (s := s) (h := g.hatch)
    (f := fun o => { o with st := .queued, start := none }) fun _ => rfl
  have hops' : (s.shedOne g).ops.map Op.hatch = s.ops.map Op.hatch := ho' ▸ hops
  have hgm : g.hatch ∈ s.granted.map Grant.hatch := List.mem_map_of_mem hg
  have hnq : g.hatch ∉ s.queue.map Entry.hatch := by
    intro hc
    obtain ⟨o, ho, hoe⟩ := List.mem_map.mp (hm.granted_mem g hg)
    obtain ⟨h1, h2⟩ := hm.states o ho id
    rw [hoe] at h1 h2
    cases (h1.mpr hc).symm.trans (h2.mpr hgm)
  have hperm := (insertEntry_perm g.back s.queue).map Entry.hatch
  refine ⟨(hops'.trans hm.ops).trans hh'.symm, hops' ▸ hm.nodup, ?_, ?_, fun x hx => ?_, fun x hx => ?_,
    fun x hx _ => ?_, fun _ hk => hk.elim⟩
  · exact hq' ▸ hperm.nodup_iff.mpr (List.nodup_cons.mpr ⟨hnq, hm.queue⟩)
  · exact hg' ▸ hm.granted.sublist (List.filter_sublist.map _)
  · refine hops' ▸ (mem_insertEntry (hq' ▸ hx)).elim (fun hxe => ?_) (hm.queued_mem x)
    rw [hxe]; exact hm.granted_mem g hg
  · exact hops' ▸ hm.granted_mem x (List.mem_of_mem_filter (hg' ▸ hx))
  · obtain ⟨y, hy, rfl⟩ := mem_ops_updOp.mp (ho' ▸ hx)
    rw [hq', hg', hperm.mem_iff, mem_map_filter_ne, List.map_cons, List.mem_cons]
    split
    · next hk => simp [hk, Grant.back]
    · next hk => simpa [hk, Grant.back] using hm.states y hy id

/-- A law that the shed of a grant keeps is kept by the sheds of a new budget. -/
theorem keeps_sheds {P : State → Prop}
    (hP : ∀ s g, P s → MotionIn .whole s → g ∈ s.granted → P (s.shedOne g)) (gs : List Grant)
    {s : State} (hnodup : (gs.map Grant.hatch).Nodup) (hgs : ∀ g ∈ gs, g ∈ s.granted)
    (hm : MotionIn .whole s) (hs : P s) : P (State.shedLoop gs s) := by
  induction gs generalizing s with
  | nil => exact hs
  | cons g gs ih =>
    unfold State.shedLoop
    split
    · exact hs
    · have hg := hgs g List.mem_cons_self
      rw [List.map_cons, List.nodup_cons] at hnodup
      refine ih hnodup.2 (fun x hx => ?_) (hm.shed hg) (hP s g hs hm hg)
      rw [(shedOne_lists s g).2.1, List.mem_filter, bne_iff_ne]
      exact ⟨hgs x (List.mem_cons_of_mem _ hx), fun e => hnodup.1 (e ▸ List.mem_map_of_mem hx)⟩

/-- A law that does not look at the budget, and that a shed keeps, is kept by a new budget. -/
theorem keeps_newBudget {P : State → Prop}
    (hP : ∀ s g, P s → MotionIn .whole s → g ∈ s.granted → P (s.shedOne g)) {s : State} {b m : Nat}
    (hm : MotionIn .whole s) (hs : P { s with budget := b, maxB := m }) :
    P (State.shedLoop s.granted.reverse { s with budget := b, maxB := m }) :=
  keeps_sheds hP _ (by rw [List.map_reverse, List.nodup_reverse]; exact hm.granted)
    (fun _ hg => List.mem_reverse.mp hg) (hm.of_lists rfl rfl rfl rfl) hs

/-! ### Every move and every event keeps the law -/

theorem MotionIn.of_nodes {f : Focus} {s t : State} (hm : MotionIn f s)
    (h : t = { s with nodes := t.nodes, pumps := t.pumps }) : MotionIn f t := by
  rw [h]
  exact hm.of_lists rfl rfl rfl rfl

/-- Where nothing is QUEUED or MOVING nothing is queued or granted. -/
theorem MotionIn.empty {s : State} (hm : MotionIn .whole s) (h : ∀ o ∈ s.ops, o.isBusy = false) :
    s.queue = [] ∧ s.granted = [] := by
  constructor <;> refine List.eq_nil_iff_forall_not_mem.mpr fun x hx => ?_
  · obtain ⟨o, ho, hoe⟩ := List.mem_map.mp (hm.queued_mem x hx)
    have hst := (hm.states o ho id).1.mpr (hoe ▸ List.mem_map_of_mem hx)
    exact ((isBusy_eq_false_iff o).mp (h o ho)).1 hst
  · obtain ⟨o, ho, hoe⟩ := List.mem_map.mp (hm.granted_mem x hx)
    have hst := (hm.states o ho id).2.mpr (hoe ▸ List.mem_map_of_mem hx)
    exact ((isBusy_eq_false_iff o).mp (h o ho)).2 hst

theorem emptyGrants_of_empty {s : State} (h : s.queue = [] ∧ s.granted = []) :
    s.emptyGrants = s := by
  simp [State.emptyGrants, h]

/-- A queue entry has a hatch record. -/
theorem MotionIn.hatch_of_entry {s : State} {f : Focus} (hm : MotionIn f s) {e : Entry}
    (he : e ∈ s.queue) : s.hatch? e.hatch ≠ none := by
  intro hn
  obtain ⟨o, ho, hoe⟩ := List.mem_map.mp (hm.queued_mem e he)
  have hmem : e.hatch ∈ s.hatches.map Hatch.num := hm.ops ▸ hoe ▸ List.mem_map_of_mem ho
  obtain ⟨hr, hhr, hre⟩ := List.mem_map.mp hmem
  rw [State.hatch?, findKey, List.find?_eq_none] at hn
  exact absurd (by simpa using hre) (hn hr hhr)

theorem motionIn_move {f g : Focus} {s t : State} (hm : MotionIn f s) (h : Move f s g t) :
    MotionIn g t := by
  cases h with
  | still h => exact hm.still h
  | zero a k => exact hm.of_lists rfl rfl rfl rfl
  | unqueue ho hq => exact hm.unqueue ho hq
  | endMotion ho hmv => exact hm.endMotion ho hmv
  | rest ho hb => exact hm.rest false ho hb
  | accept ho hb _ _ _ _ => exact (hm.rest true ho hb).updOff fun _ => rfl
  | settle f hf hst _ => exact hm.settle hf hst
  | pass _ _ => exact hm.updOff fun _ => rfl
  | join ho he _ _ => exact hm.join ho he
  | @grant _ e rest hr d speed clamped g hq _ _ _ hg =>
    have hgrant := hm.grant hq (g := g) (by rw [hg])
      (f := fun o => { o with st := .moving, start := some s.now, watch := none }) (fun _ => rfl)
      fun _ => rfl
    refine hgrant.of_nodes ?_
    rw [openValves_eq]
  | grantNone hq hn => exact absurd hn (hm.hatch_of_entry (hq ▸ List.mem_cons_self))
  | write _ _ _ => exact hm.of_nodes (by rw [writeDriven_eq])
  | @follow _ h g p hg _ =>
    refine hm.of_lists rfl rfl rfl ?_
    refine map_updateKey Grant.hatch Grant.hatch h _ (fun x hx => ?_) s.granted
    rw [(follow_keeps g s.maxB s.freeFlow p).1, findKey_key hg, hx]
  | startPump _ => exact hm.of_nodes (startPump_eq s)
  | newBudget b m =>
    exact keeps_newBudget (fun s g _ hm hg => hm.shed hg) hm (hm.of_lists rfl rfl rfl rfl)
  | toIdle _ => exact hm.congr rfl
  | stopTimer => exact hm.of_lists rfl rfl rfl rfl
  | idleBudget b m => exact hm.of_lists rfl rfl rfl rfl
  | fromIdle => exact hm.congr rfl
  | empty hb => rwa [emptyGrants_of_empty (hm.empty (hb ((motionOk_iff s).mpr hm)))]

theorem Goes.motionIn {f g : Focus} {s t : State} (h : Goes f s g t) (hm : MotionIn f s) :
    MotionIn g t :=
  h.keeps (P := MotionIn) (fun _ _ _ _ => motionIn_move) hm

theorem Fresh.motionIn {t : State} (h : Fresh t) : MotionIn .whole t := by
  refine ⟨h.ops, h.ops ▸ h.nodup, ?_, ?_, ?_, ?_, fun o ho _ => ?_, fun _ hk => hk.elim⟩
  all_goals simp only [h.queue, h.granted]
  · exact List.nodup_nil
  · exact List.nodup_nil
  · exact fun _ hx => nomatch hx
  · exact fun _ hx => nomatch hx
  · simp [(h.idle o ho).1]

theorem motionIn_event {s t : State} (hm : MotionIn .whole s) (h : Event s t) :
    MotionIn .whole t := by
  cases h with
  | moves h => exact h.motionIn hm
  | fresh h _ => exact h.motionIn
  | mode m _ => exact hm.of_lists rfl rfl rfl rfl
  | unlatch => exact hm.of_lists rfl rfl rfl rfl
  | stop hl => exact (moves_setLatch hl).motionIn (hm.of_lists rfl rfl rfl rfl)

/-- A law that every event keeps along with the law of motion, and a change of mode of a part at rest, is kept by a
step. -/
theorem step_keeps_with_motion {P : State → Prop}
    (hP : ∀ s t, MotionIn .whole s → P s → Event s t → P t)
    (hrest : ∀ s m, MotionIn .whole s → P s → (∀ o ∈ s.ops, o.isBusy = false) → P { s with mode := m })
    {s t : State} (hm : MotionOk s) (hs : P s) (h : step s = .next t) : P t :=
  ((turns_step h).keeps (P := fun x => MotionIn .whole x ∧ P x)
    (fun s t hx he => ⟨motionIn_event hx.1 he, hP s t hx.1 hx.2 he⟩)
    (fun s m hx hb => ⟨hx.1.of_lists rfl rfl rfl rfl, hrest s m hx.1 hx.2 hb⟩)
    ⟨(motionOk_iff s).mp hm, hs⟩).2

/-- A law of states in a focus that every move keeps along with the law of motion is kept by a run. -/
theorem Goes.keeps_with_motion {P : Focus → State → Prop}
    (hP : ∀ f s g t, MotionIn f s → P f s → Move f s g t → P g t) {f g : Focus} {s t : State}
    (h : Goes f s g t) (hm : MotionIn f s) (hs : P f s) : P g t :=
  (h.keeps (P := fun f x => MotionIn f x ∧ P f x)
    (fun f s g t hx hmv => ⟨motionIn_move hx.1 hmv, hP f s g t hx.1 hx.2 hmv⟩) ⟨hm, hs⟩).2

theorem motionOk_step {s t : State} (hm : MotionOk s) (h : step s = .next t) : MotionOk t :=
  (motionOk_iff t).mpr ((turns_step h).keeps (P := MotionIn .whole) (fun _ _ => motionIn_event)
    (fun _ _ hs _ => hs.of_lists rfl rfl rfl rfl) ((motionOk_iff s).mp hm))

end Sys2Proof.Machine

/-! The law of steps (R43, R50, R51, R81, and R46 to R48): what is queued or granted is the front step of its
operation's program, and no CLOSE-class program has a release step. -/

namespace Sys2Proof.Machine

/-! ### CLOSE-class programs have no release step (R46 to R48) -/

theorem engageSteps_driven (hr : Hatch) : ∀ st ∈ hr.engageSteps, st.driven ≠ .cleatReleaseValve := by
  intro st hst
  obtain ⟨g, -, rfl⟩ := List.mem_map.mp hst
  simp [Step.driven]

theorem rollClose_driven {hr : Hatch} {prog : List Step} (h : hr.rollClose = some prog) :
    ∀ st ∈ prog, st.driven ≠ .cleatReleaseValve := by
  have heng := engageSteps_driven hr
  unfold Hatch.rollClose at h
  split at h
  all_goals cases h
  all_goals simp [Step.driven] <;> exact heng

theorem foldClose_driven {hr : Hatch} {prog : List Step} (h : hr.foldClose = some prog) :
    ∀ st ∈ prog, st.driven ≠ .cleatReleaseValve := by
  have heng := engageSteps_driven hr
  unfold Hatch.foldClose at h
  split at h
  all_goals cases h
  all_goals simp [Step.driven] <;> exact heng

theorem program_driven_of_closing {hr : Hatch} {k : OpKind} {prog : List Step}
    (h : hr.program k = some prog) (hk : k.isClosing = true) :
    ∀ st ∈ prog, st.driven ≠ .cleatReleaseValve := by
  cases k with
  | none => cases h
  | opening => cases hk
  | release => cases hk
  | closing =>
    unfold Hatch.program at h
    dsimp only at h
    split at h
    · exact rollClose_driven h
    · exact foldClose_driven h
  | engage =>
    unfold Hatch.program at h
    dsimp only at h
    split at h
    · cases h; exact engageSteps_driven hr
    · cases h

/-! ### The operation behind an entry or a grant -/

/-- An operation of hatch `h` has the front step `st` and is of the class `closing`. -/
def State.Fronts (s : State) (h : Nat) (st : Step) (closing : Bool) : Prop :=
  ∃ o ∈ s.ops, o.hatch = h ∧ o.prog.head? = some st ∧ o.kind.isClosing = closing

/-- No CLOSE-class operation has a release step in its program. -/
def State.ClosesOnly (s : State) : Prop :=
  ∀ o ∈ s.ops, o.kind.isClosing = true → ∀ st ∈ o.prog, st.driven ≠ .cleatReleaseValve

theorem stepsOk_iff (s : State) : StepsOk s ↔ (∀ e ∈ s.queue, s.Fronts e.hatch e.step e.closing) ∧
    (∀ g ∈ s.granted, s.Fronts g.hatch g.step g.closing) ∧ s.ClosesOnly := Iff.rfl

/-- An operation record with the core of another. -/
theorem mem_ops_of_core {s t : State} (h : t.ops.map Op.core = s.ops.map Op.core) {o : Op}
    (ho : o ∈ s.ops) : ∃ x ∈ t.ops, x.core = o.core :=
  List.mem_map.mp (h ▸ List.mem_map_of_mem (f := Op.core) ho)

theorem State.Fronts.of_core {s t : State} (h : t.ops.map Op.core = s.ops.map Op.core) {k : Nat}
    {st : Step} {b : Bool} (hs : s.Fronts k st b) : t.Fronts k st b := by
  obtain ⟨o, ho, hk, hp, hb⟩ := hs
  obtain ⟨x, hx, hc⟩ := mem_ops_of_core h ho
  simp only [Op.core, Prod.mk.injEq] at hc
  obtain ⟨h1, -, h3, h4⟩ := hc
  exact ⟨x, hx, h1.trans hk, h4 ▸ hp, h3 ▸ hb⟩

theorem State.ClosesOnly.of_core {s t : State} (h : t.ops.map Op.core = s.ops.map Op.core)
    (hs : s.ClosesOnly) : t.ClosesOnly := by
  intro o ho hb st hst
  obtain ⟨x, hx, hc⟩ := mem_ops_of_core h.symm ho
  simp only [Op.core, Prod.mk.injEq] at hc
  obtain ⟨-, -, h3, h4⟩ := hc
  exact hs x hx (h3 ▸ hb) st (h4 ▸ hst)

/-- A change of the record of another hatch, or one that keeps kind and program. -/
theorem State.Fronts.updOp {s : State} {h k : Nat} {f : Op → Op} {st : Step} {b : Bool}
    (hs : s.Fronts k st b)
    (hf : k = h → ∀ o, (f o).hatch = o.hatch ∧ (f o).kind = o.kind ∧ (f o).prog = o.prog) :
    (s.updOp h f).Fronts k st b := by
  obtain ⟨o, ho, hk, hp, hb⟩ := hs
  refine ⟨if o.hatch = h then f o else o, mem_ops_updOp.mpr ⟨o, ho, rfl⟩, ?_⟩
  split
  · next heq =>
    obtain ⟨h1, h2, h3⟩ := hf (hk.symm.trans heq) o
    exact ⟨h1.trans hk, h3 ▸ hp, h2 ▸ hb⟩
  · exact ⟨hk, hp, hb⟩

theorem State.ClosesOnly.updOp {s : State} {h : Nat} {f : Op → Op} (hs : s.ClosesOnly)
    (hf : ∀ o ∈ s.ops, o.hatch = h → (f o).kind.isClosing = true →
      ∀ st ∈ (f o).prog, st.driven ≠ .cleatReleaseValve) : (s.updOp h f).ClosesOnly := by
  intro x hx hb
  obtain ⟨o, ho, rfl⟩ := mem_ops_updOp.mp hx
  split at hb
  · next heq => rw [if_pos heq]; exact hf o ho heq hb
  · next heq => rw [if_neg heq]; exact hs o ho hb

/-! ### Every move and every event keeps the law -/

/-- Entries and grants that all stand in the old lists, with the operation records changed so that they still
have their fronts. -/
theorem StepsOk.change {s t : State} (hs : StepsOk s) (hq : ∀ e ∈ t.queue, e ∈ s.queue)
    (hg : ∀ g ∈ t.granted, g ∈ s.granted)
    (hfront : ∀ k st b, (k ∈ t.queue.map Entry.hatch ∨ k ∈ t.granted.map Grant.hatch) →
      s.Fronts k st b → t.Fronts k st b) (hc : s.ClosesOnly → t.ClosesOnly) : StepsOk t := by
  obtain ⟨hsq, hsg, hsc⟩ := (stepsOk_iff s).mp hs
  exact (stepsOk_iff t).mpr
    ⟨fun e he => hfront _ _ _ (.inl (List.mem_map_of_mem he)) (hsq e (hq e he)),
      fun g hgr => hfront _ _ _ (.inr (List.mem_map_of_mem hgr)) (hsg g (hg g hgr)), hc hsc⟩

theorem StepsOk.of_sub {s t : State} (hs : StepsOk s) (ho : t.ops = s.ops)
    (hq : ∀ e ∈ t.queue, e ∈ s.queue) (hg : ∀ g ∈ t.granted, g ∈ s.granted) : StepsOk t :=
  hs.change hq hg (fun _ _ _ _ h => h.of_core (by rw [ho])) fun h => h.of_core (by rw [ho])

theorem StepsOk.still {s t : State} (hs : StepsOk s) (h : Still s t) : StepsOk t := by
  obtain ⟨hsq, hsg, hsc⟩ := (stepsOk_iff s).mp hs
  refine (stepsOk_iff t).mpr ⟨fun e he => ?_, fun g hg => ?_, hsc.of_core h.ops⟩
  · obtain ⟨x, hx, hxe⟩ := List.mem_map.mp (h.queue ▸ List.mem_map_of_mem (f := Entry.core) he)
    simp only [Entry.core, Prod.mk.injEq] at hxe
    obtain ⟨h1, h2, h3, -⟩ := hxe
    have hfront := (hsq x hx).of_core h.ops
    rwa [h1, h2, h3] at hfront
  · exact (hsg g (h.granted ▸ hg)).of_core h.ops

/-- A hatch that is off is changed. -/
theorem StepsOk.updOff {s : State} {h : Nat} {b : Bool} (hs : StepsOk s) (hm : MotionIn (.off h b) s)
    {f : Op → Op} (hf : ∀ o ∈ s.ops, o.hatch = h → (f o).kind.isClosing = true →
      ∀ st ∈ (f o).prog, st.driven ≠ .cleatReleaseValve) : StepsOk (s.updOp h f) := by
  obtain ⟨hq, hg⟩ := hm.off h rfl
  refine hs.change (fun _ he => he) (fun _ hgr => hgr) (fun k st b hk hfront => ?_) fun hc =>
    hc.updOp hf
  exact hfront.updOp fun hkh => (hk.elim (hkh ▸ hq) (hkh ▸ hg)).elim

theorem StepsOk.join {s : State} {h : Nat} {o : Op} {e : Entry} (hs : StepsOk s)
    (ho : s.op? h = some o) (he : e.hatch = h) (hp : o.prog.head? = some e.step)
    (hc : e.closing = o.kind.isClosing) :
    StepsOk ((s.updOp h fun o => { o with st := .queued }).joinQueue e) := by
  obtain ⟨hsq, hsg, hsc⟩ := (stepsOk_iff s).mp hs
  have hfront : ∀ {k st b}, s.Fronts k st b →
      (s.updOp h fun o => { o with st := .queued }).Fronts k st b :=
    fun hx => hx.updOp fun _ _ => ⟨rfl, rfl, rfl⟩
  refine (stepsOk_iff _).mpr ⟨fun x hx => ?_, fun g hg => hfront (hsg g hg),
    hsc.updOp fun o ho _ => hsc o ho⟩
  rcases mem_insertEntry hx with rfl | hx
  · exact hfront ⟨o, findKey_mem ho, (findKey_key ho).trans he.symm, hp, hc.symm⟩
  · exact hfront (hsq x hx)

theorem StepsOk.shed {s : State} (hs : StepsOk s) {g : Grant} (hg : g ∈ s.granted) :
    StepsOk (s.shedOne g) := by
  obtain ⟨hsq, hsg, hsc⟩ := (stepsOk_iff s).mp hs
  obtain ⟨hq', hg', ho', -⟩ := shedOne_lists s g
  have hcore : (s.shedOne g).ops.map Op.core =
      (s.updOp g.hatch fun o => { o with st := .queued, start := none }).ops.map Op.core := by rw [ho']
  have hfront : ∀ {k st b}, s.Fronts k st b → (s.shedOne g).Fronts k st b :=
    fun hx => State.Fronts.of_core hcore (hx.updOp fun _ _ => ⟨rfl, rfl, rfl⟩)
  refine (stepsOk_iff _).mpr ⟨fun x hx => ?_, fun x hx => ?_,
    State.ClosesOnly.of_core hcore (hsc.updOp fun o ho _ => hsc o ho)⟩
  · rcases mem_insertEntry (hq' ▸ hx) with rfl | hx
    · exact hfront (hsg g hg)
    · exact hfront (hsq x hx)
  · exact hfront (hsg x (List.mem_of_mem_filter (hg' ▸ hx)))

theorem StepsOk.grant {s : State} {e : Entry} {rest : List Entry} {g : Grant} {f : Op → Op}
    (hs : StepsOk s) (hq : s.queue = e :: rest)
    (hg : g.hatch = e.hatch ∧ g.step = e.step ∧ g.closing = e.closing)
    (hf : ∀ o, (f o).hatch = o.hatch ∧ (f o).kind = o.kind ∧ (f o).prog = o.prog) :
    StepsOk (State.updOp
      { s with queue := s.queue.filter fun x => x.hatch != e.hatch, granted := s.granted ++ [g] }
      e.hatch f) := by
  obtain ⟨hsq, hsg, hsc⟩ := (stepsOk_iff s).mp hs
  have hfront : ∀ {k st b}, s.Fronts k st b → (State.updOp
      { s with queue := s.queue.filter fun x => x.hatch != e.hatch, granted := s.granted ++ [g] }
      e.hatch f).Fronts k st b := fun hx =>
    State.Fronts.updOp (hx.of_core rfl) fun _ => hf
  refine (stepsOk_iff _).mpr ⟨fun x hx => hfront (hsq x (List.mem_of_mem_filter hx)), fun x hx => ?_,
    State.ClosesOnly.updOp (hsc.of_core rfl) fun o ho _ => ?_⟩
  · rcases List.mem_append.mp hx with hx | hx
    · exact hfront (hsg x hx)
    · obtain ⟨h1, h2, h3⟩ := hg
      rw [List.mem_singleton.mp hx, h1, h2, h3]
      exact hfront (hsq e (hq ▸ List.mem_cons_self))
  · obtain ⟨-, h2, h3⟩ := hf o
    rw [h2, h3]
    exact hsc o ho

/-- The grants after one of them follows a new fraction. -/
theorem mem_updGrant_follow {s : State} {h : Nat} {g x : Grant} {p : Nat} (hg : s.grant? h = some g)
    (hx : x ∈ (s.updGrant h fun _ => g.follow s.maxB s.freeFlow p).granted) :
    ∃ y ∈ s.granted, x.hatch = y.hatch ∧ x.step = y.step ∧ x.closing = y.closing := by
  obtain ⟨y, hy, rfl⟩ := mem_updateKey.mp hx
  split
  · obtain ⟨h1, h2, h3, -⟩ := follow_keeps g s.maxB s.freeFlow p
    exact ⟨g, findKey_mem hg, h1, h2, h3⟩
  · exact ⟨y, hy, rfl, rfl, rfl⟩

theorem StepsOk.of_nodes {s t : State} (hs : StepsOk s)
    (h : t = { s with nodes := t.nodes, pumps := t.pumps }) : StepsOk t := by
  rw [h]
  exact hs.of_sub rfl (fun _ => id) fun _ => id

theorem stepsOk_move {f g : Focus} {s t : State} (hm : MotionIn f s) (hs : StepsOk s)
    (h : Move f s g t) : StepsOk t := by
  have hsc : s.ClosesOnly := ((stepsOk_iff s).mp hs).2.2
  cases h with
  | still h => exact hs.still h
  | zero a k => exact hs.of_sub rfl (fun _ => id) fun _ => id
  | @unqueue _ h o ho hq =>
    exact hs.of_sub (ops_dropEntry s h) (fun e he => List.mem_of_mem_filter (queue_dropEntry s h ▸ he))
      fun g hg => granted_dropEntry s h ▸ hg
  | @endMotion _ h o ho hmv =>
    exact hs.of_sub (ops_endMotion s o) (fun e he => queue_endMotion s o ▸ he)
      fun g hg => List.mem_of_mem_filter (granted_endMotion s o ▸ hg)
  | rest _ _ => exact hs
  | accept ho hb hp _ _ _ =>
    exact hs.updOff (hm.rest true ho hb) fun _ _ _ hk => program_driven_of_closing hp hk
  | @settle _ h b f _ _ hp =>
    refine hs.updOff hm fun o ho hk hcl st hst => ?_
    rcases hp o with hnil | ⟨hkind, hprog⟩
    · rw [hnil] at hst; cases hst
    · exact hsc o ho (hkind ▸ hcl) st (hprog ▸ hst)
  | @pass _ h b o p ho hp =>
    refine hs.updOff hm fun x hx hk hcl st hst => ?_
    obtain rfl := hm.op_eq ho hx hk
    exact hsc x hx hcl st (hp.subset hst)
  | join ho he hp hc => exact hs.join ho he hp hc
  | @grant _ e rest hr d speed clamped g hq _ _ _ hg =>
    have hgrant := hs.grant hq (g := g) (by rw [hg]; exact ⟨rfl, rfl, rfl⟩)
      (f := fun o => { o with st := .moving, start := some s.now, watch := none })
      fun _ => ⟨rfl, rfl, rfl⟩
    refine hgrant.of_nodes ?_
    rw [openValves_eq]
  | grantNone hq hn => exact absurd hn (hm.hatch_of_entry (hq ▸ List.mem_cons_self))
  | write _ _ _ => exact hs.of_nodes (by rw [writeDriven_eq])
  | follow hg _ =>
    refine (stepsOk_iff _).mpr ⟨hs.1, fun x hx => ?_, hs.2.2⟩
    obtain ⟨y, hy, h1, h2, h3⟩ := mem_updGrant_follow hg hx
    rw [h1, h2, h3]
    exact hs.2.1 y hy
  | startPump _ => exact hs.of_nodes (startPump_eq s)
  | newBudget b m => exact keeps_newBudget (fun s g hs _ hg => hs.shed hg) hm hs
  | toIdle _ => exact hs
  | stopTimer => exact hs
  | idleBudget b m => exact hs
  | fromIdle => exact hs
  | empty hb => rwa [emptyGrants_of_empty (hm.empty (hb ((motionOk_iff s).mpr hm)))]

theorem Goes.stepsOk {f g : Focus} {s t : State} (h : Goes f s g t) (hm : MotionIn f s)
    (hs : StepsOk s) : StepsOk t :=
  h.keeps_with_motion (P := fun _ x => StepsOk x) (fun _ _ _ _ => stepsOk_move) hm hs

theorem Fresh.stepsOk {t : State} (h : Fresh t) : StepsOk t := by
  refine ⟨?_, ?_, fun o ho _ => ?_⟩
  · simp [h.queue]
  · simp [h.granted]
  · simp [h.idle o ho]

theorem stepsOk_event {s t : State} (hm : MotionIn .whole s) (hs : StepsOk s) (h : Event s t) :
    StepsOk t := by
  cases h with
  | moves h => exact h.stepsOk hm hs
  | fresh h _ => exact h.stepsOk
  | mode m _ => exact hs
  | unlatch => exact hs
  | stop hl => exact (moves_setLatch hl).stepsOk (hm.of_lists rfl rfl rfl rfl) hs

theorem stepsOk_step {s t : State} (hm : MotionOk s) (hs : StepsOk s) (h : step s = .next t) :
    StepsOk t :=
  step_keeps_with_motion (fun _ _ => stepsOk_event) (fun _ _ _ hs _ => hs) hm hs h

/-- Settles O56, by the law of motion and the law of steps of every move. -/
theorem stepKeepsTheMotions : Obligations.StepKeepsTheMotions := by
  unfold Obligations.StepKeepsTheMotions
  exact ⟨fun s t hs h => motionOk_step hs h, fun s t hs h => stepsOk_step hs.1 hs.2 h⟩

end Sys2Proof.Machine

/-! The law of the sea (R65, R130, R132, R137, R178): in SEA nothing under way is OPEN-class, and outside SEA and
HARBOUR nothing is under way. -/

namespace Sys2Proof.Machine

/-- The law of the sea in a focus: a hatch whose operation may be queued again has one that may run in the
part mode. -/
structure SeaIn (f : Focus) (s : State) : Prop where
  entries : s.mode = .sea → ∀ e ∈ s.queue, e.closing = true
  grants : s.mode = .sea → ∀ g ∈ s.granted, g.closing = true
  ops : s.mode = .sea → ∀ o ∈ s.ops, o.isBusy = true → o.kind.isClosing = true
  rest : s.mode ≠ .sea → s.mode ≠ .harbour → s.queue = [] ∧ s.granted = []
  again : ∀ h, f = .off h true → (s.mode = .sea ∨ s.mode = .harbour) ∧
    (s.mode = .sea → ∀ o ∈ s.ops, o.hatch = h → o.kind.isClosing = true)

theorem seaOk_iff (s : State) : SeaOk s ↔ SeaIn .whole s := by
  have hbusy : ∀ o : Op, o.isBusy = true ↔ o.st = .queued ∨ o.st = .moving := fun o => by
    simp [Op.isBusy]
  constructor
  · rintro ⟨hsea, hrest⟩
    exact ⟨fun h => (hsea h).1, fun h => (hsea h).2.1,
      fun h o ho hb => (hsea h).2.2 o ho ((hbusy o).mp hb), hrest, fun _ h => nomatch h⟩
  · rintro ⟨he, hg, ho, hrest, -⟩
    exact ⟨fun h => ⟨he h, hg h, fun o hm hb => ho h o hm ((hbusy o).mpr hb)⟩, hrest⟩

/-- The operations stay, entries and grants may leave. -/
theorem SeaIn.of_sub {f g : Focus} {s t : State} (hs : SeaIn f s) (hmode : t.mode = s.mode)
    (hops : t.ops = s.ops) (hq : ∀ e ∈ t.queue, e ∈ s.queue) (hg : ∀ x ∈ t.granted, x ∈ s.granted)
    (hagain : ∀ h, g = .off h true → (s.mode = .sea ∨ s.mode = .harbour) ∧
      (s.mode = .sea → ∀ o ∈ s.ops, o.hatch = h → o.kind.isClosing = true)) : SeaIn g t where
  entries h e he := hs.entries (hmode ▸ h) e (hq e he)
  grants h x hx := hs.grants (hmode ▸ h) x (hg x hx)
  ops h := by rw [hops]; exact hs.ops (hmode ▸ h)
  rest h k := by
    obtain ⟨hqs, hgs⟩ := hs.rest (hmode ▸ h) (hmode ▸ k)
    rw [hqs] at hq
    rw [hgs] at hg
    exact ⟨List.eq_nil_iff_forall_not_mem.mpr fun e he => (nomatch hq e he),
      List.eq_nil_iff_forall_not_mem.mpr fun x hx => (nomatch hg x hx)⟩
  again h k := by rw [hmode, hops]; exact hagain h k

theorem SeaIn.still {f : Focus} {s t : State} (hs : SeaIn f s) (h : Still s t) : SeaIn f t where
  entries hm e he := by
    obtain ⟨x, hx, hxe⟩ := List.mem_map.mp (h.queue ▸ List.mem_map_of_mem (f := Entry.core) he)
    simp only [Entry.core, Prod.mk.injEq] at hxe
    obtain ⟨-, -, hc, -⟩ := hxe
    exact hc ▸ hs.entries (h.mode ▸ hm) x hx
  grants hm := by rw [h.granted]; exact hs.grants (h.mode ▸ hm)
  ops hm o ho hb := by
    obtain ⟨x, hx, hc⟩ := mem_ops_of_core h.ops.symm ho
    simp only [Op.core, Prod.mk.injEq] at hc
    obtain ⟨-, hst, hk, -⟩ := hc
    refine hk ▸ hs.ops (h.mode ▸ hm) x hx ?_
    rwa [Op.isBusy, hst]
  rest hm k := by
    obtain ⟨hq, hg⟩ := hs.rest (h.mode ▸ hm) (h.mode ▸ k)
    have hcores : t.queue.map Entry.core = [] := by rw [h.queue, hq, List.map_nil]
    exact ⟨List.map_eq_nil_iff.mp hcores, h.granted.trans hg⟩
  again k hk := by
    obtain ⟨hm, hc⟩ := hs.again k hk
    rw [h.mode]
    refine ⟨hm, fun hsea o ho hok => ?_⟩
    obtain ⟨x, hx, hxo⟩ := mem_ops_of_core h.ops.symm ho
    simp only [Op.core, Prod.mk.injEq] at hxo
    obtain ⟨hh, -, hkind, -⟩ := hxo
    exact hkind ▸ hc hsea x hx (hh.trans hok)

/-- An operation is changed. -/
theorem SeaIn.updOp {f g : Focus} {s : State} {h : Nat} {u : Op → Op} (hs : SeaIn f s)
    (hb : s.mode = .sea → ∀ o ∈ s.ops, o.hatch = h → (u o).isBusy = true →
      (u o).kind.isClosing = true)
    (hagain : ∀ k, g = .off k true → (s.mode = .sea ∨ s.mode = .harbour) ∧
      (s.mode = .sea → ∀ o ∈ (s.updOp h u).ops, o.hatch = k → o.kind.isClosing = true)) :
    SeaIn g (s.updOp h u) where
  entries := hs.entries
  grants := hs.grants
  ops hm o ho hbo := by
    obtain ⟨x, hx, rfl⟩ := mem_ops_updOp.mp ho
    split at hbo
    · next hk => rw [if_pos hk]; exact hb hm x hx hk hbo
    · next hk => rw [if_neg hk]; exact hs.ops hm x hx hbo
  rest := hs.rest
  again := hagain

theorem SeaIn.of_nodes {f : Focus} {s t : State} (hs : SeaIn f s)
    (h : t = { s with nodes := t.nodes, pumps := t.pumps }) : SeaIn f t := by
  rw [h]
  exact hs.of_sub rfl rfl (fun _ => id) (fun _ => id) hs.again

/-- What has an entry or a grant is under way in SEA or HARBOUR. -/
theorem SeaIn.mode_of_mem {f : Focus} {s : State} (hs : SeaIn f s)
    (h : s.queue ≠ [] ∨ s.granted ≠ []) : s.mode = .sea ∨ s.mode = .harbour := by
  by_contra hc
  obtain ⟨h1, h2⟩ := not_or.mp hc
  obtain ⟨hq, hg⟩ := hs.rest h1 h2
  exact h.elim (· hq) (· hg)

/-- The grant of a MOVING hatch leaves; its operation may be queued again. -/
theorem SeaIn.endMotion {s : State} {h : Nat} {o : Op} (hm : MotionIn .whole s) (hs : SeaIn .whole s)
    (ho : s.op? h = some o) (hmv : o.st = .moving) : SeaIn (.off h true) (s.endMotion o) := by
  refine hs.of_sub (onlyMotion_endMotion s o).mode (ops_endMotion s o)
    (fun e he => queue_endMotion s o ▸ he)
    (fun g hg => List.mem_of_mem_filter (granted_endMotion s o ▸ hg)) ?_
  rintro k hk
  obtain ⟨rfl, -⟩ := Focus.off.inj hk
  have hmem := (hm.states o (findKey_mem ho) id).2.mp hmv
  refine ⟨hs.mode_of_mem (.inr fun hnil => by simp [hnil] at hmem), fun hsea x hx hxk => ?_⟩
  obtain rfl := hm.op_eq ho hx hxk
  exact hs.ops hsea x hx (by simp [Op.isBusy, hmv])

/-- A hatch that is off joins the queue. -/
theorem SeaIn.join {s : State} {h : Nat} {o : Op} {e : Entry} (hs : SeaIn (.off h true) s)
    (ho : s.op? h = some o) (he : e.closing = o.kind.isClosing) :
    SeaIn .whole ((s.updOp h fun o => { o with st := .queued }).joinQueue e) := by
  obtain ⟨hmode, hclosing⟩ := hs.again h rfl
  have hupd : SeaIn .whole (s.updOp h fun o => { o with st := .queued }) :=
    hs.updOp (fun hsea o ho hk _ => hclosing hsea o ho hk) fun _ h => nomatch h
  refine ⟨fun hsea x hx => ?_, hupd.grants, hupd.ops, fun h1 h2 => (hmode.elim h1 h2).elim,
    fun _ h => nomatch h⟩
  rcases mem_insertEntry hx with rfl | hx
  · exact he ▸ hclosing hsea o (findKey_mem ho) (findKey_key ho)
  · exact hs.entries hsea x hx

/-- The entry of a hatch becomes its grant. -/
theorem SeaIn.grant {s : State} {e : Entry} {rest : List Entry} {g : Grant} {u : Op → Op}
    (hm : MotionIn .whole s) (hs : SeaIn .whole s) (hq : s.queue = e :: rest)
    (hg : g.closing = e.closing) (hu : ∀ o, (u o).kind = o.kind) :
    SeaIn .whole (State.updOp
      { s with queue := s.queue.filter fun x => x.hatch != e.hatch, granted := s.granted ++ [g] }
      e.hatch u) := by
  have hmem : e ∈ s.queue := hq ▸ List.mem_cons_self
  have hmode := hs.mode_of_mem (.inl (List.ne_nil_of_mem hmem))
  refine ⟨fun hsea x hx => hs.entries hsea x (List.mem_of_mem_filter hx), fun hsea x hx => ?_,
    fun hsea o ho hb => ?_, fun h1 h2 => (hmode.elim h1 h2).elim, fun _ h => nomatch h⟩
  · rcases List.mem_append.mp hx with hx | hx
    · exact hs.grants hsea x hx
    · rw [List.mem_singleton.mp hx, hg]
      exact hs.entries hsea e hmem
  · obtain ⟨y, hy, rfl⟩ := mem_ops_updOp.mp ho
    split at hb
    · next hk =>
      have hqueued := (hm.states y hy id).1.mpr (hk ▸ List.mem_map_of_mem hmem)
      rw [if_pos hk, hu]
      exact hs.ops hsea y hy (by simp [Op.isBusy, hqueued])
    · next hk => rw [if_neg hk]; exact hs.ops hsea y hy hb

/-- A shed puts a grant back into the queue. -/
theorem SeaIn.shed {s : State} {g : Grant} (hm : MotionIn .whole s) (hs : SeaIn .whole s)
    (hg : g ∈ s.granted) : SeaIn .whole (s.shedOne g) := by
  obtain ⟨hq', hg', ho', -⟩ := shedOne_lists s g
  have hmode' : (s.shedOne g).mode = s.mode := (onlyMotion_shedOne s g).mode
  have hmode := hs.mode_of_mem (.inr (List.ne_nil_of_mem hg))
  refine ⟨fun hsea x hx => ?_, fun hsea x hx => ?_, fun hsea o ho hb => ?_, fun h1 h2 => ?_,
    fun _ h => nomatch h⟩
  all_goals rw [hmode'] at *
  · rcases mem_insertEntry (hq' ▸ hx) with rfl | hx
    · exact hs.grants hsea g hg
    · exact hs.entries hsea x hx
  · exact hs.grants hsea x (List.mem_of_mem_filter (hg' ▸ hx))
  · obtain ⟨y, hy, rfl⟩ := mem_ops_updOp.mp (ho' ▸ ho)
    split at hb
    · next hk =>
      have hmoving := (hm.states y hy id).2.mpr (hk ▸ List.mem_map_of_mem hg)
      rw [if_pos hk]
      exact hs.ops hsea y hy (by simp [Op.isBusy, hmoving])
    · next hk => rw [if_neg hk]; exact hs.ops hsea y hy hb
  · exact (hmode.elim h1 h2).elim

/-- The law of the sea does not look at the budget. -/
theorem SeaIn.congr {f g : Focus} {s : State} (hs : SeaIn f s)
    (hfg : ∀ h, g = .off h true → f = .off h true) : SeaIn g s :=
  ⟨hs.entries, hs.grants, hs.ops, hs.rest, fun h k => hs.again h (hfg h k)⟩

theorem seaIn_move {f g : Focus} {s t : State} (hm : MotionIn f s) (hs : SeaIn f s)
    (h : Move f s g t) : SeaIn g t := by
  cases h with
  | still h => exact hs.still h
  | zero a k => exact hs.of_sub rfl rfl (fun _ => id) (fun _ => id) hs.again
  | @unqueue _ h o ho hq =>
    exact hs.of_sub (onlyMotion_dropEntry s h).mode (ops_dropEntry s h)
      (fun e he => List.mem_of_mem_filter (queue_dropEntry s h ▸ he))
      (fun g hg => granted_dropEntry s h ▸ hg) fun _ h => nomatch h
  | endMotion ho hmv => exact hs.endMotion hm ho hmv
  | rest _ _ => exact hs.congr fun _ h => nomatch h
  | @accept _ h o hr k d prog ho hb hp _ hmode hclosing =>
    refine hs.updOp (fun hsea x hx hk hbx => hclosing hsea) fun h' hh => ⟨hmode, fun hsea x hx hk => ?_⟩
    obtain ⟨rfl, -⟩ := Focus.off.inj hh
    obtain ⟨y, hy, rfl⟩ := mem_ops_updOp.mp hx
    split
    · exact hclosing hsea
    · next hne => rw [if_neg hne] at hk; exact absurd hk hne
  | settle f hf hst hp =>
    refine hs.updOp (fun hsea x hx hk hbx => ?_) fun _ h => nomatch h
    have hx' := hst x (hk ▸ findKey_of_mem hm.nodup hx)
    rw [hx'] at hbx
    cases hbx
  | @pass _ h b o p ho hp =>
    refine hs.updOp (fun hsea x hx hk hbx => hs.ops hsea x hx hbx) fun k hk => ?_
    obtain ⟨hmode, hclosing⟩ := hs.again k hk
    refine ⟨hmode, fun hsea x hx hxk => ?_⟩
    obtain ⟨y, hy, rfl⟩ := mem_ops_updOp.mp hx
    split at hxk
    · next hy' => rw [if_pos hy']; exact hclosing hsea y hy hxk
    · next hy' => rw [if_neg hy']; exact hclosing hsea y hy hxk
  | join ho _ _ hc => exact hs.join ho hc
  | @grant _ e rest hr d speed clamped g hq _ _ _ hg =>
    have hgrant := hs.grant hm hq (g := g) (by rw [hg])
      (u := fun o => { o with st := .moving, start := some s.now, watch := none }) fun _ => rfl
    refine hgrant.of_nodes ?_
    rw [openValves_eq]
  | grantNone hq hn => exact absurd hn (hm.hatch_of_entry (hq ▸ List.mem_cons_self))
  | write _ _ _ => exact hs.of_nodes (by rw [writeDriven_eq])
  | follow hg _ =>
    refine ⟨hs.entries, fun hsea x hx => ?_, hs.ops, fun h1 h2 => ?_, fun _ h => nomatch h⟩
    · obtain ⟨y, hy, -, -, hc⟩ := mem_updGrant_follow hg hx
      exact hc ▸ hs.grants hsea y hy
    · exact absurd (hs.rest h1 h2).2 (List.ne_nil_of_mem (findKey_mem hg))
  | startPump _ => exact hs.of_nodes (startPump_eq s)
  | newBudget b m =>
    exact keeps_newBudget (fun s g hs hm hg => hs.shed hm hg) hm
      (hs.of_sub rfl rfl (fun _ => id) (fun _ => id) hs.again)
  | toIdle _ => exact hs.congr fun _ h => nomatch h
  | stopTimer => exact hs.of_sub rfl rfl (fun _ => id) (fun _ => id) fun _ h => nomatch h
  | idleBudget b m => exact hs.of_sub rfl rfl (fun _ => id) (fun _ => id) fun _ h => nomatch h
  | fromIdle => exact hs.congr fun _ h => nomatch h
  | empty hb => rwa [emptyGrants_of_empty (hm.empty (hb ((motionOk_iff s).mpr hm)))]

theorem Goes.seaIn {f g : Focus} {s t : State} (h : Goes f s g t) (hm : MotionIn f s)
    (hs : SeaIn f s) : SeaIn g t :=
  h.keeps_with_motion (P := SeaIn) (fun _ _ _ _ => seaIn_move) hm hs

/-- Where nothing is QUEUED or MOVING the law of the sea holds in every mode. -/
theorem seaIn_of_idle {s : State} (hm : MotionIn .whole s) (hb : ∀ o ∈ s.ops, o.isBusy = false) :
    SeaIn .whole s := by
  obtain ⟨hq, hg⟩ := hm.empty hb
  refine ⟨fun _ => ?_, fun _ => ?_, fun _ o ho hbo => ?_, fun _ _ => ⟨hq, hg⟩, fun _ h => nomatch h⟩
  · simp [hq]
  · simp [hg]
  · rw [hb o ho] at hbo; cases hbo

/-- Outside SEA and HARBOUR nothing is QUEUED or MOVING. -/
theorem SeaIn.idle_of_mode {s : State} (hm : MotionIn .whole s) (hs : SeaIn .whole s)
    (h1 : s.mode ≠ .sea) (h2 : s.mode ≠ .harbour) : ∀ o ∈ s.ops, o.isBusy = false := by
  obtain ⟨hq, hg⟩ := hs.rest h1 h2
  intro o ho
  obtain ⟨hqu, hmv⟩ := hm.states o ho id
  rw [hq] at hqu
  rw [hg] at hmv
  exact (isBusy_eq_false_iff o).mpr ⟨fun h => (nomatch hqu.mp h), fun h => (nomatch hmv.mp h)⟩

theorem seaIn_event {s t : State} (hm : MotionIn .whole s) (hs : SeaIn .whole s) (h : Event s t) :
    SeaIn .whole t := by
  cases h with
  | moves h => exact h.seaIn hm hs
  | fresh h _ =>
    exact seaIn_of_idle h.motionIn fun o ho => (isBusy_eq_false_iff o).mpr (by simp [h.idle o ho])
  | mode m hmode =>
    have hm' : MotionIn .whole { s with mode := m } := hm.of_lists rfl rfl rfl rfl
    have hidle := hs.idle_of_mode hm
    rcases hmode with rfl | ⟨h1, h2⟩
    · exact ⟨fun h => (nomatch h), fun h => (nomatch h), fun h => (nomatch h), fun _ h => absurd rfl h,
        fun _ h => nomatch h⟩
    · exact seaIn_of_idle hm' (hidle h1 h2)
  | unlatch => exact hs.of_sub rfl rfl (fun _ => id) (fun _ => id) fun _ h => nomatch h
  | stop hl =>
    exact (moves_setLatch hl).seaIn (hm.of_lists rfl rfl rfl rfl)
      (hs.of_sub rfl rfl (fun _ => id) (fun _ => id) fun _ h => nomatch h)

theorem seaOk_step {s t : State} (hm : MotionOk s) (hs : SeaOk s) (h : step s = .next t) : SeaOk t :=
  (seaOk_iff t).mpr (step_keeps_with_motion (P := SeaIn .whole) (fun _ _ => seaIn_event)
    (fun _ _ hm _ hb => seaIn_of_idle (hm.of_lists rfl rfl rfl rfl) hb) hm ((seaOk_iff s).mp hs) h)

end Sys2Proof.Machine

/-! The law of the flow (R79, R86, R88, R97): the granted demands fit in the budget, the speed of a proportional
grant fits in its demand, the pump idle timer runs only where nothing is queued or granted, and the queue stands
in queue order. -/

namespace Sys2Proof.Machine

/-! ### Demand and speed (R77, R78, R88) -/

/-- A proportional grant holds the flow that its speed takes. -/
def Grant.Fits (g : Grant) : Prop := g.step.isProportional = true → g.speed * g.q ≤ g.demand * 100

theorem mul_le_demandAt (q p : Nat) : p * q ≤ demandAt q p * 100 := by
  have h := Nat.div_add_mod (q * p + 99) 100
  have hlt := Nat.mod_lt (q * p + 99) (by decide : 0 < 100)
  rw [mul_comm p q, demandAt]
  omega

theorem demandAt_le {q p d : Nat} (h : p * q ≤ d * 100) : demandAt q p ≤ d := by
  rw [demandAt, mul_comm q p]
  omega

/-- What an offer says of its speed. -/
theorem speed_le_of_offerOf {s : State} {h : Nat} {st : Step} {d speed : Nat} {clamped : Bool}
    (ho : s.offerOf h st = .fits d speed clamped) (hp : st.isProportional = true) :
    speed * s.qStep h st ≤ d * 100 := by
  unfold State.offerOf at ho
  split at ho
  · cases ho
  · dsimp only at ho
    split at ho
    · cases ho; exact mul_le_demandAt ..
    · split at ho
      · cases ho
      · cases ho
        exact Nat.div_mul_le_self ..

/-- The target at a new fraction. -/
theorem target_spec (g : Grant) (maxB p : Nat) : ∃ dc pc cl, g.target maxB p = (dc, pc, cl) ∧
    pc * g.q ≤ dc * 100 ∧ ∀ d v, v * g.q ≤ d * 100 → pc < v → dc ≤ d := by
  unfold Grant.target
  dsimp only
  split
  · exact ⟨_, _, _, rfl, mul_le_demandAt .., fun d v hv hlt =>
      demandAt_le (le_trans (Nat.mul_le_mul_right _ hlt.le) hv)⟩
  · next hgt =>
    refine ⟨_, _, _, rfl, Nat.div_mul_le_self .., fun d v hv hlt => ?_⟩
    have hq : 0 < g.q := by
      refine Nat.pos_of_ne_zero fun h0 => hgt ?_
      rw [h0, demandAt, Nat.zero_mul]
      exact Nat.zero_le _
    have := (Nat.div_lt_iff_lt_mul hq).mp hlt
    omega

/-- A grant at a new fraction fits, and takes no more than the free flow. -/
theorem follow_fits {g : Grant} (hp : g.step.isProportional = true) (hg : g.Fits) (maxB f p : Nat) :
    (g.follow maxB f p).Fits ∧ (g.follow maxB f p).demand ≤ g.demand + f := by
  obtain ⟨dc, pc, cl, htarget, hfit, hle⟩ := target_spec g maxB p
  unfold Grant.follow
  rw [htarget]
  dsimp only
  split
  · next h =>
    have hdc : dc ≤ g.demand := h.elim Nat.le_of_lt (hle g.demand g.speed (hg hp))
    exact ⟨fun _ => hfit, hdc.trans (Nat.le_add_right _ _)⟩
  · refine ⟨fun _ => ?_, min_le_right _ _⟩
    calc min pc (min dc (g.demand + f) * 100 / g.q) * g.q
        ≤ min dc (g.demand + f) * 100 / g.q * g.q := Nat.mul_le_mul_right _ (min_le_right _ _)
      _ ≤ min dc (g.demand + f) * 100 := Nat.div_mul_le_self ..

/-! ### The sum of the granted demands -/

theorem grantedSum_filter_le (p : Grant → Bool) (gs : List Grant) :
    grantedSum (gs.filter p) ≤ grantedSum gs :=
  (List.filter_sublist.map Grant.demand).sum_le_sum fun _ _ => Nat.zero_le _

theorem grantedSum_append (gs : List Grant) (g : Grant) :
    grantedSum (gs ++ [g]) = grantedSum gs + g.demand := by
  simp [grantedSum]

/-- The sum after the only grant of a hatch has changed its demand. -/
theorem grantedSum_update {gs : List Grant} {g g' : Grant} (hn : (gs.map Grant.hatch).Nodup)
    (hg : g ∈ gs) : grantedSum (updateKey Grant.hatch g.hatch (fun _ => g') gs) + g.demand =
      grantedSum gs + g'.demand := by
  induction gs with
  | nil => cases hg
  | cons x gs ih =>
    rw [List.map_cons, List.nodup_cons] at hn
    obtain ⟨hx, hn⟩ := hn
    have hcons : updateKey Grant.hatch g.hatch (fun _ => g') (x :: gs) =
        (if x.hatch = g.hatch then g' else x) :: updateKey Grant.hatch g.hatch (fun _ => g') gs := by
      simp [updateKey]
    rw [hcons]
    rcases List.mem_cons.mp hg with rfl | hg
    · have hrest : updateKey Grant.hatch g.hatch (fun _ => g') gs = gs := by
        rw [updateKey, List.map_congr_left fun y hy => by
          rw [if_neg (by
            simpa using fun e : y.hatch = g.hatch => hx (List.mem_map.mpr ⟨y, hy, e⟩))]]
        exact gs.map_id
      simp [grantedSum, hrest]
      omega
    · have hne : x.hatch ≠ g.hatch := fun e => hx (e ▸ List.mem_map_of_mem hg)
      have hih := ih hn hg
      simp only [grantedSum, List.map_cons, List.sum_cons, hne, if_false] at hih ⊢
      omega

/-! ### The law between moves -/

/-- What the law of the flow says beside the sum. -/
structure FlowRest (s : State) : Prop where
  fits : ∀ g ∈ s.granted, g.Fits
  timer : s.pumpIdle.isSome = true → s.queue = [] ∧ s.granted = []
  order : s.queue.Pairwise Entry.InOrder

/-- The law of the flow in a focus. -/
structure FlowIn (f : Focus) (s : State) : Prop extends FlowRest s where
  sum : grantedSum s.granted ≤ s.budget
  idle : f = .idle → s.granted = []

theorem flowOk_iff (s : State) : FlowOk s ↔ FlowIn .whole s :=
  ⟨fun ⟨hsum, hfits, htimer, horder⟩ => ⟨⟨hfits, htimer, horder⟩, hsum, nofun⟩,
    fun h => ⟨h.sum, h.fits, h.timer, h.order⟩⟩

theorem FlowIn.congr {f g : Focus} {s : State} (hs : FlowIn f s) (h : g ≠ .idle) : FlowIn g s :=
  ⟨hs.toFlowRest, hs.sum, fun e => (h e).elim⟩

theorem FlowIn.still {f : Focus} {s t : State} (hs : FlowIn f s) (h : Still s t) : FlowIn f t where
  fits := by rw [h.granted]; exact hs.fits
  timer ht := by
    obtain ⟨hq, hg⟩ := hs.timer (h.pumpIdle ▸ ht)
    have hcores : t.queue.map Entry.core = [] := by rw [h.queue, hq, List.map_nil]
    exact ⟨List.map_eq_nil_iff.mp hcores, h.granted.trans hg⟩
  order := by
    have hcore : ∀ q : List Entry, q.Pairwise Entry.InOrder ↔ (q.map Entry.core).Pairwise fun a b =>
        (a.2.2.1 = true ∧ b.2.2.1 = false) ∨ (a.2.2.1 = b.2.2.1 ∧
          (a.2.2.2 < b.2.2.2 ∨ (a.2.2.2 = b.2.2.2 ∧ a.1 ≤ b.1))) := fun q => by
      rw [List.pairwise_map]; rfl
    rw [hcore, h.queue, ← hcore]
    exact hs.order
  sum := by rw [h.granted, h.budget]; exact hs.sum
  idle hf := by rw [h.granted]; exact hs.idle hf

/-- The timer after entries or grants have left. -/
theorem pumpIdle_noteEmpty {s : State} (h : s.noteEmpty.pumpIdle.isSome = true) :
    s.pumpIdle.isSome = true ∨ s.queue = [] ∧ s.granted = [] := by
  unfold State.noteEmpty at h
  split at h
  · next he => exact .inr (by simpa using he)
  · exact .inl h

/-- Entries and grants leave. -/
theorem FlowIn.of_sub {f g : Focus} {s t : State} (hs : FlowIn f s) (hg : g ≠ .idle)
    (hb : t.budget = s.budget) (hq : t.queue.Sublist s.queue) (hgr : t.granted.Sublist s.granted)
    (ht : t.pumpIdle.isSome = true → s.pumpIdle.isSome = true ∨ t.queue = [] ∧ t.granted = []) :
    FlowIn g t where
  fits x hx := hs.fits x (hgr.subset hx)
  timer h := (ht h).elim (fun h => by
    obtain ⟨h1, h2⟩ := hs.timer h
    exact ⟨List.sublist_nil.mp (h1 ▸ hq), List.sublist_nil.mp (h2 ▸ hgr)⟩) id
  order := hs.order.sublist hq
  sum := by
    have hle : grantedSum t.granted ≤ grantedSum s.granted :=
      (hgr.map Grant.demand).sum_le_sum fun _ _ => Nat.zero_le _
    rw [hb]
    exact hle.trans hs.sum
  idle e := (hg e).elim

theorem FlowIn.dropEntry {f g : Focus} {s : State} (hs : FlowIn f s) (hg : g ≠ .idle) (h : Nat) :
    FlowIn g (s.dropEntry h) := by
  refine hs.of_sub hg ?_ (queue_dropEntry s h ▸ List.filter_sublist)
    (granted_dropEntry s h ▸ List.Sublist.refl _) fun ht => ?_
  · unfold State.dropEntry State.noteEmpty
    repeat' split
    all_goals rfl
  · unfold State.dropEntry at ht ⊢
    split at ht
    · next he =>
      rw [if_pos he, noteEmpty_queue, noteEmpty_granted]
      exact pumpIdle_noteEmpty ht
    · exact .inl ht

theorem FlowIn.dropGrant {f g : Focus} {s : State} (hs : FlowIn f s) (hg : g ≠ .idle) (h : Nat) :
    FlowIn g (s.dropGrant h) := by
  refine hs.of_sub hg ?_ (queue_dropGrant s h ▸ List.Sublist.refl _)
    (granted_dropGrant s h ▸ List.filter_sublist) fun ht => ?_
  · unfold State.dropGrant State.noteEmpty
    repeat' split
    all_goals rfl
  · unfold State.dropGrant at ht ⊢
    split at ht
    · next he =>
      rw [if_pos he, noteEmpty_queue, noteEmpty_granted]
      exact pumpIdle_noteEmpty ht
    · exact .inl ht

theorem FlowIn.of_nodes {f : Focus} {s t : State} (hs : FlowIn f s)
    (h : t = { s with nodes := t.nodes, pumps := t.pumps }) : FlowIn f t := by
  rw [h]
  exact ⟨⟨hs.fits, hs.timer, hs.order⟩, hs.sum, hs.idle⟩

theorem FlowIn.endMotion {f g : Focus} {s : State} (hs : FlowIn f s) (hg : g ≠ .idle) (o : Op) :
    FlowIn g (s.endMotion o) := by
  have hshut : FlowIn f (s.motionShut o) := hs.of_nodes (by rw [motionShut_eq])
  rw [endMotion_eq]
  exact (hshut.dropGrant hg o.hatch).still (still_classifierIdle ..)

/-- The entry of a hatch becomes its grant. -/
theorem FlowIn.grant {f : Focus} {s : State} {e : Entry} {rest : List Entry} {g : Grant} {u : Op → Op}
    (hs : FlowIn f s) (hf : f ≠ .idle) (hq : s.queue = e :: rest) (hg : g.Fits)
    (hd : g.demand ≤ s.freeFlow) :
    FlowIn f (State.updOp
      { s with queue := s.queue.filter fun x => x.hatch != e.hatch, granted := s.granted ++ [g] }
      e.hatch u) where
  fits x hx := (List.mem_append.mp hx).elim (hs.fits x) fun h => by
    rw [List.mem_singleton.mp h]; exact hg
  timer h := nomatch (hs.timer h).1.symm.trans hq
  order := hs.order.sublist List.filter_sublist
  sum := by
    have hsum := hs.sum
    rw [State.freeFlow] at hd
    rw [updOp_granted, updOp_budget, grantedSum_append]
    dsimp only
    omega
  idle e := (hf e).elim

/-- A grant follows a new fraction. -/
theorem FlowIn.follow {s : State} {h : Nat} {g : Grant} (hm : MotionIn .whole s)
    (hs : FlowIn .whole s) (hg : s.grant? h = some g) (hp : g.step.isProportional = true) (p : Nat) :
    FlowIn .whole (s.updGrant h fun _ => g.follow s.maxB s.freeFlow p) := by
  obtain rfl : g.hatch = h := findKey_key hg
  have hmem : g ∈ s.granted := findKey_mem hg
  obtain ⟨hfits, hle⟩ := follow_fits hp (hs.fits g hmem) s.maxB s.freeFlow p
  refine ⟨⟨fun x hx => ?_, fun ht => ?_, hs.order⟩, ?_, nofun⟩
  · obtain ⟨y, hy, rfl⟩ := mem_updateKey.mp hx
    split
    · exact hfits
    · exact hs.fits y hy
  · rw [(hs.timer ht).2] at hmem
    cases hmem
  · have hsum := grantedSum_update (g' := g.follow s.maxB s.freeFlow p) hm.granted hmem
    have hs' := hs.sum
    rw [State.freeFlow] at hle hsum
    rw [updGrant_granted, updGrant_budget, State.freeFlow]
    omega

/-! ### A new budget (R75, R86) -/

theorem shedOne_flow (s : State) (g : Grant) :
    (s.shedOne g).budget = s.budget ∧ (s.shedOne g).pumpIdle = s.pumpIdle := by
  constructor <;> rw [State.shedOne, State.takeShed, shutValves_eq] <;> rfl

theorem FlowRest.shed {s : State} (hs : FlowRest s) {g : Grant} (hg : g ∈ s.granted) :
    FlowRest (s.shedOne g) := by
  obtain ⟨hq', hg', -, -⟩ := shedOne_lists s g
  refine ⟨fun x hx => hs.fits x (List.mem_of_mem_filter (hg' ▸ hx)), fun ht => ?_,
    hq' ▸ pairwise_insertEntry _ hs.order⟩
  rw [(shedOne_flow s g).2] at ht
  rw [(hs.timer ht).2] at hg
  cases hg

/-- The sheds of every grant bring the sum within the budget. -/
theorem sum_shedLoop (gs : List Grant) {s : State} (hgs : ∀ g ∈ s.granted, g ∈ gs) :
    grantedSum (State.shedLoop gs s).granted ≤ (State.shedLoop gs s).budget := by
  induction gs generalizing s with
  | nil =>
    have hnil : s.granted = [] := List.eq_nil_iff_forall_not_mem.mpr fun g hg => nomatch hgs g hg
    simp [State.shedLoop, grantedSum, hnil]
  | cons g gs ih =>
    unfold State.shedLoop
    split
    · assumption
    · refine ih fun x hx => ?_
      rw [(shedOne_lists s g).2.1, List.mem_filter, bne_iff_ne] at hx
      obtain ⟨hx, hne⟩ := hx
      exact (List.mem_cons.mp (hgs x hx)).resolve_left fun h => hne (h ▸ rfl)

theorem FlowIn.newBudget {s : State} (hm : MotionIn .whole s) (hs : FlowIn .whole s) (b m : Nat) :
    FlowIn .whole (State.shedLoop s.granted.reverse { s with budget := b, maxB := m }) :=
  ⟨keeps_newBudget (fun _ _ hs _ hg => hs.shed hg) hm ⟨hs.fits, hs.timer, hs.order⟩,
    sum_shedLoop _ fun _ hg => List.mem_reverse.mpr hg, nofun⟩

/-! ### Every move and every event keeps the law -/

theorem flowIn_move {f g : Focus} {s t : State} (hm : MotionIn f s) (hs : FlowIn f s)
    (h : Move f s g t) : FlowIn g t := by
  cases h with
  | still h => exact hs.still h
  | zero a k => exact hs.of_nodes rfl
  | unqueue _ _ => exact hs.dropEntry (g := .off _ false) nofun _
  | endMotion _ _ => exact hs.endMotion (g := .off _ true) nofun _
  | rest _ _ => exact hs.congr nofun
  | accept _ _ _ _ _ _ => exact ⟨⟨hs.fits, hs.timer, hs.order⟩, hs.sum, nofun⟩
  | settle _ _ _ _ => exact ⟨⟨hs.fits, hs.timer, hs.order⟩, hs.sum, nofun⟩
  | pass _ _ => exact ⟨⟨hs.fits, hs.timer, hs.order⟩, hs.sum, nofun⟩
  | join _ _ _ _ => exact ⟨⟨hs.fits, nofun, pairwise_insertEntry _ hs.order⟩, hs.sum, nofun⟩
  | @grant _ e rest hr d speed clamped g hq _ ho hd hg =>
    subst hg
    refine (hs.grant (g := ⟨e.hatch, e.step, e.closing, e.time, s.qStep e.hatch e.step, d, speed, speed,
      clamped⟩) nofun hq (fun hp => speed_le_of_offerOf ho hp) hd
      (u := fun o => { o with st := .moving, start := some s.now, watch := none })).of_nodes ?_
    rw [openValves_eq]
  | grantNone hq hn => exact absurd hn (hm.hatch_of_entry (hq ▸ List.mem_cons_self))
  | write _ _ _ => exact hs.of_nodes (by rw [writeDriven_eq])
  | follow hg hp => exact hs.follow hm hg (hp ((motionOk_iff s).mpr hm)) _
  | startPump _ => exact hs.of_nodes (startPump_eq s)
  | newBudget b m => exact hs.newBudget hm b m
  | toIdle h => exact ⟨hs.toFlowRest, hs.sum, fun _ => h.elim (fun h => (hs.timer h).2) id⟩
  | stopTimer => exact ⟨⟨hs.fits, nofun, hs.order⟩, hs.sum, hs.idle⟩
  | idleBudget b m =>
    refine ⟨⟨hs.fits, hs.timer, hs.order⟩, ?_, hs.idle⟩
    simp [hs.idle rfl, grantedSum]
  | fromIdle => exact hs.congr nofun
  | empty hb => rwa [emptyGrants_of_empty (hm.empty (hb ((motionOk_iff s).mpr hm)))]

theorem Goes.flowIn {f g : Focus} {s t : State} (h : Goes f s g t) (hm : MotionIn f s)
    (hs : FlowIn f s) : FlowIn g t :=
  h.keeps_with_motion (P := FlowIn) (fun _ _ _ _ => flowIn_move) hm hs

theorem Fresh.flowIn {t : State} (h : Fresh t) : FlowIn .whole t := by
  refine ⟨⟨?_, fun _ => ⟨h.queue, h.granted⟩, ?_⟩, ?_, nofun⟩
  · simp [h.granted]
  · simp [h.queue]
  · simp [h.granted, grantedSum]

theorem flowIn_event {s t : State} (hm : MotionIn .whole s) (hs : FlowIn .whole s) (h : Event s t) :
    FlowIn .whole t := by
  cases h with
  | moves h => exact h.flowIn hm hs
  | fresh h _ => exact h.flowIn
  | mode m _ => exact ⟨⟨hs.fits, hs.timer, hs.order⟩, hs.sum, nofun⟩
  | unlatch => exact ⟨⟨hs.fits, hs.timer, hs.order⟩, hs.sum, nofun⟩
  | stop hl =>
    exact (moves_setLatch hl).flowIn (hm.of_lists rfl rfl rfl rfl)
      ⟨⟨hs.fits, hs.timer, hs.order⟩, hs.sum, nofun⟩

/-- Settles O57, by the law of the flow of every move. -/
theorem stepKeepsTheFlow : Obligations.StepKeepsTheFlow := by
  unfold Obligations.StepKeepsTheFlow
  rintro s t ⟨hm, hs⟩ h
  exact (flowOk_iff t).mpr (step_keeps_with_motion (P := FlowIn .whole) (fun _ _ => flowIn_event)
    (fun _ _ _ hs _ => ⟨⟨hs.fits, hs.timer, hs.order⟩, hs.sum, nofun⟩) hm ((flowOk_iff s).mp hs) h)

end Sys2Proof.Machine

/-! What the moves make of the valves (R53, R31): a valve is energised by the grant of a step that drives it, and
by nothing else. -/

namespace Sys2Proof.Machine

/-! ### Energised valves -/

/-- A valve output that is not at 0. -/
structure State.Energised (s : State) (p : Point) : Prop where
  mem : p ∈ s.points
  valve : p.isValve = true
  out : s.outAt p.node p.point ≠ 0

/-- No output is bound twice (R31). -/
def State.OutputsOnce (s : State) : Prop := (s.outputs.map fun p => (p.node, p.point)).Nodup

/-- The step of the grant drives the valve (R45). -/
def Grant.Drives (g : Grant) (p : Point) : Prop :=
  g.hatch = p.subject ∧ p.role = g.step.driven ∧ p.index ∈ g.step.valveIndexes

theorem isInput_of_isValve {p : Point} (h : p.isValve = true) : p.role.isInput = false := by
  simp only [Point.isValve, Bool.and_eq_true, Bool.not_eq_true'] at h
  exact h.2

theorem isHatch_of_isValve {p : Point} (h : p.isValve = true) : p.role.isHatch = true := by
  simp only [Point.isValve, Bool.and_eq_true] at h
  exact h.1

theorem mem_outputs {s : State} {p : Point} :
    p ∈ s.outputs ↔ p ∈ s.points ∧ p.role.isInput = false := by
  simp [State.outputs]

theorem outputsOnce_of_pointsOk {s : State} (h : PointsOk s) : s.OutputsOnce := by
  refine List.Nodup.of_map (fun x : Nat × Nat => (false, x)) ?_
  have hsub : ((s.outputs.map fun p => (p.node, p.point)).map fun x => (false, x)) =
      s.outputs.map fun p => (p.role.isInput, p.node, p.point) := by
    rw [List.map_map]
    exact List.map_congr_left fun p hp => by simp [(mem_outputs.mp hp).2]
  rw [hsub]
  exact h.1.sublist (List.filter_sublist.map _)

theorem State.OutputsOnce.of_core {s t : State} (h : s.OutputsOnce)
    (hc : t.outputs.map Point.core = s.outputs.map Point.core) : t.OutputsOnce := by
  have hplaces : (t.outputs.map fun p => (p.node, p.point)) = s.outputs.map fun p => (p.node, p.point) := by
    simpa [List.map_map, Function.comp_def, Point.core] using
      congrArg (List.map fun c : Role × Nat × Nat × Nat × Nat => c.2.2.2) hc
  rw [State.OutputsOnce, hplaces]
  exact h

theorem State.OutputsOnce.eq {s : State} (h : s.OutputsOnce) {p q : Point} (hp : p ∈ s.outputs)
    (hq : q ∈ s.outputs) (hn : p.node = q.node) (hk : p.point = q.point) : p = q :=
  List.inj_on_of_nodup_map h hp hq (by rw [hn, hk])

theorem energised_of_still {s t : State} (h : Still s t) {p : Point} (hp : t.Energised p) :
    ∃ q, s.Energised q ∧ q.core = p.core := by
  have hmem : p ∈ t.outputs := mem_outputs.mpr ⟨hp.mem, isInput_of_isValve hp.valve⟩
  obtain ⟨q, hq, hqp⟩ := List.mem_map.mp (h.outputs ▸ List.mem_map_of_mem (f := Point.core) hmem)
  have hcore := hqp
  simp only [Point.core, Prod.mk.injEq] at hcore
  obtain ⟨hr, -, -, hn, hk⟩ := hcore
  refine ⟨q, ⟨(mem_outputs.mp hq).1, ?_, ?_⟩, hqp⟩
  · have hv := hp.valve
    rwa [Point.isValve, ← hr] at hv
  · rw [hn, hk, ← h.outs]
    exact hp.out

/-! ### Changes that energise nothing -/

/-- The points stay and no output at 0 leaves it. -/
structure Lowers (s t : State) : Prop where
  points : t.points = s.points
  outs : ∀ a k, s.outAt a k = 0 → t.outAt a k = 0

theorem Lowers.trans {s t u : State} (h : Lowers s t) (k : Lowers t u) : Lowers s u :=
  ⟨k.points.trans h.points, fun a i h0 => k.outs a i (h.outs a i h0)⟩

theorem Lowers.of_nodes {s t : State} (hn : t.nodes = s.nodes := by rfl)
    (hp : t.points = s.points := by rfl) : Lowers s t :=
  ⟨hp, fun a k h0 => (outAt_of_nodes hn a k).trans h0⟩

theorem Lowers.energised {s t : State} (h : Lowers s t) {p : Point} (hp : t.Energised p) :
    s.Energised p :=
  ⟨h.points ▸ hp.mem, hp.valve, fun h0 => hp.out (h.outs _ _ h0)⟩

theorem lowers_setOut (s : State) (a k : Nat) : Lowers s (s.setOut a k 0) := by
  refine ⟨rfl, fun b j h0 => ?_⟩
  by_cases e : b = a ∧ j = k
  · obtain ⟨rfl, rfl⟩ := e; exact outAt_setOut_zero s _ _
  · rw [outAt_setOut_ne s 0 e]; exact h0

theorem lowers_zeroRole (s : State) (r : Role) (h : Nat) (is : List Nat) :
    Lowers s (s.zeroRole r h is) :=
  ⟨points_zeroRole s r h is, fun _ _ h0 => outAt_zeroRole_zero s r h is h0⟩

theorem lowers_shutValves (s : State) (h : Nat) (st : Step) : Lowers s (s.shutValves h st) :=
  (lowers_zeroRole s st.driven h _).trans (lowers_zeroRole _ st.opposed h _)

theorem lowers_noteEmpty (s : State) : Lowers s s.noteEmpty := by
  unfold State.noteEmpty
  split <;> exact .of_nodes

theorem lowers_dropEntry (s : State) (h : Nat) : Lowers s (s.dropEntry h) := by
  unfold State.dropEntry
  split
  · exact Lowers.trans .of_nodes (lowers_noteEmpty _)
  · exact .of_nodes

theorem lowers_dropGrant (s : State) (h : Nat) : Lowers s (s.dropGrant h) := by
  unfold State.dropGrant
  split
  · exact Lowers.trans .of_nodes (lowers_noteEmpty _)
  · exact .of_nodes

theorem lowers_motionShut (s : State) (o : Op) : Lowers s (s.motionShut o) := by
  unfold State.motionShut
  split
  · exact lowers_shutValves ..
  · exact .of_nodes

theorem lowers_endMotion (s : State) (o : Op) : Lowers s (s.endMotion o) :=
  ((lowers_motionShut s o).trans (lowers_dropGrant ..)).trans .of_nodes

theorem lowers_shedOne (s : State) (g : Grant) : Lowers s (s.shedOne g) := by
  unfold State.shedOne State.takeShed
  exact Lowers.trans (Lowers.trans .of_nodes (lowers_shutValves
    { s with granted := s.granted.filter fun x => x.hatch != g.hatch
             queue := insertEntry g.back s.queue } g.hatch g.step)) .of_nodes

theorem lowers_shedLoop (gs : List Grant) (s : State) : Lowers s (State.shedLoop gs s) := by
  induction gs generalizing s with
  | nil => exact .of_nodes
  | cons g gs ih =>
    unfold State.shedLoop
    split
    · exact .of_nodes
    · exact (lowers_shedOne s g).trans (ih _)

theorem lowers_emptyGrants (s : State) : Lowers s s.emptyGrants := by
  unfold State.emptyGrants
  split <;> exact .of_nodes

/-! ### Writes to the valves of a step -/

theorem driven_isInput (st : Step) : st.driven.isInput = false := by
  cases st <;> rfl

theorem point?_spec {s : State} {r : Role} {h i : Nat} {p : Point} (hp : s.point? r h i = some p) :
    p ∈ s.points ∧ p.role = r ∧ p.subject = h ∧ p.index = i := by
  refine ⟨List.mem_of_find?_eq_some hp, ?_⟩
  simpa [and_assoc] using List.find?_some hp

/-- Writes to the valves of one role change no output but those it is bound to. -/
theorem outAt_writes_other (r : Role) (h : Nat) (v : Nat → Nat) (is : List Nat) {s : State} {a k : Nat}
    (hn : ∀ i ∈ is, ∀ p, s.point? r h i = some p → ¬(a = p.node ∧ k = p.point)) :
    (is.foldl (fun x i => x.drive r h i (v i)) s).outAt a k = s.outAt a k := by
  induction is generalizing s with
  | nil => rfl
  | cons j is ih =>
    refine (ih fun i hi p e => ?_).trans
      (outAt_drive_other s r h j (v j) (hn j List.mem_cons_self))
    refine hn i (List.mem_cons_of_mem _ hi) p (Eq.trans ?_ e)
    rw [State.point?, State.point?, points_drive]

theorem points_writeDriven (s : State) (hr : Hatch) (st : Step) (v : Nat) :
    (s.writeDriven hr st v).points = s.points := by
  rw [writeDriven_eq]

/-- What a write to the valves of a step energises, it drives. -/
theorem energised_writeDriven {s : State} (ho : s.OutputsOnce) {hr : Hatch} {st : Step} {v : Nat}
    {p : Point} (hp : (s.writeDriven hr st v).Energised p) :
    s.Energised p ∨ hr.num = p.subject ∧ p.role = st.driven ∧ p.index ∈ st.valveIndexes := by
  have hmem : p ∈ s.points := points_writeDriven s hr st v ▸ hp.mem
  by_cases hd : ∃ i ∈ st.valveIndexes, ∃ q, s.point? st.driven hr.num i = some q ∧
      p.node = q.node ∧ p.point = q.point
  · obtain ⟨i, hi, q, hq, hn, hk⟩ := hd
    obtain ⟨hqm, hqr, hqs, hqi⟩ := point?_spec hq
    obtain rfl : p = q := ho.eq (mem_outputs.mpr ⟨hmem, isInput_of_isValve hp.valve⟩)
      (mem_outputs.mpr ⟨hqm, hqr ▸ driven_isInput st⟩) hn hk
    exact .inr ⟨hqs.symm, hqr, hqi.symm ▸ hi⟩
  · refine .inl ⟨hmem, hp.valve, fun h0 => hp.out ?_⟩
    rw [State.writeDriven, outAt_writes_other, h0]
    exact fun i hi q hq e => hd ⟨i, hi, q, hq, e⟩

theorem energised_openValves {s : State} (ho : s.OutputsOnce) {hr : Hatch} {st : Step} {v : Nat}
    {p : Point} (hp : (s.openValves hr st v).Energised p) :
    s.Energised p ∨ hr.num = p.subject ∧ p.role = st.driven ∧ p.index ∈ st.valveIndexes := by
  have hz := lowers_zeroRole s st.opposed hr.num st.valveIndexes
  have ho' : (s.zeroRole st.opposed hr.num st.valveIndexes).OutputsOnce :=
    ho.of_core (by rw [State.outputs, hz.points, State.outputs])
  exact (energised_writeDriven ho' hp).imp_left hz.energised

/-- A start of a pump energises no valve. -/
theorem energised_startPump {s : State} (ho : s.OutputsOnce) {p : Point}
    (hp : s.startPump.Energised p) : s.Energised p := by
  have hpts : s.startPump.points = s.points := by rw [startPump_eq]
  have hmem : p ∈ s.points := hpts ▸ hp.mem
  refine ⟨hmem, hp.valve, fun h0 => hp.out ?_⟩
  unfold State.startPump
  split
  · exact h0
  · split
    · exact h0
    · next x _ =>
      dsimp only
      unfold State.drivePump
      split
      · next q hq =>
        have hqm : q ∈ s.points := List.mem_of_find?_eq_some hq
        have hqr : q.role = .pumpRun := by
          have := List.find?_some hq
          simp only [Bool.and_eq_true, beq_iff_eq] at this
          exact this.1
        rw [outAt_setOut_ne]
        · exact h0
        · rintro ⟨hn, hk⟩
          obtain rfl := ho.eq (mem_outputs.mpr ⟨hmem, isInput_of_isValve hp.valve⟩)
            (mem_outputs.mpr ⟨hqm, by rw [hqr]; rfl⟩) hn hk
          have := isHatch_of_isValve hp.valve
          rw [hqr] at this
          cases this
      · exact h0

/-! ### The moves -/

/-- The step that a write is for is the granted one. -/
theorem step_of_write {s : State} {h : Nat} {g : Grant} {st : Step} (hm : MotionIn .whole s)
    (hs : StepsOk s) (hg : s.grant? h = some g)
    (hst : st = g.step ∨ ∃ o, s.op? h = some o ∧ o.step? = some st) : st = g.step := by
  rcases hst with rfl | ⟨o, ho, hstep⟩
  · rfl
  · obtain ⟨-, hgr, -⟩ := hs
    obtain ⟨x, hx, hxh, hxp, -⟩ := hgr g (findKey_mem hg)
    obtain rfl := hm.op_eq ho hx (hxh.trans (findKey_key (key := Grant.hatch) hg))
    exact Option.some.inj (hstep.symm.trans hxp)

/-- A valve that a move leaves energised was energised before it, or a granted step drives it. -/
theorem energised_move {f g : Focus} {s t : State} (hm : MotionIn f s) (h : Move f s g t) {p : Point}
    (hp : t.Energised p) : (∃ q, s.Energised q ∧ q.core = p.core) ∨
      (t.queue ≠ [] ∨ t.granted ≠ []) ∧
        (s.OutputsOnce → StepsOk s → s.Energised p ∨ ∃ g ∈ t.granted, g.Drives p) := by
  have lower : Lowers s t → (∃ q, s.Energised q ∧ q.core = p.core) := fun hl => ⟨p, hl.energised hp, rfl⟩
  cases h with
  | still h => exact .inl (energised_of_still h hp)
  | zero a k => exact .inl (lower (lowers_setOut ..))
  | unqueue _ _ => exact .inl (lower (lowers_dropEntry ..))
  | endMotion _ _ => exact .inl (lower (lowers_endMotion ..))
  | rest _ _ => exact .inl (lower .of_nodes)
  | accept _ _ _ _ _ _ => exact .inl (lower .of_nodes)
  | settle _ _ _ _ => exact .inl (lower .of_nodes)
  | pass _ _ => exact .inl (lower .of_nodes)
  | join _ _ _ _ => exact .inl (lower .of_nodes)
  | @grant _ e rest hr d speed clamped g hq hh _ _ hg =>
    have hgr : g ∈ (State.openValves (State.updOp
        { s with queue := s.queue.filter fun x => x.hatch != e.hatch, granted := s.granted ++ [g] }
        e.hatch fun o => { o with st := .moving, start := some s.now, watch := none })
        hr e.step speed).granted := by
      rw [openValves_eq]
      exact List.mem_append_right _ (List.mem_singleton_self g)
    refine .inr ⟨.inr (List.ne_nil_of_mem hgr), fun ho _ => ?_⟩
    refine (energised_openValves (by exact ho) hp).imp (fun he => ⟨he.mem, he.valve, he.out⟩) fun hd =>
      ⟨g, hgr, ?_⟩
    rw [findKey_key (key := Hatch.num) hh] at hd
    subst hg
    exact hd
  | grantNone hq hn => exact absurd hn (hm.hatch_of_entry (hq ▸ List.mem_cons_self))
  | @write _ h g hr st v hg hh hst =>
    have hgr : g ∈ (s.writeDriven hr st v).granted := by
      rw [writeDriven_eq]
      exact findKey_mem hg
    refine .inr ⟨.inr (List.ne_nil_of_mem hgr), fun ho hs => ?_⟩
    refine (energised_writeDriven ho hp).imp_right fun hd => ⟨g, hgr, ?_⟩
    rw [step_of_write hm hs hg hst, findKey_key (key := Hatch.num) hh,
      ← findKey_key (key := Grant.hatch) hg] at hd
    exact hd
  | follow _ _ => exact .inl (lower .of_nodes)
  | startPump hq =>
    refine .inr ⟨.inl ?_, fun ho _ => .inl (energised_startPump ho hp)⟩
    rw [startPump_eq]
    exact hq
  | newBudget b m => exact .inl (lower (Lowers.trans .of_nodes (lowers_shedLoop ..)))
  | toIdle _ => exact .inl (lower .of_nodes)
  | stopTimer => exact .inl (lower .of_nodes)
  | idleBudget b m => exact .inl (lower .of_nodes)
  | fromIdle => exact .inl (lower .of_nodes)
  | empty hb => exact .inl (lower (lowers_emptyGrants s))

/-- Every move but a still one keeps the point map. -/
theorem points_move {f g : Focus} {s t : State} (h : Move f s g t) : Still s t ∨ t.points = s.points := by
  cases h with
  | still h => exact .inl h
  | unqueue _ _ => exact .inr (lowers_dropEntry ..).points
  | endMotion _ _ => exact .inr (lowers_endMotion ..).points
  | grant _ _ _ _ _ => exact .inr (by rw [openValves_eq]; rfl)
  | write _ _ _ => exact .inr (points_writeDriven ..)
  | startPump _ => exact .inr (by rw [startPump_eq])
  | newBudget b m => exact .inr (lowers_shedLoop ..).points
  | empty _ => exact .inr (lowers_emptyGrants s).points
  | _ => exact .inr rfl

theorem outputsOnce_move {f g : Focus} {s t : State} (ho : s.OutputsOnce) (h : Move f s g t) :
    t.OutputsOnce :=
  ho.of_core ((points_move h).elim (·.outputs) fun h => by rw [State.outputs, h, State.outputs])

theorem pointsOk_move {f g : Focus} {s t : State} (ho : PointsOk s) (h : Move f s g t) : PointsOk t :=
  (points_move h).elim (·.points ho) fun h => by rw [PointsOk, h]; exact ho

theorem Goes.pointsOk {f g : Focus} {s t : State} (h : Goes f s g t) (hs : PointsOk s) : PointsOk t :=
  h.keeps (P := fun _ x => PointsOk x) (fun _ _ _ _ => pointsOk_move) hs

theorem pointsOk_event {s t : State} (hs : PointsOk s) (h : Event s t) : PointsOk t := by
  cases h with
  | moves h => exact h.pointsOk hs
  | fresh h _ => exact h.points
  | mode m _ => exact hs
  | unlatch => exact hs
  | stop hl => exact (moves_setLatch hl).pointsOk hs

theorem pointsOk_step {s t : State} (hs : PointsOk s) (h : step s = .next t) : PointsOk t :=
  (turns_step h).keeps (P := PointsOk) (fun _ _ => pointsOk_event) (fun _ _ hs _ => hs) hs

end Sys2Proof.Machine

/-! The law of the emergency stop (R53), the laws of the valves (R53, R31), and the release valves in SEA
(R132). -/

namespace Sys2Proof.Machine

/-! ### The stop (R53, R141) -/

/-- The law of the stop in a focus: a hatch whose operation may be queued again is off only while the latch is
clear. -/
structure StopIn (f : Focus) (s : State) : Prop where
  stopped : s.latch = true → s.queue = [] ∧ s.granted = [] ∧ ∀ p, ¬s.Energised p
  again : ∀ h, f = .off h true → s.latch = false

theorem stopOk_iff (s : State) : StopOk s ↔ StopIn .whole s := by
  constructor
  · intro h
    refine ⟨fun hl => ?_, fun _ h => nomatch h⟩
    obtain ⟨hq, hg, hv⟩ := h hl
    exact ⟨hq, hg, fun p hp => hp.out (hv p hp.mem hp.valve)⟩
  · intro h hl
    obtain ⟨hq, hg, hv⟩ := h.stopped hl
    exact ⟨hq, hg, fun p hp hpv => by_contra fun h0 => hv p ⟨hp, hpv, h0⟩⟩

theorem stopIn_of_clear {f : Focus} {s : State} (h : s.latch = false) : StopIn f s :=
  ⟨fun hl => (by rw [h] at hl; cases hl), fun _ _ => h⟩

/-- While the latch is set no move queues or grants anything. -/
theorem stopIn_move {f g : Focus} {s t : State} (hm : MotionIn f s) (hs : StopIn f s)
    (h : Move f s g t) : StopIn g t := by
  have clear : t.latch = s.latch → s.queue ≠ [] ∨ s.granted ≠ [] → StopIn g t := fun ht hne => by
    refine stopIn_of_clear (ht.trans (by_contra fun hl => ?_))
    obtain ⟨hq, hg, -⟩ := hs.stopped (by simpa using hl)
    exact hne.elim (· hq) (· hg)
  have keep : t.latch = s.latch → (s.queue = [] → s.granted = [] → t.queue = [] ∧ t.granted = []) →
      (∀ k, g = .off k true → s.latch = false) → StopIn g t := fun ht hlists hagain => by
    refine ⟨fun hl => ?_, fun k hk => ht.trans (hagain k hk)⟩
    obtain ⟨hq, hg, hv⟩ := hs.stopped (ht ▸ hl)
    obtain ⟨hqt, hgt⟩ := hlists hq hg
    refine ⟨hqt, hgt, fun p hp => ?_⟩
    rcases energised_move hm h hp with ⟨q, hqe, -⟩ | ⟨hne, -⟩
    · exact hv q hqe
    · exact hne.elim (· hqt) (· hgt)
  have offClear : ∀ {k}, StopIn (.off k true) s → s.latch = false := fun h => h.again _ rfl
  cases h with
  | still h =>
    refine keep h.latch (fun hq hg => ⟨?_, h.granted.trans hg⟩) hs.again
    have hcores : t.queue.map Entry.core = [] := by rw [h.queue, hq, List.map_nil]
    exact List.map_eq_nil_iff.mp hcores
  | zero a k => exact keep rfl (fun hq hg => ⟨hq, hg⟩) hs.again
  | @unqueue _ h o ho hq =>
    refine clear (onlyMotion_dropEntry s h).latch (.inl fun hnil => ?_)
    have hmem := (hm.states o (findKey_mem ho) id).1.mp hq
    simp [hnil] at hmem
  | @endMotion _ h o ho hmv =>
    refine clear (onlyMotion_endMotion s o).latch (.inr fun hnil => ?_)
    have hmem := (hm.states o (findKey_mem ho) id).2.mp hmv
    simp [hnil] at hmem
  | rest _ _ => exact keep rfl (fun hq hg => ⟨hq, hg⟩) fun _ h => nomatch h
  | accept _ _ _ hl _ _ => exact stopIn_of_clear hl
  | settle _ _ _ _ => exact keep rfl (fun hq hg => ⟨hq, hg⟩) fun _ h => nomatch h
  | pass _ _ => exact keep rfl (fun hq hg => ⟨hq, hg⟩) hs.again
  | join _ _ _ _ => exact stopIn_of_clear (offClear hs)
  | grant hq _ _ _ _ =>
    refine clear ?_ (.inl (hq ▸ List.cons_ne_nil _ _))
    rw [openValves_eq]; rfl
  | grantNone hq _ => exact clear rfl (.inl (hq ▸ List.cons_ne_nil _ _))
  | write hg _ _ =>
    refine clear ?_ (.inr (List.ne_nil_of_mem (findKey_mem hg)))
    rw [writeDriven_eq]
  | follow hg _ => exact clear rfl (.inr (List.ne_nil_of_mem (findKey_mem hg)))
  | startPump hq =>
    refine clear ?_ (.inl hq)
    rw [startPump_eq]
  | newBudget b m =>
    by_cases hg : s.granted = []
    · exact keep (onlyMotion_shedLoop ..).latch (fun hq _ => by simp [hg, State.shedLoop, hq])
        fun _ h => nomatch h
    · exact clear (onlyMotion_shedLoop ..).latch (.inr hg)
  | toIdle _ => exact keep rfl (fun hq hg => ⟨hq, hg⟩) fun _ h => nomatch h
  | stopTimer => exact keep rfl (fun hq hg => ⟨hq, hg⟩) fun _ h => nomatch h
  | idleBudget b m => exact keep rfl (fun hq hg => ⟨hq, hg⟩) fun _ h => nomatch h
  | fromIdle => exact keep rfl (fun hq hg => ⟨hq, hg⟩) fun _ h => nomatch h
  | empty hb =>
    rw [emptyGrants_of_empty (hm.empty (hb ((motionOk_iff s).mpr hm)))]
    exact hs

theorem Goes.stopIn {f g : Focus} {s t : State} (h : Goes f s g t) (hm : MotionIn f s)
    (hs : StopIn f s) : StopIn g t :=
  h.keeps_with_motion (P := StopIn) (fun _ _ _ _ => stopIn_move) hm hs

/-- After every valve is written with 0 none is energised. -/
theorem not_energised_shutAllValves (s : State) (p : Point) : ¬s.shutAllValves.Energised p := by
  have low : ∀ (l : List Point) (x : State),
      Lowers x (l.foldl (fun x p => x.setOut p.node p.point 0) x) := fun l => by
    induction l with
    | nil => exact fun x => .of_nodes
    | cons q l ih => exact fun x => (lowers_setOut x q.node q.point).trans (ih _)
  have zero : ∀ (l : List Point) (x : State), p ∈ l →
      (l.foldl (fun x p => x.setOut p.node p.point 0) x).outAt p.node p.point = 0 := fun l => by
    induction l with
    | nil => exact fun _ h => nomatch h
    | cons q l ih =>
      intro x hp
      rcases List.mem_cons.mp hp with rfl | hp
      · exact (low l _).outs _ _ (outAt_setOut_zero ..)
      · exact ih _ hp
  intro hp
  refine hp.out (zero _ s ?_)
  exact List.mem_filter.mpr ⟨(low _ s).points ▸ hp.mem, hp.valve⟩

/-- The latch, once set, has emptied everything and shut every valve. -/
theorem stopIn_setLatch {s : State} (hm : MotionIn .whole s) (hl : s.latch = false) :
    StopIn .whole s.setLatch := by
  have hraise : Moves { s with latch := true } (State.raiseAlarm { s with latch := true } .estopActive .part) :=
    (still_raiseAlarm ..).moves
  have habort := (hraise.trans (moves_abortAll _)).motionIn (hm.of_lists rfl rfl rfl rfl)
  obtain ⟨hq, hg⟩ := emptyGrants_eq_empty (State.raiseAlarm { s with latch := true } .estopActive .part).abortAll
  have hidle : ((State.raiseAlarm { s with latch := true } .estopActive .part).abortAll).emptyGrants =
      (State.raiseAlarm { s with latch := true } .estopActive .part).abortAll :=
    emptyGrants_of_empty (habort.empty (isBusy_abortAll ((motionOk_iff _).mpr habort)))
  have hstop : StopIn .idle
      ((State.raiseAlarm { s with latch := true } .estopActive .part).abortAll).emptyGrants := by
    refine ⟨fun _ => ⟨hq, hg, fun p hp => ?_⟩, fun _ h => nomatch h⟩
    exact not_energised_shutAllValves _ p ((lowers_emptyGrants _).energised hp)
  unfold State.setLatch
  rw [if_neg (by simp [hl])]
  refine (goes_stopPumps _).stopIn ?_ hstop
  rw [hidle]
  exact habort.congr rfl

theorem stopIn_event {s t : State} (hm : MotionIn .whole s) (hs : StopIn .whole s) (h : Event s t) :
    StopIn .whole t := by
  cases h with
  | moves h => exact h.stopIn hm hs
  | fresh h _ =>
    exact ⟨fun _ => ⟨h.queue, h.granted, fun p hp => hp.out (h.outs ..)⟩, fun _ h => nomatch h⟩
  | mode m _ =>
    refine ⟨fun hl => ?_, fun _ h => nomatch h⟩
    obtain ⟨hq, hg, hv⟩ := hs.stopped hl
    exact ⟨hq, hg, fun p hp => hv p ⟨hp.mem, hp.valve, hp.out⟩⟩
  | unlatch => exact stopIn_of_clear rfl
  | stop hl => exact stopIn_setLatch hm hl

theorem stopOk_step {s t : State} (hm : MotionOk s) (hs : StopOk s) (h : step s = .next t) :
    StopOk t := by
  refine (stopOk_iff t).mpr (step_keeps_with_motion (P := StopIn .whole) (fun _ _ => stopIn_event)
    (fun s m _ hs _ => ?_) hm ((stopOk_iff s).mp hs) h)
  refine ⟨fun hl => ?_, fun _ h => nomatch h⟩
  obtain ⟨hq, hg, hv⟩ := hs.stopped hl
  exact ⟨hq, hg, fun p hp => hv p ⟨hp.mem, hp.valve, hp.out⟩⟩

/-! ### The valves (R53, R31) -/

/-- A valve is energised only while a granted step drives it. -/
def State.Driven (s : State) : Prop := ∀ p, s.Energised p → ∃ g ∈ s.granted, g.Drives p

theorem point?_of_mem {s : State} (hs : PointsOk s) {p : Point} (hp : p ∈ s.points) :
    s.point? p.role p.subject p.index = some p := by
  have hany : (s.point? p.role p.subject p.index).isSome = true := by
    rw [State.point?, List.find?_isSome]
    exact ⟨p, hp, by simp⟩
  obtain ⟨q, hq⟩ := Option.isSome_iff_exists.mp hany
  obtain ⟨hqm, hqr, hqs, hqi⟩ := point?_spec hq
  rw [hq, List.inj_on_of_nodup_map hs.2 hqm hp (by simp [hqr, hqs, hqi])]

/-- Once the valves of a step are shut the step drives no energised valve. -/
theorem not_drives_of_shut {s t : State} (hs : PointsOk s) {g : Grant}
    (hl : Lowers (s.shutValves g.hatch g.step) t) {p : Point} (hp : t.Energised p) : ¬g.Drives p := by
  rintro ⟨hh, hr, hi⟩
  have hshut := hl.energised hp
  have hmem : p ∈ s.points := (lowers_shutValves ..).points ▸ hshut.mem
  have hpt : s.point? g.step.driven g.hatch p.index = some p := hr ▸ hh ▸ point?_of_mem hs hmem
  refine hshut.out ((lowers_zeroRole ..).outs _ _ ?_)
  exact outAt_zeroRole_bound s g.step.driven g.hatch g.step.valveIndexes hi hpt

/-- The valves of the other grants are driven as before. -/
theorem driven_of_filter {s t : State} (hd : s.Driven) {h : Nat} (hg : t.granted = s.granted.filter fun x => x.hatch != h) (hl : Lowers s t)
    (hshut : ∀ g ∈ s.granted, g.hatch = h → ∀ p, t.Energised p → ¬g.Drives p) : t.Driven := by
  intro p hp
  obtain ⟨g, hgm, hgp⟩ := hd p (hl.energised hp)
  refine ⟨g, hg ▸ List.mem_filter.mpr ⟨hgm, ?_⟩, hgp⟩
  rw [bne_iff_ne]
  exact fun he => hshut g hgm he p hp hgp

theorem driven_shedOne {s : State} (hm : MotionIn .whole s) (hp : PointsOk s) (hd : s.Driven)
    {g : Grant} (hg : g ∈ s.granted) : (s.shedOne g).Driven := by
  refine driven_of_filter hd (shedOne_lists s g).2.1 (lowers_shedOne s g)
    fun x hx hxg p hpe => ?_
  obtain rfl : x = g := List.inj_on_of_nodup_map hm.granted hx hg hxg
  have hlists : PointsOk { s with
    granted := s.granted.filter fun y => y.hatch != x.hatch
    queue := insertEntry x.back s.queue } := hp
  exact not_drives_of_shut hlists Lowers.of_nodes hpe

theorem driven_endMotion {s : State} (hm : MotionIn .whole s) (hs : StepsOk s) (hp : PointsOk s)
    (hd : s.Driven) {h : Nat} {o : Op} (ho : s.op? h = some o) : (s.endMotion o).Driven := by
  obtain ⟨-, hgr, -⟩ := hs
  refine driven_of_filter hd (granted_endMotion s o) (lowers_endMotion s o)
    fun g hg hgh p hpe => ?_
  obtain ⟨x, hx, hxh, hxp, -⟩ := hgr g hg
  obtain rfl := hm.op_eq ho hx ((hxh.trans hgh).trans (findKey_key (key := Op.hatch) ho))
  have hshut : s.motionShut x = s.shutValves g.hatch g.step := by
    rw [State.motionShut, Op.step?, hxp, hxh]
  refine not_drives_of_shut hp ?_ hpe
  rw [← hshut]
  exact (lowers_dropGrant ..).trans .of_nodes

theorem Grant.Drives.of_core {g : Grant} {p q : Point} (h : g.Drives q) (hc : q.core = p.core) :
    g.Drives p := by
  simp only [Point.core, Prod.mk.injEq] at hc
  obtain ⟨hr, hsub, hi, -, -⟩ := hc
  obtain ⟨h1, h2, h3⟩ := h
  exact ⟨h1.trans hsub, hr ▸ h2, hi ▸ h3⟩

/-- What the laws of the valves rest on. -/
structure ValvesIn (s : State) : Prop where
  steps : StepsOk s
  points : PointsOk s
  driven : s.Driven

theorem driven_move {f g : Focus} {s t : State} (hm : MotionIn f s) (hs : ValvesIn s)
    (h : Move f s g t) : t.Driven := by
  have keep : (∀ g ∈ s.granted, ∃ g' ∈ t.granted, g'.hatch = g.hatch ∧ g'.step = g.step) → t.Driven := by
    intro hg p hp
    have old : ∀ q, s.Energised q → q.core = p.core → ∃ g' ∈ t.granted, g'.Drives p := fun q hq hc => by
      obtain ⟨g, hgm, hgq⟩ := hs.driven q hq
      obtain ⟨g', hg', hh, hst⟩ := hg g hgm
      obtain ⟨h1, h2, h3⟩ := hgq.of_core hc
      exact ⟨g', hg', hh.trans h1, hst ▸ h2, hst ▸ h3⟩
    rcases energised_move hm h hp with ⟨q, hq, hc⟩ | ⟨-, hnew⟩
    · exact old q hq hc
    · exact (hnew (outputsOnce_of_pointsOk hs.points) hs.steps).elim (fun he => old p he rfl) id
  have same : t.granted = s.granted → t.Driven := fun ht => keep fun g hg => ⟨g, ht ▸ hg, rfl, rfl⟩
  cases h with
  | still h => exact same h.granted
  | unqueue _ _ => exact same (granted_dropEntry ..)
  | endMotion ho _ => exact driven_endMotion hm hs.steps hs.points hs.driven ho
  | grant _ _ _ _ _ =>
    refine keep fun g hg => ⟨g, ?_, rfl, rfl⟩
    rw [openValves_eq]
    exact List.mem_append_left _ hg
  | grantNone _ _ => exact keep fun g hg => ⟨g, List.mem_append_left _ hg, rfl, rfl⟩
  | write _ _ _ => exact same (by rw [writeDriven_eq])
  | @follow _ h g p hg _ =>
    refine keep fun x hx => ?_
    obtain ⟨hh, hst, -, -⟩ := follow_keeps g s.maxB s.freeFlow p
    refine ⟨if x.hatch = h then g.follow s.maxB s.freeFlow p else x,
      mem_updateKey.mpr ⟨x, hx, rfl⟩, ?_⟩
    split
    · next hxh =>
      obtain rfl : x = g := List.inj_on_of_nodup_map hm.granted hx (findKey_mem hg)
        (hxh.trans (findKey_key (key := Grant.hatch) hg).symm)
      exact ⟨hh, hst⟩
    · exact ⟨rfl, rfl⟩
  | startPump _ => exact same (by rw [startPump_eq])
  | newBudget b m =>
    refine (keeps_newBudget (b := b) (m := m) (P := fun x => PointsOk x ∧ x.Driven) (fun s g hx hm hg => ?_) hm
      ⟨hs.points, fun p hp => hs.driven p ⟨hp.mem, hp.valve, hp.out⟩⟩).2
    refine ⟨?_, driven_shedOne hm hx.1 hx.2 hg⟩
    rw [PointsOk, (lowers_shedOne s g).points]
    exact hx.1
  | empty hb => exact same (by rw [emptyGrants_of_empty (hm.empty (hb ((motionOk_iff s).mpr hm)))])
  | _ => exact same rfl

theorem Goes.valvesIn {f g : Focus} {s t : State} (h : Goes f s g t) (hm : MotionIn f s)
    (hs : ValvesIn s) : ValvesIn t :=
  h.keeps_with_motion (P := fun _ x => ValvesIn x)
    (fun _ _ _ _ hm hs h => ⟨stepsOk_move hm hs.steps h, pointsOk_move hs.points h, driven_move hm hs h⟩)
    hm hs

theorem ValvesIn.of_fields {s t : State} (hs : ValvesIn s) (ht : t = { s with mode := t.mode, latch := t.latch }) :
    ValvesIn t := by
  rw [ht]
  exact ⟨hs.steps, hs.points, fun p hp => hs.driven p ⟨hp.mem, hp.valve, hp.out⟩⟩

theorem valvesIn_event {s t : State} (hm : MotionIn .whole s) (hs : ValvesIn s) (h : Event s t) :
    ValvesIn t := by
  cases h with
  | moves h => exact h.valvesIn hm hs
  | fresh h _ => exact ⟨h.stepsOk, h.points, fun p hp => (hp.out (h.outs ..)).elim⟩
  | mode m _ => exact hs.of_fields rfl
  | unlatch => exact hs.of_fields rfl
  | stop hl => exact (moves_setLatch hl).valvesIn (hm.of_lists rfl rfl rfl rfl) (hs.of_fields rfl)

theorem driven_of_valvesOk {s : State} (h : ValvesOk s) : s.Driven :=
  fun p hp => h.2.1 p hp.mem hp.valve hp.out

/-- Opposed valves are two valve roles. -/
theorem opposes_spec {p q : Point} (h : p.Opposes q) :
    p.isValve = true ∧ q.isValve = true ∧ p.role ≠ q.role ∧ p.subject = q.subject := by
  obtain ⟨hsub, -, hroles⟩ := h
  simp only [List.mem_cons, Prod.mk.injEq, List.not_mem_nil, or_false] at hroles
  rcases hroles with ⟨hp, hq⟩ | ⟨hp, hq⟩ | ⟨hp, hq⟩ | ⟨hp, hq⟩
  all_goals
    rw [Point.isValve, Point.isValve, hp, hq]
    exact ⟨rfl, rfl, by decide, hsub⟩

/-- A grant drives one of two opposed valves. -/
theorem valvesOk_of_valvesIn {s : State} (hm : MotionIn .whole s) (hs : ValvesIn s) : ValvesOk s := by
  refine ⟨outputsOnce_of_pointsOk hs.points, fun p hp hv h0 => hs.driven p ⟨hp, hv, h0⟩,
    fun p hp q hq hpq => or_iff_not_imp_left.mpr fun hp0 => by_contra fun hq0 => ?_⟩
  obtain ⟨hpv, hqv, hne, hsub⟩ := opposes_spec hpq
  obtain ⟨g, hg, hgp, hrp, -⟩ := hs.driven p ⟨hp, hpv, hp0⟩
  obtain ⟨g', hg', hgq, hrq, -⟩ := hs.driven q ⟨hq, hqv, hq0⟩
  obtain rfl : g = g' := List.inj_on_of_nodup_map hm.granted hg hg' ((hgp.trans hsub).trans hgq.symm)
  exact hne (hrp.trans hrq.symm)

theorem valvesOk_step {s t : State} (hm : MotionOk s) (hs : StepsOk s) (hp : PointsOk s)
    (hv : ValvesOk s) (h : step s = .next t) : ValvesOk t := by
  refine valvesOk_of_valvesIn ((motionOk_iff t).mp (motionOk_step hm h)) ?_
  exact step_keeps_with_motion (fun _ _ => valvesIn_event) (fun _ _ _ hs _ => hs.of_fields rfl) hm
    ⟨hs, hp, driven_of_valvesOk hv⟩ h

/-- Settles O58, by the law of the stop, of the point map and of the valves of every move. -/
theorem stepKeepsTheStop : Obligations.StepKeepsTheStop := by
  unfold Obligations.StepKeepsTheStop
  refine ⟨fun s t hs h => stopOk_step hs.1 hs.2 h, fun s t hs h => pointsOk_step hs h, ?_⟩
  rintro s t ⟨hm, hs, hp, hv⟩ h
  exact valvesOk_step hm hs hp hv h

/-! ### The release valves in SEA (R132) -/

/-- Outside HARBOUR no cleat-release valve is energised. -/
def State.ReleasesShut (s : State) : Prop :=
  s.mode ≠ .harbour → ∀ p, s.Energised p → p.role ≠ .cleatReleaseValve

/-- What keeps the release valves at 0 outside HARBOUR. -/
structure SeaShut (f : Focus) (s : State) : Prop where
  sea : SeaIn f s
  steps : StepsOk s
  once : s.OutputsOnce
  shut : s.ReleasesShut

/-- Outside HARBOUR no granted step drives a release valve. -/
theorem grant_driven_ne {f : Focus} {s : State} (hsea : SeaIn f s) (hs : StepsOk s)
    (hm : s.mode ≠ .harbour) {g : Grant} (hg : g ∈ s.granted) :
    g.step.driven ≠ .cleatReleaseValve := by
  have hmode : s.mode = .sea :=
    (hsea.mode_of_mem (.inr (List.ne_nil_of_mem hg))).resolve_right hm
  obtain ⟨-, hgr, hcl⟩ := hs
  obtain ⟨o, ho, -, hp, hc⟩ := hgr g hg
  exact hcl o ho (hc.trans (hsea.grants hmode g hg)) g.step (List.mem_of_head? hp)

theorem releasesShut_of_driven {f : Focus} {s : State} (hsea : SeaIn f s) (hs : StepsOk s)
    (hd : s.Driven) : s.ReleasesShut := by
  intro hm p hp hr
  obtain ⟨g, hg, -, hrole, -⟩ := hd p hp
  exact grant_driven_ne hsea hs hm hg (hrole.symm.trans hr)

/-- No move changes the part mode. -/
theorem mode_move {f g : Focus} {s t : State} (h : Move f s g t) : t.mode = s.mode := by
  cases h with
  | still h => exact h.mode
  | unqueue _ _ => exact (onlyMotion_dropEntry ..).mode
  | endMotion _ _ => exact (onlyMotion_endMotion ..).mode
  | grant _ _ _ _ _ => rw [openValves_eq]; rfl
  | write _ _ _ => rw [writeDriven_eq]
  | startPump _ => rw [startPump_eq]
  | newBudget b m => exact (onlyMotion_shedLoop ..).mode
  | empty _ => unfold State.emptyGrants; split <;> rfl
  | _ => rfl

theorem seaShut_move {f g : Focus} {s t : State} (hm : MotionIn f s) (hs : SeaShut f s)
    (h : Move f s g t) : SeaShut g t := by
  have hsea := seaIn_move hm hs.sea h
  have hsteps := stepsOk_move hm hs.steps h
  refine ⟨hsea, hsteps, outputsOnce_move hs.once h, fun hmode p hp hr => ?_⟩
  have old : ∀ q, s.Energised q → q.core = p.core → False := fun q hq hc => by
    simp only [Point.core, Prod.mk.injEq] at hc
    exact hs.shut (mode_move h ▸ hmode) q hq (hc.1.trans hr)
  rcases energised_move hm h hp with ⟨q, hq, hc⟩ | ⟨-, hnew⟩
  · exact old q hq hc
  · rcases hnew hs.once hs.steps with he | ⟨g, hg, -, hrole, -⟩
    · exact old p he rfl
    · exact grant_driven_ne hsea hsteps hmode hg (hrole.symm.trans hr)

theorem Goes.seaShut {f g : Focus} {s t : State} (h : Goes f s g t) (hm : MotionIn f s)
    (hs : SeaShut f s) : SeaShut g t :=
  h.keeps_with_motion (P := SeaShut) (fun _ _ _ _ => seaShut_move) hm hs

theorem seaShut_event {s t : State} (hm : MotionIn .whole s) (hs : SeaShut .whole s)
    (h : Event s t) : SeaShut .whole t := by
  have hsea := seaIn_event hm hs.sea h
  have hsteps := stepsOk_event hm hs.steps h
  cases h with
  | moves h => exact h.seaShut hm hs
  | fresh h _ =>
    exact ⟨hsea, hsteps, outputsOnce_of_pointsOk h.points, fun _ p hp => (hp.out (h.outs ..)).elim⟩
  | mode m hmode =>
    refine ⟨hsea, hsteps, hs.once, fun hne p hp => ?_⟩
    have hharbour : s.mode ≠ .harbour := hmode.elim (fun h => (hne h).elim) (·.2)
    exact hs.shut hharbour p ⟨hp.mem, hp.valve, hp.out⟩
  | unlatch => exact ⟨hsea, hsteps, hs.once, fun hne p hp => hs.shut hne p ⟨hp.mem, hp.valve, hp.out⟩⟩
  | stop hl =>
    refine (moves_setLatch hl).seaShut (hm.of_lists rfl rfl rfl rfl) ⟨?_, hs.steps, hs.once, ?_⟩
    · exact hs.sea.of_sub rfl rfl (fun _ => id) (fun _ => id) fun _ h => nomatch h
    · exact fun hne p hp => hs.shut hne p ⟨hp.mem, hp.valve, hp.out⟩

/-- A part at rest changes its mode with every valve at 0. -/
theorem seaShut_of_idle {s : State} (hm : MotionIn .whole s) (hs : StepsOk s) (ho : s.OutputsOnce)
    (hd : s.Driven) (hb : ∀ o ∈ s.ops, o.isBusy = false) (m : PartMode) :
    SeaShut .whole { s with mode := m } := by
  refine ⟨seaIn_of_idle (hm.of_lists rfl rfl rfl rfl) hb, hs, ho, fun _ p hp => ?_⟩
  obtain ⟨g, hg, -⟩ := hd p ⟨hp.mem, hp.valve, hp.out⟩
  rw [(hm.empty hb).2] at hg
  cases hg

theorem driven_of_still {s t : State} (hd : s.Driven) (h : Still s t) : t.Driven := by
  intro p hp
  obtain ⟨q, hq, hc⟩ := energised_of_still h hp
  obtain ⟨g, hg, hgq⟩ := hd q hq
  exact ⟨g, h.granted ▸ hg, hgq.of_core hc⟩

theorem seaShut_step {s t : State} (hm : MotionOk s) (hs : StepsOk s) (hv : ValvesOk s)
    (hsea : SeaOk s) (h : step s = .next t) : SeaShut .whole s ∧ SeaShut .whole t := by
  have hm' := (motionOk_iff s).mp hm
  have hsea' := (seaOk_iff s).mp hsea
  have hd := driven_of_valvesOk hv
  have hshut : SeaShut .whole s := ⟨hsea', hs, hv.1, releasesShut_of_driven hsea' hs hd⟩
  refine ⟨hshut, ?_⟩
  cases turns_step h with
  | run hrun =>
    exact (hrun.keeps (P := fun x => MotionIn .whole x ∧ SeaShut .whole x)
      (fun _ _ hx he => ⟨motionIn_event hx.1 he, seaShut_event hx.1 hx.2 he⟩) ⟨hm', hshut⟩).2
  | @rest x _ m hstill hb hmoves =>
    have hmx := hm'.still hstill
    exact hmoves.seaShut (hmx.of_lists rfl rfl rfl rfl)
      (seaShut_of_idle hmx (hs.still hstill) (hshut.once.of_core hstill.outputs)
        (driven_of_still hd hstill) hb m)

theorem seaValvesOk_of_seaShut {f : Focus} {s : State} (h : SeaShut f s) : SeaValvesOk s := by
  intro hmode p hp hr
  refine by_contra fun h0 => h.shut (by simp [hmode]) p ⟨hp, ?_, h0⟩ hr
  rw [Point.isValve, hr]
  rfl

/-- Settles O59, by the law of the sea of every move and by the release valves outside HARBOUR. -/
theorem stepKeepsTheSea : Obligations.StepKeepsTheSea := by
  unfold Obligations.StepKeepsTheSea
  refine ⟨fun s t hs h => seaOk_step hs.1 hs.2 h, ?_⟩
  rintro s t ⟨hm, hs, hv, hsea⟩ h
  obtain ⟨hs', ht'⟩ := seaShut_step hm hs hv hsea h
  exact ⟨seaValvesOk_of_seaShut hs', seaValvesOk_of_seaShut ht'⟩

end Sys2Proof.Machine

/-! What the Hatch Engine, the Flow Arbiter, Pump Control, the Field Scanner and the Attitude Unit leave aside:
the queue of commands, the station lines, the copies of the configuration and the holders. -/

namespace Sys2Proof.Machine

/-- The lines, the configuration and the holders are as they were. -/
structure Aside (s t : State) : Prop where
  pending : t.pending = s.pending
  lines : t.lines = s.lines
  working : t.working = s.working
  inForce : t.inForce = s.inForce
  image : t.image = s.image
  storing : t.storing = s.storing
  holders : t.holders = s.holders
  window : t.att.window = s.att.window

theorem Aside.refl (s : State) : Aside s s := ⟨rfl, rfl, rfl, rfl, rfl, rfl, rfl, rfl⟩

theorem Aside.trans {s t u : State} (h : Aside s t) (k : Aside t u) : Aside s u :=
  ⟨k.pending.trans h.pending, k.lines.trans h.lines, k.working.trans h.working,
    k.inForce.trans h.inForce, k.image.trans h.image, k.storing.trans h.storing,
    k.holders.trans h.holders, k.window.trans h.window⟩

theorem Aside.foldl {α : Type} {f : State → α → State} (hf : ∀ x a, Aside x (f x a)) (l : List α)
    (s : State) : Aside s (l.foldl f s) := by
  induction l generalizing s with
  | nil => exact .refl s
  | cons a l ih => exact (hf s a).trans (ih _)

theorem Aside.ite {s t u : State} (p : Prop) [Decidable p] (h : Aside s t) (k : Aside s u) :
    Aside s (if p then t else u) := by
  split <;> assumption

/-- A change of other fields; each argument is found by `rfl` where it is not given. -/
theorem Aside.of_eq {s t : State} (pending : t.pending = s.pending := by rfl)
    (lines : t.lines = s.lines := by rfl) (working : t.working = s.working := by rfl)
    (inForce : t.inForce = s.inForce := by rfl) (image : t.image = s.image := by rfl)
    (storing : t.storing = s.storing := by rfl) (holders : t.holders = s.holders := by rfl)
    (window : t.att.window = s.att.window := by rfl) : Aside s t :=
  ⟨pending, lines, working, inForce, image, storing, holders, window⟩

theorem Aside.of_motion {s t : State} (h : OnlyMotion s t) (hh : t.holders = s.holders) : Aside s t := by
  obtain ⟨hrest, -, -, -, -⟩ := h
  rw [hrest] at hh ⊢
  exact .of_eq (holders := hh)

/-! ### Hatch Engine, Flow Arbiter, Pump Control -/

theorem aside_raiseAlarm (s : State) (c : AlarmCode) (sub : Subject) : Aside s (s.raiseAlarm c sub) :=
  .of_eq

theorem aside_clearAlarm (s : State) (c : AlarmCode) (sub : Subject) : Aside s (s.clearAlarm c sub) :=
  .of_eq

theorem aside_updOp (s : State) (h : Nat) (f : Op → Op) : Aside s (s.updOp h f) := .of_eq

theorem aside_updHatch (s : State) (h : Nat) (f : Hatch → Hatch) : Aside s (s.updHatch h f) := .of_eq

theorem aside_updPump (s : State) (n : Nat) (f : Pump → Pump) : Aside s (s.updPump n f) := .of_eq

theorem aside_updNode (s : State) (a : Nat) (f : Node → Node) : Aside s (s.updNode a f) := .of_eq

theorem aside_claimTouch (s : State) (h l : Nat) : Aside s (s.claimTouch h l) :=
  .of_motion (onlyMotion_claimTouch ..) (holders_claimTouch ..)

theorem aside_claimLoss (s : State) (h : Nat) : Aside s (s.claimLoss h) :=
  .of_motion (onlyMotion_claimLoss ..) (holders_claimLoss ..)

theorem aside_refresh (s : State) (h : Nat) : Aside s (s.refresh h) :=
  .of_motion (onlyMotion_refresh ..) (holders_refresh ..)

theorem aside_refreshAll (s : State) : Aside s s.refreshAll := Aside.foldl aside_refresh _ s

theorem aside_clearIdle (s : State) (h : Nat) : Aside s (s.clearIdle h) :=
  .of_motion (onlyMotion_clearIdle ..) (holders_clearIdle ..)

theorem aside_pauseOp (s : State) (h : Nat) (r : HaltReason) : Aside s (s.pauseOp h r) :=
  .of_motion (onlyMotion_pauseOp ..) (holders_pauseOp ..)

theorem aside_faultOp (s : State) (h : Nat) (f : FaultKind) : Aside s (s.faultOp h f) :=
  .of_motion (onlyMotion_faultOp ..) (holders_faultOp ..)

theorem aside_offerFrom (s : State) (hr : Hatch) (b : Bool) (p : List Step) :
    Aside s (s.offerFrom hr b p) :=
  .of_motion (onlyMotion_offerFrom ..) (holders_offerFrom ..)

theorem aside_abortAll (s : State) : Aside s s.abortAll :=
  .of_motion (onlyMotion_abortAll s) (holders_abortAll s)

theorem aside_evaluate (s : State) : Aside s s.evaluate :=
  .of_motion (onlyMotion_evaluate s) (holders_evaluate s)

theorem aside_takeBudget (s : State) : Aside s s.takeBudget :=
  .of_motion (onlyMotion_takeBudget s) (holders_takeBudget s)

theorem aside_rederiveBand (s : State) : Aside s s.rederiveBand :=
  .of_motion (onlyMotion_rederiveBand s) (holders_rederiveBand s)

theorem aside_axisHandOn (s : State) (c : Cover) (a b : Option Nat) : Aside s (s.axisHandOn c a b) :=
  .of_motion (onlyMotion_axisHandOn ..) (holders_axisHandOn ..)

theorem aside_hatchEvent (s : State) (h : Nat) : Aside s (s.hatchEvent h) :=
  .of_motion (onlyMotion_hatchEvent ..) (holders_hatchEvent ..)

theorem aside_failPump (s : State) (n : Nat) : Aside s (s.failPump n) :=
  .of_motion (onlyMotion_failPump ..) (holders_failPump ..)

theorem aside_stopPumps (s : State) : Aside s s.stopPumps :=
  .of_motion (onlyMotion_stopPumps s) (holders_stopPumps s)

theorem aside_emptyGrants (s : State) : Aside s s.emptyGrants := by
  unfold State.emptyGrants
  exact Aside.ite _ (.refl s) .of_eq

theorem aside_setLatch (s : State) : Aside s s.setLatch := by
  unfold State.setLatch
  refine Aside.ite _ (.refl s) ?_
  have hraise : Aside s (State.raiseAlarm { s with latch := true } .estopActive .part) := .of_eq
  exact ((hraise.trans (aside_abortAll _)).trans (aside_emptyGrants _)).trans (aside_stopPumps _)

theorem aside_pumpFeedback (s : State) (n : Nat) (on : Bool) : Aside s (s.pumpFeedback n on) := by
  unfold State.pumpFeedback
  split
  · exact .refl s
  · split
    · exact Aside.ite _ (aside_updPump ..) (.refl s)
    · exact Aside.ite _ (aside_failPump ..) (.refl s)
    · exact aside_failPump ..
    · exact .refl s

theorem aside_pumpNodeLost (s : State) (n : Nat) : Aside s (s.pumpNodeLost n) := by
  unfold State.pumpNodeLost
  repeat' split
  · exact .refl s
  · exact aside_failPump ..
  · exact aside_failPump ..
  · exact .refl s

theorem aside_feedbackDeadline (s : State) (n : Nat) : Aside s (s.feedbackDeadline n) := by
  unfold State.feedbackDeadline
  split
  · exact .refl s
  · exact Aside.ite _ (aside_failPump ..) (.refl s)

theorem aside_settleEnd (s : State) (n : Nat) : Aside s (s.settleEnd n) := by
  unfold State.settleEnd
  split
  · exact .refl s
  · exact Aside.ite _ ((aside_updPump ..).trans (aside_takeBudget _)) (.refl s)

theorem aside_idleStop (s : State) : Aside s s.idleStop := by
  unfold State.idleStop
  refine Aside.ite _ ?_ (.refl s)
  have htimer : Aside s { s with pumpIdle := none } := .of_eq
  exact htimer.trans (aside_stopPumps _)

theorem aside_clearPump (s : State) (l n : Nat) : Aside s (s.clearPump l n).1 := by
  unfold State.clearPump
  repeat' split
  · exact .refl s
  · exact .refl s
  · exact .refl s
  · exact ((aside_updPump ..).trans (aside_clearAlarm ..)).trans (aside_takeBudget _)
  · exact .refl s

/-! ### Operations -/

theorem aside_acceptRun (s : State) (hr : Hatch) (k : OpKind) (d : Discipline) (prog : List Step) :
    Aside s (s.acceptRun hr k d prog).1 := by
  unfold State.acceptRun
  have haccept := aside_updOp s hr.num fun o => o.accept k d prog s.now
  split
  · exact haccept.trans (aside_clearIdle ..)
  · next st rest =>
    have hoffer := haccept.trans (aside_offerFrom _ hr k.isClosing (st :: rest))
    exact Aside.ite _ hoffer (hoffer.trans (aside_evaluate _))

theorem aside_run (s : State) (l h : Nat) (k : OpKind) : Aside s (s.run l h k).1 := by
  unfold State.run
  split
  · exact .refl s
  · split
    · exact .refl s
    · refine (aside_claimTouch s h l).trans ?_
      dsimp only
      repeat' split
      all_goals first
        | exact .refl _
        | exact aside_acceptRun ..

theorem aside_renewHold (s : State) (l h : Nat) : Aside s (s.renewHold l h).1 := by
  unfold State.renewHold
  split
  · exact .refl s
  · split
    · exact .refl s
    · refine (aside_claimTouch s h l).trans ?_
      dsimp only
      split
      · exact .refl _
      · split
        · exact aside_updOp ..
        · exact .refl _

theorem aside_haltRequest (s : State) (l h : Nat) : Aside s (s.haltRequest l h).1 := by
  unfold State.haltRequest
  split
  · exact .refl s
  · refine (aside_claimTouch s h l).trans ?_
    dsimp only
    repeat' split
    · exact .refl _
    · exact (aside_pauseOp ..).trans (aside_evaluate _)
    · exact .refl _

theorem aside_clearFault (s : State) (l h : Nat) : Aside s (s.clearFault l h).1 := by
  unfold State.clearFault
  repeat' split
  · exact .refl s
  · exact .refl s
  · exact (((aside_clearIdle ..).trans (aside_clearAlarm ..)).trans (aside_clearAlarm ..)).trans
      (aside_clearAlarm ..)
  · exact .refl s

theorem aside_completeDwell (s : State) (h n : Nat) : Aside s (s.completeDwell h n) := by
  unfold State.completeDwell
  repeat' split
  · exact .refl s
  · exact .refl s
  · exact (aside_updHatch ..).trans (aside_hatchEvent ..)
  · exact .refl s

theorem aside_stepTimeout (s : State) (h : Nat) : Aside s (s.stepTimeout h) := by
  unfold State.stepTimeout
  split
  · exact .refl s
  · exact Aside.ite _ (((aside_faultOp ..).trans (aside_raiseAlarm ..)).trans (aside_evaluate _))
      (.refl s)

theorem aside_holdLapse (s : State) (h : Nat) : Aside s (s.holdLapse h) := by
  unfold State.holdLapse
  split
  · exact .refl s
  · exact Aside.ite _ ((aside_pauseOp ..).trans (aside_evaluate _)) (.refl s)

theorem aside_watchExpiry (s : State) (h : Nat) : Aside s (s.watchExpiry h) := by
  unfold State.watchExpiry
  split
  · exact .refl s
  · refine Aside.ite _ ?_ (.refl s)
    have halarm := (aside_raiseAlarm s .pressureStuck (.hatch h)).trans
      (aside_updOp _ h fun x => { x with watch := none })
    dsimp only
    split
    · exact halarm.trans (aside_updOp ..)
    · exact halarm.trans (aside_updOp ..)
    · exact halarm
    · exact halarm.trans ((aside_faultOp ..).trans (aside_evaluate _))
    · exact halarm.trans ((aside_faultOp ..).trans (aside_evaluate _))

/-! ### Field line -/

theorem aside_mapPoints (s : State) (a : Nat) (f : Point → Point) : Aside s (s.mapPoints a f) := .of_eq

theorem aside_updInput (s : State) (a k : Nat) (f : Point → Point) : Aside s (s.updInput a k f) := .of_eq

theorem aside_engineNodeLost (s : State) (a : Nat) : Aside s (s.engineNodeLost a) := by
  unfold State.engineNodeLost
  dsimp only
  exact Aside.ite _ (.refl s)
    ((Aside.foldl (fun x h => aside_pauseOp x h .nodeLost) _ s).trans (aside_evaluate _))

theorem aside_supplyNodeLost (s : State) (a : Nat) : Aside s (s.supplyNodeLost a) :=
  (Aside.foldl aside_pumpNodeLost _ s).trans (aside_rederiveBand _)

theorem aside_nodeLost (s : State) (a : Nat) (b : Bool) : Aside s (s.nodeLost a b) := by
  have lost := ((aside_raiseAlarm s .nodeLost (.node a)).trans (aside_mapPoints _ a Point.lose)).trans
    (aside_refreshAll _)
  unfold State.nodeLost
  dsimp only
  have watches := lost.trans (Aside.foldl (fun x h => aside_updOp x h fun o => { o with watch := none })
    (((s.raiseAlarm .nodeLost (.node a)).mapPoints a Point.lose).refreshAll.pressureHatches a) _)
  exact Aside.ite _ ((watches.trans (aside_supplyNodeLost ..)).trans (aside_engineNodeLost ..))
    ((watches.trans (aside_engineNodeLost ..)).trans (aside_supplyNodeLost ..))

theorem aside_nodeReturn (s : State) (a : Nat) (b : Bool) : Aside s (s.nodeReturn a b) := by
  unfold State.nodeReturn
  exact (((Aside.ite _ (aside_clearAlarm ..) (.refl s)).trans (aside_mapPoints ..)).trans
    (aside_refreshAll _)).trans (aside_rederiveBand _)

theorem aside_handOn (s : State) (p : Point) (v : Bool) : Aside s (s.handOn p v) :=
  Aside.ite _ (aside_hatchEvent ..) (Aside.ite _ (aside_pumpFeedback ..) (aside_rederiveBand _))

theorem aside_sampleDebounced (s : State) (p : Point) (v : Bool) : Aside s (s.sampleDebounced p v) := by
  have hchatter : Aside s (s.noteChatter p) := Aside.ite _ (aside_raiseAlarm ..) (.refl s)
  unfold State.sampleDebounced
  dsimp only
  exact Aside.ite _ ((aside_updInput ..).trans (aside_handOn ..))
    (Aside.ite _ (hchatter.trans (aside_updInput ..)) (aside_updInput ..))

theorem aside_takeStall (s : State) (h : Nat) : Aside s (s.takeStall h) := by
  unfold State.takeStall
  split
  · exact .refl s
  · next o _ =>
    refine Aside.ite _ (Aside.trans ?_ (aside_evaluate _)) (.refl s)
    have noted := (Aside.ite (o.stalls + 1 < 3) (aside_pauseOp s h .stall)
      (aside_faultOp s h .jammed)).trans
        (aside_updOp _ h fun x => { x with stalls := o.stalls + 1, watch := some s.now })
    exact Aside.ite _ (noted.trans (aside_raiseAlarm ..)) (noted.trans (aside_raiseAlarm ..))

theorem aside_samplePressure (s : State) (p : Point) (high : Bool) :
    Aside s (s.samplePressure p high) := by
  unfold State.samplePressure
  dsimp only
  have hput := aside_updInput s p.node p.point fun x => { x with qual := some high, stale := false }
  have hwatch := Aside.ite (high = true) hput (hput.trans (aside_updOp _ p.subject
    fun o => { o with watch := none }))
  split
  · exact hwatch
  · exact Aside.ite _ ((hwatch.trans (aside_updHatch ..)).trans (aside_takeStall ..))
      (hwatch.trans (aside_updHatch ..))

theorem aside_sampleInput (s : State) (a : Nat) (w : Word) (k : Nat) :
    Aside s (s.sampleInput a w k) := by
  unfold State.sampleInput
  split
  · exact .refl s
  · exact Aside.ite _ (aside_samplePressure ..) (aside_sampleDebounced ..)

theorem aside_sampleNode (s : State) (a : Nat) (w : Word) (o : List Nat) :
    Aside s (s.sampleNode a w o) := Aside.foldl (fun x k => aside_sampleInput x a w k) _ s

theorem aside_missTurn (s : State) (n : Node) (b : Bool) : Aside s (s.missTurn n b) := by
  unfold State.missTurn
  exact Aside.ite _ ((aside_updNode ..).trans (aside_nodeLost ..)) (aside_updNode ..)

theorem aside_goodTurn (s : State) (n : Node) (w : Word) (o : List Nat) :
    Aside s (s.goodTurn n w o) := by
  unfold State.goodTurn
  split
  · exact (aside_updNode ..).trans (aside_sampleNode ..)
  · exact Aside.ite _ (aside_updNode ..) ((((aside_updNode ..).trans (aside_updNode ..)).trans
      (aside_nodeReturn ..)).trans (aside_sampleNode ..))

theorem aside_beginTurn (s : State) (k : Nat) : Aside s (s.beginTurn k) := by
  unfold State.beginTurn
  split
  · exact .of_eq
  · exact .refl s

theorem aside_pollNext (s : State) : Aside s s.pollNext := by
  unfold State.pollNext State.beginScan
  have hdue : ∀ sc : Scan, Aside s { s with scan := sc } := fun _ => .of_eq
  repeat' split
  all_goals first
    | exact .refl s
    | exact (hdue _).trans (aside_beginTurn ..)

theorem aside_turnOf (s : State) (a : Nat) : Aside s (s.turnOf a).1 := by
  unfold State.turnOf
  repeat' split
  all_goals first
    | exact .refl s
    | exact aside_beginTurn ..

theorem aside_becomeReady (s : State) : Aside s s.becomeReady := by
  unfold State.becomeReady
  dsimp only
  have hmode : Aside s { s with mode := s.retained.mode.part } := .of_eq
  have hready := Aside.ite (s.retained.mode.part = .sea) (hmode.trans (Aside.foldl (fun x hr =>
    aside_raiseAlarm x .hatchUnsecuredAtSea (.hatch hr.num))
      (s.hatches.filter fun hr => hr.position != .secured) _)) hmode
  exact Aside.ite _ (hready.trans (aside_raiseAlarm ..)) hready

theorem aside_endTurn (s : State) (k : Nat) : Aside s (s.endTurn k) := by
  unfold State.endTurn
  dsimp only
  have hend : Aside s { s with
      scan := { s.scan with place := none, replied := false, firstOver := true } } := .of_eq
  exact Aside.ite _ (Aside.ite _ (hend.trans (aside_becomeReady _)) hend) (.refl s)

theorem aside_fieldReply (s : State) (a : Nat) (bytes : List Byte) (o : List Nat) (b : Bool) :
    Aside s (s.fieldReply a bytes o b) := by
  have hturn := aside_turnOf s a
  unfold State.fieldReply
  split
  · next s1 h =>
    rw [h] at hturn
    exact hturn
  · next s1 k n h =>
    rw [h] at hturn
    have hreplied : Aside s { s1 with scan := { s1.scan with replied := true } } :=
      hturn.trans .of_eq
    dsimp only
    refine (hreplied.trans ?_).trans (aside_endTurn ..)
    split
    · exact aside_goodTurn ..
    · exact aside_missTurn ..

theorem aside_slotEnd (s : State) (a : Nat) (b : Bool) : Aside s (s.slotEnd a b) := by
  have hturn := aside_turnOf s a
  unfold State.slotEnd
  split
  · exact .refl s
  · next s1 k n h =>
    rw [h] at hturn
    exact Aside.ite _ (((hturn.trans (aside_missTurn ..)).trans (aside_endTurn ..)).trans
      (aside_beginTurn ..)) (.refl s)

theorem aside_attitudeHandOn (s : State) (b : Bool) : Aside s (s.attitudeHandOn b) := by
  have hatt : Aside s { s with att := s.deriveFractions } := by
    refine .of_eq (window := ?_)
    show s.deriveFractions.window = s.att.window
    unfold State.deriveFractions
    split <;> rfl
  unfold State.attitudeHandOn
  dsimp only
  exact Aside.ite _ ((hatt.trans (aside_axisHandOn ..)).trans (aside_axisHandOn ..))
    ((hatt.trans (aside_axisHandOn ..)).trans (aside_axisHandOn ..))

end Sys2Proof.Machine

/-! The bounds of the lists (R104, R145, R161, R171) and the law of holders (R118): what each command does to the
station lines, the copies of the configuration, the window and the claims. -/

namespace Sys2Proof.Machine

/-! ### The two relations -/

/-- The line may hold the hatch (R118). -/
def State.MayHold (s : State) (l h : Nat) : Prop :=
  ∃ ln ∈ s.line? l, ln.link = .active ∧ (ln.cls = .deck → reachHas ln.reach h = true)

theorem holdersOk_iff (s : State) :
    HoldersOk s ↔ ∀ x ∈ s.holders, ∀ l ∈ x.2, s.MayHold l x.1 := by
  simp only [State.holders, List.forall_mem_map]
  exact Iff.rfl

/-- A command leaves the queue of commands and keeps the bounds and the law of holders. -/
structure Keeps (s t : State) : Prop where
  pending : t.pending = s.pending
  queues : QueuesOk s → QueuesOk t
  configs : ConfigsOk s → ConfigsOk t
  window : WindowOk s → WindowOk t
  holders : HoldersOk s → HoldersOk t

/-- The same, and no answer joins or leaves a transmit queue. -/
structure Quiet (s t : State) : Prop where
  pending : t.pending = s.pending
  lines : (t.lines.map fun ln => (ln.num, ln.queue)) = s.lines.map fun ln => (ln.num, ln.queue)
  configs : ConfigsOk s → ConfigsOk t
  window : WindowOk s → WindowOk t
  holders : HoldersOk s → HoldersOk t

theorem Keeps.refl (s : State) : Keeps s s := ⟨rfl, id, id, id, id⟩

theorem Keeps.trans {s t u : State} (h : Keeps s t) (k : Keeps t u) : Keeps s u :=
  ⟨k.pending.trans h.pending, fun x => k.queues (h.queues x), fun x => k.configs (h.configs x),
    fun x => k.window (h.window x), fun x => k.holders (h.holders x)⟩

theorem Keeps.ite {s t u : State} (p : Prop) [Decidable p] (h : Keeps s t) (k : Keeps s u) :
    Keeps s (if p then t else u) := by
  split <;> assumption

theorem Keeps.foldl {α : Type} {f : State → α → State} (hf : ∀ x a, Keeps x (f x a)) (l : List α)
    (s : State) : Keeps s (l.foldl f s) := by
  induction l generalizing s with
  | nil => exact .refl s
  | cons a l ih => exact (hf s a).trans (ih _)

theorem Quiet.refl (s : State) : Quiet s s := ⟨rfl, rfl, id, id, id⟩

theorem Quiet.trans {s t u : State} (h : Quiet s t) (k : Quiet t u) : Quiet s u :=
  ⟨k.pending.trans h.pending, k.lines.trans h.lines, fun x => k.configs (h.configs x),
    fun x => k.window (h.window x), fun x => k.holders (h.holders x)⟩

theorem Quiet.ite {s t u : State} (p : Prop) [Decidable p] (h : Quiet s t) (k : Quiet s u) :
    Quiet s (if p then t else u) := by
  split <;> assumption

theorem queuesOk_of_lines {s t : State}
    (h : (t.lines.map fun ln => (ln.num, ln.queue)) = s.lines.map fun ln => (ln.num, ln.queue))
    (hs : QueuesOk s) : QueuesOk t := by
  obtain ⟨hn, hq⟩ := hs
  constructor
  · have hnums : t.lines.map Line.num = s.lines.map Line.num := by
      simpa [List.map_map, Function.comp_def] using congrArg (List.map Prod.fst) h
    rwa [hnums]
  · intro ln hln
    obtain ⟨x, hx, hxe⟩ := List.mem_map.mp (h ▸ List.mem_map_of_mem (f := fun ln : Line => (ln.num, ln.queue)) hln)
    exact (Prod.mk.inj hxe).2 ▸ hq x hx

theorem Quiet.keeps {s t : State} (h : Quiet s t) : Keeps s t :=
  ⟨h.pending, queuesOk_of_lines h.lines, h.configs, h.window, h.holders⟩

/-- The lines stand, and no line becomes a holder. -/
theorem holdersOk_of_sub {s t : State} (hl : t.lines = s.lines)
    (hh : ∀ x ∈ t.holders, x.2.isSome = true → x ∈ s.holders) (hs : HoldersOk s) : HoldersOk t := by
  rw [holdersOk_iff] at hs ⊢
  intro x hx l hxl
  have hm := hs x (hh x hx (by rw [hxl]; rfl)) l hxl
  rwa [State.MayHold, State.line?, hl]

/-- The window and the copies of the configuration stand. -/
theorem Quiet.of_holders {s t : State} (h : HoldersOk s → HoldersOk t)
    (lines : (t.lines.map fun ln => (ln.num, ln.queue)) = s.lines.map fun ln => (ln.num, ln.queue) := by rfl)
    (pending : t.pending = s.pending := by rfl) (working : t.working = s.working := by rfl)
    (inForce : t.inForce = s.inForce := by rfl) (image : t.image = s.image := by rfl)
    (storing : t.storing = s.storing := by rfl) (window : t.att.window = s.att.window := by rfl) :
    Quiet s t :=
  ⟨pending, lines, fun hc => by rwa [ConfigsOk, working, inForce, image, storing],
    fun hw => by rwa [WindowOk, window], h⟩

theorem Aside.quiet {s t : State} (h : Aside s t) : Quiet s t :=
  .of_holders (holdersOk_of_sub h.lines fun _ hx _ => h.holders ▸ hx) (by rw [h.lines]) h.pending
    h.working h.inForce h.image h.storing h.window

theorem Aside.keeps {s t : State} (h : Aside s t) : Keeps s t := h.quiet.keeps

/-- The line records change, but for what makes a holder. -/
theorem holdersOk_of_lines {s t : State} (hc : t.holders = s.holders)
    (hl : ∀ l ln, s.line? l = some ln → ln.link = .active →
      ∃ x, t.line? l = some x ∧ x.link = .active ∧ x.cls = ln.cls ∧ x.reach = ln.reach)
    (hs : HoldersOk s) : HoldersOk t := by
  rw [holdersOk_iff] at hs ⊢
  rw [hc]
  intro y hy l hyl
  obtain ⟨ln, hln, hact, hreach⟩ := hs y hy l hyl
  obtain ⟨x, hx, hxact, hxcls, hxreach⟩ := hl l ln hln hact
  exact ⟨x, hx, hxact, fun hd => hxreach ▸ hreach (hxcls ▸ hd)⟩

/-- An update of one line that keeps what makes a holder. -/
structure Line.Tame (f : Line → Line) : Prop where
  num : ∀ ln, (f ln).num = ln.num
  active : ∀ ln, ln.link = .active → (f ln).link = .active
  cls : ∀ ln, (f ln).cls = ln.cls
  reach : ∀ ln, (f ln).reach = ln.reach

theorem holdersOk_updLine {s : State} (l : Nat) {f : Line → Line} (hf : Line.Tame f)
    (hs : HoldersOk s) : HoldersOk (s.updLine l f) := by
  refine holdersOk_of_lines (s := s) rfl (fun k ln hln hact => ?_) hs
  by_cases hk : k = l
  · subst hk
    exact ⟨f ln, by rw [line?_updLine_same s k f hf.num, hln]; rfl, hf.active ln hact, hf.cls ln,
      hf.reach ln⟩
  · exact ⟨ln, by rw [line?_updLine_ne s l k hk f hf.num, hln], hact, rfl, rfl⟩

theorem quiet_updLine (s : State) (l : Nat) {f : Line → Line} (hf : Line.Tame f)
    (hq : ∀ ln, (f ln).queue = ln.queue) : Quiet s (s.updLine l f) :=
  .of_holders (holdersOk_updLine l hf) (map_updateKey Line.num (fun ln => (ln.num, ln.queue)) l f
    (fun ln _ => by rw [hf.num, hq]) s.lines)

/-- An update of every line. -/
theorem quiet_mapLines {s t : State} {f : Line → Line} (hf : Line.Tame f) (hq : ∀ ln, (f ln).queue = ln.queue)
    (ht : t.lines = s.lines.map f) (hh : t.holders = s.holders) (pending : t.pending = s.pending)
    (hc : ConfigsOk s → ConfigsOk t) (hw : WindowOk s → WindowOk t) : Quiet s t := by
  refine ⟨pending, ?_, hc, hw, holdersOk_of_lines hh fun k ln hln hact => ?_⟩
  · rw [ht, List.map_map]
    exact List.map_congr_left fun ln _ => by simp [hf.num, hq]
  · refine ⟨f ln, ?_, hf.active ln hact, hf.cls ln, hf.reach ln⟩
    have hfind : ∀ ls : List Line, findKey Line.num k (ls.map f) = (findKey Line.num k ls).map f := fun ls => by
      rw [findKey, findKey, List.find?_map]
      simp only [Function.comp_def, hf.num]
    rw [State.line?, ht, hfind]
    exact congrArg _ hln

/-! ### The transmit queues (R161, R162) -/

theorem nextFrame_tame (r : Frame) : Line.Tame (Line.nextFrame r) := by
  constructor
  all_goals
    intro ln
    unfold Line.nextFrame
    repeat' split
    all_goals simp

theorem queue_nextFrame_le (r : Frame) (ln : Line) : (ln.nextFrame r).queue.length ≤ ln.queue.length := by
  unfold Line.nextFrame
  repeat' split
  all_goals simp [*]

/-- An update of one line that keeps its transmit queue within 4 answers. -/
theorem keeps_updLine {s : State} (l : Nat) {f : Line → Line} (hf : Line.Tame f)
    (hq : ∀ ln ∈ s.lines, ln.num = l → (QueuesOk s → (f ln).queue.length ≤ 4)) :
    Keeps s (s.updLine l f) := by
  refine ⟨rfl, fun hs => ⟨?_, fun ln hln => ?_⟩, id, id, holdersOk_updLine l hf⟩
  · have hnums := map_updateKey Line.num Line.num l f (fun ln _ => hf.num ln) s.lines
    rw [updLine_lines, hnums]
    exact hs.1
  · obtain ⟨x, hx, rfl⟩ := mem_updateKey.mp hln
    split
    · next hk => exact hq x hx hk hs
    · exact hs.2 x hx

theorem keeps_transmit (s : State) (l : Nat) : Keeps s (s.transmit l) := by
  have hline : Keeps s (s.updLine l (Line.nextFrame s.report)) :=
    keeps_updLine l (nextFrame_tame _) fun ln hln _ hs => (queue_nextFrame_le ..).trans (hs.2 ln hln)
  have hfree : Aside (s.updLine l (Line.nextFrame s.report)) (s.transmit l) := .of_eq
  exact hline.trans hfree.keeps

theorem queued_tame (a : Answer) : Line.Tame (Line.queued a) :=
  ⟨fun _ => rfl, fun _ h => h, fun _ => rfl, fun _ => rfl⟩

/-- The line has room for one more answer (R158). -/
def State.HasRoom (s : State) (l : Nat) : Prop := ∀ ln, s.line? l = some ln → ln.queue.length < 4

theorem keeps_answer {s : State} {l : Nat} (hroom : s.HasRoom l) (seq kind : Byte) (r : Option Result)
    (args : List Byte) : Keeps s (s.answer l seq kind r args) := by
  refine Keeps.trans (keeps_updLine l (queued_tame _) fun ln hln hnum hs => ?_) (keeps_transmit ..)
  have hfind : s.line? l = some ln := hnum ▸ findKey_of_mem hs.1 hln
  have := hroom ln hfind
  simp only [Line.queued, List.length_append, List.length_singleton]
  omega

theorem HasRoom.quiet {s t : State} {l : Nat} (h : s.HasRoom l) (hst : Quiet s t) : t.HasRoom l := by
  intro ln hln
  have hqueue : ∀ ls : List Line, (findKey Line.num l ls).map (fun ln => (ln.num, ln.queue)) =
      (ls.map fun ln => (ln.num, ln.queue)).find? fun x => x.1 == l := fun ls => by
    rw [List.find?_map]
    rfl
  have heq := (hqueue t.lines).trans ((congrArg _ hst.lines).trans (hqueue s.lines).symm)
  have ht : findKey Line.num l t.lines = some ln := hln
  rw [ht] at heq
  obtain ⟨x, hx, hxe⟩ := Option.map_eq_some_iff.mp heq.symm
  rw [← (Prod.mk.inj hxe).2]
  exact h x hx

/-! ### Holders (R118) -/

/-- What a release leaves of the holders. -/
theorem mem_holders_claimFree {s : State} {h : Nat} {x : Nat × Option Nat}
    (hx : x ∈ (s.claimFree h).holders) (hsome : x.2.isSome = true) : x ∈ s.holders ∧ x.1 ≠ h := by
  obtain ⟨c, hc, rfl⟩ := List.mem_map.mp hx
  obtain ⟨y, hy, rfl⟩ := mem_updateKey.mp hc
  split at hsome
  · cases hsome
  · next hk =>
    rw [if_neg hk]
    exact ⟨List.mem_map_of_mem (f := fun c : Claim => (c.hatch, c.holder)) hy, hk⟩

theorem mem_holders_release {s : State} {h : Nat} {x : Nat × Option Nat}
    (hx : x ∈ (s.release h).holders) (hsome : x.2.isSome = true) : x ∈ s.holders ∧ x.1 ≠ h := by
  rw [State.release, holders_claimLoss] at hx
  exact mem_holders_claimFree hx hsome

theorem mem_holders_releases {hs : List Nat} {s : State} {x : Nat × Option Nat}
    (hx : x ∈ (hs.foldl State.release s).holders) (hsome : x.2.isSome = true) :
    x ∈ s.holders ∧ x.1 ∉ hs := by
  induction hs generalizing s with
  | nil => exact ⟨hx, List.not_mem_nil⟩
  | cons h hs ih =>
    obtain ⟨hmem, hnot⟩ := ih hx
    obtain ⟨hmem, hne⟩ := mem_holders_release hmem hsome
    exact ⟨hmem, fun h => (List.mem_cons.mp h).elim hne hnot⟩

theorem quiet_release (s : State) (h : Nat) : Quiet s (s.release h) := by
  obtain ⟨hrest, -, -, -, -⟩ := onlyMotion_release s h
  have hsub : ∀ x ∈ (s.release h).holders, x.2.isSome = true → x ∈ s.holders :=
    fun x hx hsome => (mem_holders_release hx hsome).1
  rw [hrest] at hsub ⊢
  exact .of_holders (holdersOk_of_sub rfl hsub)

theorem quiet_releaseAll (s : State) : Quiet s s.releaseAll := by
  unfold State.releaseAll
  generalize ((s.claims.filter fun c => c.holder.isSome).map Claim.hatch) = hs
  induction hs generalizing s with
  | nil => exact .refl s
  | cons h hs ih => exact (quiet_release s h).trans (ih _)

/-- A hatch goes to a line that may hold it (R117, R118). -/
theorem quiet_claimGrant {s : State} {h l : Nat} (hl : s.MayHold l h) : Quiet s (s.claimGrant h l) := by
  refine .of_holders fun hs => ?_
  rw [holdersOk_iff] at hs ⊢
  intro x hx k hk
  obtain ⟨c, hc, rfl⟩ := List.mem_map.mp hx
  obtain ⟨y, hy, rfl⟩ := mem_updateKey.mp hc
  split at hk
  · next hyh =>
    rw [if_pos hyh]
    obtain rfl : l = k := Option.some.inj hk
    exact hyh ▸ hl
  · next hyh =>
    rw [if_neg hyh]
    exact hs _ (List.mem_map_of_mem (f := fun c : Claim => (c.hatch, c.holder)) hy) k hk

theorem mayHold_of_covers {s : State} {l h : Nat} (hc : s.covers l h = true) : s.MayHold l h := by
  unfold State.covers at hc
  split at hc
  · next ln hln =>
    simp only [Bool.and_eq_true, beq_iff_eq] at hc
    exact ⟨ln, hln, hc.1, fun _ => hc.2⟩
  · cases hc

theorem quiet_decideTake {s : State} {l h : Nat} (hc : s.covers l h = true) :
    Quiet s (s.decideTake l h).1 := by
  have hmay := mayHold_of_covers hc
  unfold State.decideTake
  repeat' split
  · exact quiet_claimGrant hmay
  · exact .refl s
  · exact .refl s
  · refine (quiet_release s h).trans (quiet_claimGrant ?_)
    rwa [State.MayHold, State.line?, (onlyMotion_release s h).lines]
  · exact .refl s

theorem quiet_take (s : State) (l h : Nat) : Quiet s (s.take l h).1 := by
  unfold State.take
  split
  · exact .refl s
  · split
    · exact .refl s
    · refine (aside_claimTouch s h l).quiet.trans ?_
      dsimp only
      repeat' split
      · exact .refl _
      · exact .refl _
      · next hc _ => exact quiet_decideTake (by simpa using hc)

theorem quiet_yieldHatch (s : State) (l h : Nat) : Quiet s (s.yieldHatch l h).1 := by
  unfold State.yieldHatch
  repeat' split
  · exact .refl s
  · exact (quiet_release ..).trans (aside_evaluate _).quiet
  · exact quiet_release ..
  · exact .refl s

theorem quiet_claimExpiry (s : State) (h : Nat) : Quiet s (s.claimExpiry h) := by
  unfold State.claimExpiry
  split
  · exact Quiet.ite _ (quiet_release ..) (.refl s)
  · exact .refl s

/-! ### A line goes DOWN (R123, R156) -/

theorem mem_holders_of_claim {s : State} {l : Nat} {x : Nat × Option Nat} (hx : x ∈ s.holders)
    (hl : x.2 = some l) : x.1 ∈ s.heldBy l := by
  obtain ⟨c, hc, rfl⟩ := List.mem_map.mp hx
  exact List.mem_map_of_mem (List.mem_filter.mpr ⟨hc, by simpa using hl⟩)

/-- The announced data of a line that left ACTIVE (R115). -/
def Line.forgotten (ln : Line) : Line :=
  { ln with annReach := none, holdAbility := none, estopAbility := none, reach := 0 }

/-- What the loss of a line leaves (R123). -/
structure LineGone (s : State) (l : Nat) (t : State) : Prop where
  pending : t.pending = s.pending
  lines : t.lines = (s.updLine l Line.forgotten).lines
  configs : ConfigsOk s → ConfigsOk t
  window : WindowOk s → WindowOk t
  holders : ∀ p ∈ t.holders, p.2.isSome = true → p ∈ s.holders ∧ p.2 ≠ some l

theorem LineGone.aside {s t u : State} {l : Nat} (h : LineGone s l t) (k : Aside t u) :
    LineGone s l u :=
  ⟨k.pending.trans h.pending, k.lines.trans h.lines, fun hc => k.quiet.configs (h.configs hc),
    fun hw => k.quiet.window (h.window hw), fun p hp => h.holders p (k.holders ▸ hp)⟩

theorem LineGone.ite {s t u : State} {l : Nat} (p : Prop) [Decidable p] (h : LineGone s l t)
    (k : LineGone s l u) : LineGone s l (if p then t else u) := by
  split <;> assumption

theorem lineGone_lineLost (s : State) (l : Nat) : LineGone s l (s.lineLost l) := by
  have gone : ∀ (x : State) (a : Option Arm), Aside s x → LineGone s l
      { ((s.heldBy l).foldl State.release x).updLine l Line.forgotten with arm := a } := by
    intro x a hx
    obtain ⟨hrest, -, -, -, -⟩ := OnlyMotion.foldl onlyMotion_release (s.heldBy l) x
    have hheld : ∀ p ∈ ((s.heldBy l).foldl State.release x).holders, p.2.isSome = true →
        p ∈ s.holders ∧ p.2 ≠ some l := fun p hp hsome => by
      obtain ⟨hpx, hnot⟩ := mem_holders_releases hp hsome
      have hps := hx.holders ▸ hpx
      exact ⟨hps, fun hl => hnot (mem_holders_of_claim hps hl)⟩
    generalize (s.heldBy l).foldl State.release x = y at hrest hheld
    rw [hrest] at hheld ⊢
    exact ⟨hx.pending, congrArg (updateKey Line.num l Line.forgotten) hx.lines, hx.quiet.configs,
      hx.quiet.window, hheld⟩
  have hraise := Aside.ite ((s.heldBy l).any s.busy = true)
    (aside_raiseAlarm s .stationLost (.line l)) (.refl s)
  unfold State.lineLost
  exact LineGone.ite _ ((gone _ _ hraise).aside (aside_evaluate _)) (gone _ _ hraise)

/-- Going DOWN takes the hatches of the line from it, and then its reach. -/
theorem holdersOk_lineGone {s t : State} {l : Nat} (h : LineGone (s.updLine l Line.goDown) l t)
    (hs : HoldersOk s) : HoldersOk t := by
  have hline : ∀ k ≠ l, t.line? k = s.line? k := by
    intro k hk
    rw [State.line?, h.lines]
    exact (line?_updLine_ne _ l k hk Line.forgotten fun _ => rfl).trans
      (line?_updLine_ne s l k hk Line.goDown fun _ => rfl)
  rw [holdersOk_iff] at hs ⊢
  intro p hp k hk
  obtain ⟨hps, hpl⟩ := h.holders p hp (by rw [hk]; rfl)
  rw [State.MayHold, hline k fun e => hpl (e ▸ hk)]
  exact hs p hps k hk

/-- An update of one line that leaves its queue empty or as it was. -/
theorem queuesOk_updLine {s : State} (l : Nat) {f : Line → Line} (hn : ∀ ln, (f ln).num = ln.num)
    (hq : ∀ ln, (f ln).queue.length ≤ ln.queue.length) (hs : QueuesOk s) : QueuesOk (s.updLine l f) := by
  refine ⟨?_, fun x hx => ?_⟩
  · have hnums := map_updateKey Line.num Line.num l f (fun ln _ => hn ln) s.lines
    rw [updLine_lines, hnums]
    exact hs.1
  · obtain ⟨y, hy, rfl⟩ := mem_updateKey.mp hx
    split
    · exact (hq y).trans (hs.2 y hy)
    · exact hs.2 y hy

theorem queuesOk_goDown {s : State} (l : Nat) (hs : QueuesOk s) : QueuesOk (s.updLine l Line.goDown) :=
  queuesOk_updLine l (fun _ => rfl) (fun _ => Nat.zero_le _) hs

theorem keeps_goDown {s : State} {l : Nat} {ln : Line} (hl : s.line? l = some ln)
    (hn : ln.link ≠ .active) : Keeps s (s.updLine l Line.goDown) := by
  refine ⟨rfl, queuesOk_goDown l, id, id, holdersOk_of_lines rfl fun k x hx hact => ?_⟩
  have hk : k ≠ l := fun e => by
    rw [e, hl] at hx
    exact hn (Option.some.inj hx ▸ hact)
  exact ⟨x, by rw [line?_updLine_ne s l k hk Line.goDown fun _ => rfl, hx], hact, rfl, rfl⟩

theorem keeps_lineSilent (s : State) (l : Nat) : Keeps s (s.lineSilent l) := by
  unfold State.lineSilent
  split
  · exact .refl s
  · next ln hln =>
    refine Keeps.ite _ ?_ (.refl s)
    dsimp only
    split
    · have hgone := lineGone_lineLost ((s.updLine l Line.goDown).clearAlarm .classMismatch (.line l)) l
      have hgone' : LineGone (s.updLine l Line.goDown) l _ :=
        ⟨hgone.pending, hgone.lines, hgone.configs, hgone.window, hgone.holders⟩
      refine ⟨hgone.pending, fun hs => ?_, hgone.configs, hgone.window, holdersOk_lineGone hgone'⟩
      rw [QueuesOk, hgone.lines]
      exact queuesOk_updLine l (fun _ => rfl) (fun _ => le_rfl) (queuesOk_goDown l hs)
    · next hact => exact (keeps_goDown hln hact).trans (aside_clearAlarm ..).keeps

end Sys2Proof.Machine

/-! The bounds of the lists and the law of holders, continued: every owner of a request, every event and every
step keeps them. -/

namespace Sys2Proof.Machine

/-! ### Configuration (R172 to R174, R178) -/

/-- With every claim free the law of holders holds. -/
theorem holdersOk_of_free {t : State} (h : ∀ c ∈ t.claims, c.holder = none) : HoldersOk t := by
  intro c hc l hl
  rw [h c hc] at hl
  cases hl

theorem quiet_build {s : State} {c : Items} (hc : ConfigsOk s → itemsWf c = true) : Quiet s (s.build c) := by
  refine ⟨rfl, ?_, fun h => ?_, fun h => ?_, fun _ => holdersOk_of_free fun x hx => ?_⟩
  · show ((s.lines.map _).map _) = _
    rw [List.map_map]
    rfl
  · have hwf := hc h
    obtain ⟨hw, -, hi, hs⟩ := h
    exact ⟨hw, hwf, hi, hs⟩
  · exact h
  · obtain ⟨n, -, rfl⟩ := List.mem_map.mp hx
    rfl

theorem quiet_enterUnconfigured (s : State) : Quiet s s.enterUnconfigured := by
  refine ⟨rfl, ?_, fun h => ?_, fun h => h, fun _ => holdersOk_of_free fun x hx => nomatch hx⟩
  · show ((s.lines.map _).map _) = _
    rw [List.map_map]
    rfl
  · obtain ⟨hw, -, hi, hs⟩ := h
    exact ⟨hw, rfl, hi, hs⟩

theorem quiet_startUp (s : State) : Quiet s s.startUp := by
  have hread : ∀ w, (ConfigsOk s → itemsWf w = true) → Quiet s { s with started := true, working := w } :=
    fun w hw => ⟨rfl, rfl, fun h => ⟨hw h, h.2⟩, id, id⟩
  unfold State.startUp
  dsimp only
  split
  · next c himage =>
    have hwf : ConfigsOk s → itemsWf c = true := fun h => by
      obtain ⟨-, -, hi, -⟩ := h
      rw [show s.image = .whole c from himage] at hi
      exact hi
    refine Quiet.ite _ ((hread c hwf).trans (quiet_build fun h => h.1)) ((hread c hwf).trans ?_)
    exact quiet_enterUnconfigured _
  · exact (hread [] fun _ => rfl).trans (quiet_enterUnconfigured _)

theorem quiet_loaded (s : State) : Quiet s s.loaded := Quiet.ite _ (.refl s) (quiet_startUp s)

theorem quiet_takeScan (s : State) : Quiet s s.takeScan :=
  (quiet_loaded s).trans (aside_pollNext _).quiet

theorem quiet_writeItem (s : State) (l c : Nat) {i : Nat} (hi : i < 256) (v : Word) :
    Quiet s (s.writeItem l c i v).1 := by
  unfold State.writeItem
  repeat' split
  · exact .refl s
  · exact ⟨rfl, rfl, fun h => ⟨itemsWf_setItem h.1 hi v, h.2⟩, id, id⟩
  · exact .refl s

theorem quiet_storeImage (s : State) (l : Nat) : Quiet s (s.storeImage l).1 := by
  unfold State.storeImage
  repeat' split
  · exact .refl s
  · exact ⟨rfl, rfl, fun h => ⟨h.1, h.2.1, rfl, h.1⟩, id, id⟩
  · exact .refl s

theorem fillHeld_tame : Line.Tame Line.fillHeld := ⟨fun _ => rfl, fun _ h => h, fun _ => rfl, fun _ => rfl⟩

theorem keeps_fillHeld {s : State} {c : Items} (hc : s.storing = some c) :
    Keeps s { s with storing := none, image := .whole c, lines := s.lines.map Line.fillHeld } where
  pending := rfl
  queues hs := by
    refine ⟨?_, fun ln hln => ?_⟩
    · rw [List.map_map]
      exact hs.1
    · obtain ⟨x, hx, rfl⟩ := List.mem_map.mp hln
      rw [Line.fillHeld, List.length_map]
      exact hs.2 x hx
  configs h := by
    obtain ⟨hw, hf, -, hst⟩ := h
    rw [hc] at hst
    exact ⟨hw, hf, hst, rfl⟩
  window := id
  holders := holdersOk_of_lines rfl fun k ln hln hact => by
    refine ⟨ln.fillHeld, ?_, hact, rfl, rfl⟩
    rw [State.line?, findKey, List.find?_map]
    exact congrArg _ hln

theorem keeps_storeComplete (s : State) : Keeps s s.storeComplete := by
  unfold State.storeComplete
  split
  · exact .refl s
  · next c hc => exact (keeps_fillHeld hc).trans (Keeps.foldl keeps_transmit _ _)

/-! ### Modes -/

theorem aside_setMode (s : State) (m : ShipMode) : Aside s (s.setMode m) := .of_eq

theorem aside_armHarbour (s : State) (l : Nat) : Aside s (s.armHarbour l).1 := by
  unfold State.armHarbour
  repeat' split
  all_goals first
    | exact .refl s
    | exact .of_eq

theorem aside_confirmHarbour (s : State) (l : Nat) : Aside s (s.confirmHarbour l).1 := by
  unfold State.confirmHarbour
  repeat' split
  all_goals first
    | exact .refl s
    | exact .of_eq

theorem quiet_enterSea (s : State) (l : Nat) : Quiet s (s.enterSea l).1 := by
  unfold State.enterSea
  repeat' split
  all_goals first
    | exact .refl s
    | exact (aside_setMode s .sea).quiet.trans (quiet_releaseAll _)

theorem aside_enterCommission (s : State) (l : Nat) : Aside s (s.enterCommission l).1 := by
  unfold State.enterCommission
  repeat' split
  all_goals first
    | exact .refl s
    | exact aside_setMode s .commission

theorem quiet_leaveCommission (s : State) (l : Nat) : Quiet s (s.leaveCommission l).1 := by
  unfold State.leaveCommission
  repeat' split
  · exact .refl s
  · exact .refl s
  · exact .refl s
  · exact .refl s
  · exact (quiet_build fun h => h.1).trans ((aside_setMode _ .harbour).trans (aside_clearAlarm ..)).quiet
  · exact quiet_enterUnconfigured s

theorem aside_clearEstop (s : State) (l : Nat) : Aside s (s.clearEstop l).1 := by
  unfold State.clearEstop
  repeat' split
  all_goals first
    | exact .refl s
    | exact .of_eq

theorem aside_estopRequest (s : State) (l : Nat) : Aside s (s.estopRequest l).1 := by
  unfold State.estopRequest
  repeat' split
  · exact .refl s
  · exact .refl s
  · exact aside_setLatch s

theorem aside_armExpiry (s : State) : Aside s s.armExpiry := by
  unfold State.armExpiry
  repeat' split
  all_goals first
    | exact .refl s
    | exact .of_eq

/-! ### Lines -/

/-- The data that an ANNOUNCE gives a line that is no holder. -/
theorem holdersOk_of_notHolder {s t : State} {l : Nat} (hc : t.holders = s.holders)
    (hl : ∀ k ≠ l, t.line? k = s.line? k) (hn : HoldersOk s → ∀ x ∈ s.holders, x.2 ≠ some l)
    (hs : HoldersOk s) : HoldersOk t := by
  have hn' := hn hs
  rw [holdersOk_iff] at hs ⊢
  rw [hc]
  intro x hx k hk
  rw [State.MayHold, hl k fun e => hn' x hx (e ▸ hk)]
  exact hs x hx k hk

theorem lines_updLine (s : State) (l : Nat) {f : Line → Line} (hnum : ∀ ln, (f ln).num = ln.num)
    (hq : ∀ ln, (f ln).queue = ln.queue) :
    ((s.updLine l f).lines.map fun ln => (ln.num, ln.queue)) = s.lines.map fun ln => (ln.num, ln.queue) :=
  map_updateKey Line.num (fun ln => (ln.num, ln.queue)) l f (fun ln _ => by rw [hnum, hq]) s.lines

theorem line?_enroll_ne (s : State) (l k : Nat) (hk : k ≠ l) (m : Word) (e h : Bool) :
    (s.enroll l m e h).line? k = s.line? k := line?_updLine_ne s l k hk _ fun _ => rfl

theorem lines_enroll (s : State) (l : Nat) (m : Word) (e h : Bool) :
    ((s.enroll l m e h).lines.map fun ln => (ln.num, ln.queue)) = s.lines.map fun ln => (ln.num, ln.queue) :=
  lines_updLine s l (fun _ => rfl) fun _ => rfl

theorem quiet_enroll {s : State} {l : Nat} (hn : HoldersOk s → ∀ x ∈ s.holders, x.2 ≠ some l) (m : Word)
    (e h : Bool) : Quiet s (s.enroll l m e h) :=
  .of_holders (holdersOk_of_notHolder rfl (fun k hk => line?_updLine_ne s l k hk _ fun _ => rfl) hn)
    (lines_updLine s l (fun _ => rfl) fun _ => rfl)

/-- The line becomes ACTIVE and takes the announced data. -/
theorem quiet_activate {s : State} {l : Nat} {f : Line → Line} (hnum : ∀ ln, (f ln).num = ln.num)
    (hq : ∀ ln, (f ln).queue = ln.queue) (hn : HoldersOk s → ∀ x ∈ s.holders, x.2 ≠ some l) (m : Word)
    (e h : Bool) : Quiet s ((s.updLine l f).enroll l m e h) :=
  .of_holders (holdersOk_of_notHolder rfl (fun k hk => (line?_enroll_ne _ l k hk m e h).trans
      (line?_updLine_ne s l k hk f hnum)) hn)
    ((lines_enroll (s.updLine l f) l m e h).trans (lines_updLine s l hnum hq))

/-- A line that is not ACTIVE is no holder (R118). -/
theorem notHolder_of_link {s : State} {l : Nat} {ln : Line} (hl : s.line? l = some ln)
    (hn : ln.link ≠ .active) (hs : HoldersOk s) : ∀ x ∈ s.holders, x.2 ≠ some l := by
  intro x hx hxl
  obtain ⟨y, hy, hact, -⟩ := (holdersOk_iff s).mp hs x hx l hxl
  rw [hl] at hy
  exact hn (Option.some.inj hy ▸ hact)

theorem quiet_announce (s : State) (l : Nat) (c : LineClass) (m : Word) (e h : Bool) :
    Quiet s (s.announce l c m e h).1 := by
  unfold State.announce
  split
  · exact .refl s
  · next ln hln =>
    split
    · split
      · exact .refl s
      · next hheld =>
        split
        · exact (aside_raiseAlarm ..).quiet
        · refine (quiet_enroll (fun _ x hx hxl => ?_) m e h).trans (aside_clearAlarm ..).quiet
          have hmem := mem_holders_of_claim hx hxl
          rw [not_not.mp hheld] at hmem
          cases hmem
    · next hact =>
      split
      · exact (aside_raiseAlarm ..).quiet
      · refine (quiet_activate ?_ ?_ (notHolder_of_link hln hact) m e h).trans
          ((aside_clearAlarm ..).trans (aside_clearAlarm ..)).quiet
        · exact fun _ => rfl
        · exact fun _ => rfl

theorem quiet_clearCounters (s : State) (l : Nat) : Quiet s (s.clearCounters l).1 := by
  have hzero : Line.Tame Line.zeroCounters := ⟨fun _ => rfl, fun _ h => h, fun _ => rfl, fun _ => rfl⟩
  unfold State.clearCounters
  repeat' split
  · exact .refl s
  · exact .refl s
  · exact quiet_mapLines hzero (fun _ => rfl) rfl rfl rfl id id

theorem quiet_heard (s : State) (l : Nat) : Quiet s (s.heard l) := by
  refine quiet_updLine s l ⟨fun _ => rfl, fun ln h => ?_, fun _ => rfl, fun _ => rfl⟩ fun _ => rfl
  simp [h]

theorem quiet_abandonFrame (s : State) (l : Nat) (c : FrameBreak) : Quiet s (s.abandonFrame l c) :=
  quiet_updLine s l ⟨fun _ => rfl, fun _ h => h, fun _ => rfl, fun _ => rfl⟩ fun _ => rfl

theorem quiet_idleTelegram (s : State) (l len : Nat) : Quiet s (s.idleTelegram l len) := by
  unfold State.idleTelegram
  repeat' split
  · exact .refl s
  · exact .refl s
  · exact quiet_abandonFrame ..
  · exact quiet_heard ..

theorem quiet_framingFail (s : State) (l : Nat) (c : FrameBreak) : Quiet s (s.framingFail l c) := by
  unfold State.framingFail
  repeat' split
  · exact .refl s
  · exact .refl s
  · exact quiet_abandonFrame ..

theorem quiet_crcFail (s : State) (l : Nat) : Quiet s (s.crcFail l) := by
  refine quiet_updLine s l ⟨fun ln => ?_, fun ln h => ?_, fun ln => ?_, fun ln => ?_⟩ fun ln => ?_
  all_goals split
  all_goals first
    | rfl
    | exact h

theorem keeps_reportFallsDue (s : State) (l : Nat) : Keeps s (s.reportFallsDue l) := by
  unfold State.reportFallsDue
  repeat' split
  · exact .refl s
  · exact .refl s
  · refine Quiet.keeps ?_ |>.trans (keeps_transmit ..)
    exact quiet_updLine s l ⟨fun _ => rfl, fun _ h => h, fun _ => rfl, fun _ => rfl⟩ fun _ => rfl
  · exact .refl s

theorem keeps_frameEnds (s : State) (l : Nat) : Keeps s (s.frameEnds l) := by
  refine Quiet.keeps ?_ |>.trans (keeps_transmit ..)
  exact quiet_updLine s l ⟨fun _ => rfl, fun _ h => h, fun _ => rfl, fun _ => rfl⟩ fun _ => rfl

/-! ### The window (R103 to R105) -/

theorem natAbs_clampAngle_le (v : Int) : (clampAngle v).natAbs ≤ 450 := by
  unfold clampAngle
  omega

theorem window_pushReading {w : List (Int × Int)} (hl : w.length ≤ 8)
    (hw : ∀ r ∈ w, r.1.natAbs ≤ 450 ∧ r.2.natAbs ≤ 450) (heel trim : Int) :
    (pushReading w (clampAngle heel, clampAngle trim)).length ≤ 8 ∧
      ∀ r ∈ pushReading w (clampAngle heel, clampAngle trim),
        r.1.natAbs ≤ 450 ∧ r.2.natAbs ≤ 450 := by
  unfold pushReading
  refine ⟨?_, fun r hr => ?_⟩
  · rw [List.length_append, List.length_singleton]
    split
    · omega
    · rw [List.length_tail]; omega
  · rcases List.mem_append.mp hr with hr | hr
    · refine hw r ?_
      split at hr
      · exact hr
      · exact List.mem_of_mem_tail hr
    · rw [List.mem_singleton.mp hr]
      exact ⟨natAbs_clampAngle_le heel, natAbs_clampAngle_le trim⟩

theorem quiet_acceptReading (s : State) (heel trim : Int) (b : Bool) :
    Quiet s (s.acceptReading heel trim b) := by
  unfold State.acceptReading
  dsimp only
  refine Quiet.trans ?_ (aside_attitudeHandOn ..).quiet
  have hpush : ∀ a : Attitude, a.window = pushReading s.att.window (clampAngle heel, clampAngle trim) →
      Quiet s { s with att := a } := fun a ha => by
    refine ⟨rfl, rfl, id, fun hw => ?_, id⟩
    rw [WindowOk, ha]
    exact window_pushReading hw.1 hw.2 heel trim
  exact Quiet.ite _ ((hpush _ rfl).trans (aside_clearAlarm ..).quiet) (hpush _ rfl)

theorem quiet_attitudeFrame (s : State) (heel trim : Word) (flags crc : Byte) (b : Bool) :
    Quiet s (s.attitudeFrame heel trim flags crc b) := by
  have hrx : ∀ a : Attitude, a.window = s.att.window → Quiet s { s with att := a } := fun a ha =>
    (Aside.of_eq (window := ha)).quiet
  unfold State.attitudeFrame
  exact Quiet.ite _ (hrx _ rfl) (Quiet.ite _ (hrx _ rfl)
    ((hrx { s.att with rx := .hunting } rfl).trans (quiet_acceptReading ..)))

theorem quiet_attitudeSilent (s : State) (b : Bool) : Quiet s (s.attitudeSilent b) := by
  unfold State.attitudeSilent
  have hempty : Quiet s { s with att := { s.att with window := [], silence := none } } :=
    ⟨rfl, rfl, id, fun _ => ⟨Nat.zero_le _, fun _ h => nomatch h⟩, id⟩
  exact Quiet.ite _ (hempty.trans ((aside_raiseAlarm ..).trans (aside_attitudeHandOn ..)).quiet) (.refl s)

/-! ### Owners -/

theorem aside_readReply {α : Type} (s : State) (p : List Byte) (t : Byte) (b : Nat) (l : List α)
    (enc : Nat → α → List Byte) : Aside s (s.readReply p t b l enc).1 := by
  unfold State.readReply
  split
  · exact .refl s
  · exact .of_eq

/-- An owner leaves the transmit queues alone and keeps the bounds and the law of holders. -/
theorem quiet_owner {owner : State → Nat → Reply} (ho : IsOwner owner) (s : State) (l : Nat) :
    Quiet s (owner s l).1 := by
  cases ho with
  | announce p => unfold requestAnnounce; split; exacts [.refl s, quiet_announce ..]
  | take p => unfold requestTake; split; exacts [.refl s, quiet_take ..]
  | yield p => unfold requestYield; split; exacts [.refl s, quiet_yieldHatch ..]
  | run p => unfold requestRun; split; exacts [.refl s, (aside_run ..).quiet]
  | hold p => unfold requestHold; split; exacts [.refl s, (aside_renewHold ..).quiet]
  | halt p => unfold requestHalt; split; exacts [.refl s, (aside_haltRequest ..).quiet]
  | clearFault p => unfold requestClearFault; split; exacts [.refl s, (aside_clearFault ..).quiet]
  | clearPump p => unfold requestClearPump; split; exacts [.refl s, (aside_clearPump ..).quiet]
  | clearEstop p => unfold requestClearEstop; split; exacts [.refl s, (aside_clearEstop ..).quiet]
  | clearCounters p => unfold requestClearCounters; split; exacts [.refl s, quiet_clearCounters ..]
  | estop p => unfold requestEstop; split; exacts [.refl s, (aside_estopRequest ..).quiet]
  | armHarbour p =>
    unfold requestArmHarbour modeReply; split; exacts [.refl s, (aside_armHarbour ..).quiet]
  | confirmHarbour p =>
    unfold requestConfirmHarbour modeReply; split; exacts [.refl s, (aside_confirmHarbour ..).quiet]
  | modeSea p => unfold requestModeSea modeReply; split; exacts [.refl s, quiet_enterSea ..]
  | modeCommission p =>
    unfold requestModeCommission modeReply; split; exacts [.refl s, (aside_enterCommission ..).quiet]
  | leaveCommission p =>
    unfold requestLeaveCommission modeReply; split; exacts [.refl s, quiet_leaveCommission ..]
  | ackOne p =>
    unfold requestAckOne State.ackOne
    repeat' split
    all_goals first
      | exact .refl s
      | exact Aside.quiet .of_eq
  | ackAll p =>
    unfold requestAckAll State.ackAll
    repeat' split
    all_goals first
      | exact .refl s
      | exact Aside.quiet .of_eq
  | readHatch p =>
    unfold requestReadHatch
    repeat' split
    all_goals first
      | exact .refl s
      | exact Aside.quiet .of_eq
  | readAlarm p => unfold requestReadAlarm; split; exacts [.refl s, .refl s]
  | write p =>
    unfold requestWrite
    split
    · exact .refl s
    · next c i v h =>
      refine quiet_writeItem s l c ?_ v
      unfold writeArgs at h
      split at h
      · cases h; exact BitVec.isLt _
      · cases h
  | store p => unfold requestStore; split; exacts [.refl s, quiet_storeImage ..]
  | badArg => exact .refl s
  | _ => exact (aside_readReply ..).quiet

/-! ### Commands -/

theorem aside_advance (s : State) (dt : Nat) : Aside s (s.advance dt) := .of_eq

theorem keeps_live {s : State} (dt : Nat) {f : State → State} (hf : ∀ x, Keeps x (f x)) :
    Keeps s (s.live dt f) :=
  Keeps.ite _ ((aside_advance s dt).keeps.trans (hf _)) (aside_advance s dt).keeps

theorem keeps_onLine {s t : State} {dt l : Nat} {f : State → State} (hf : ∀ x, Keeps x (f x))
    (h : s.onLine dt l f = .next t) : Keeps s t := by
  unfold State.onLine at h
  split at h
  · exact next_inj h ▸ keeps_live dt hf
  · cases h

theorem keeps_onTelegram {s : State} {l len : Nat} {act : State → Line → State}
    (ha : ∀ x ln, x.HasRoom l → Keeps x (act x ln)) : Keeps s (s.onTelegram l len act) := by
  unfold State.onTelegram
  split
  · exact .refl s
  · next ln hln =>
    refine Keeps.ite _ (.refl s) (Keeps.ite _ (quiet_abandonFrame ..).keeps ?_)
    dsimp only
    split
    · refine (quiet_heard s l).keeps.trans (Quiet.keeps ?_)
      exact quiet_updLine _ l ⟨fun _ => rfl, fun _ h => h, fun _ => rfl, fun _ => rfl⟩ fun _ => rfl
    · next hfull =>
      refine (quiet_heard s l).keeps.trans (ha _ ln (HasRoom.quiet (s := s) (fun x hx => ?_) (quiet_heard s l)))
      rw [hln] at hx
      rw [← Option.some.inj hx]
      omega

theorem keeps_request {s : State} {l len : Nat} {seq kind : Byte} {owner : State → Nat → Reply}
    (ho : IsOwner owner) : Keeps s (s.request l len seq kind owner) := by
  refine keeps_onTelegram fun x _ hroom => Keeps.ite _ (keeps_answer hroom ..) ?_
  have hq := quiet_owner ho x l
  exact hq.keeps.trans (keeps_answer (HasRoom.quiet hroom hq) ..)

theorem keeps_live_next {s t : State} {dt : Nat} {f : State → State} (hf : ∀ x, Keeps x (f x))
    (h : (Host.Outcome.next (s.live dt f) : Host.Outcome State Fault Refusal) = .next t) : Keeps s t :=
  next_inj h ▸ keeps_live dt hf

theorem keeps_anyTelegram (s : State) (l : Nat) (seq kind : Byte) (p : List Byte) :
    Keeps s (s.anyTelegram l seq kind p) := by
  unfold State.anyTelegram
  split
  · exact (quiet_idleTelegram ..).keeps
  · split
    · next owner h => exact keeps_request (isOwner_of_ownerOf h p)
    · exact keeps_onTelegram fun _ _ hroom => keeps_answer hroom ..

/-- Every reset leaves the lists empty (R154, R167). -/
theorem keeps_afterReset {s x : State} (hp : x.pending = s.pending) (hi : x.image = s.image) (p : Power)
    (straps : Straps) (r : Retained) : Keeps s (x.afterReset p straps r) where
  pending := hp
  queues _ := by
    show (((upTo 6).map (Line.reset straps)).map Line.num).Nodup ∧
      ∀ ln ∈ (upTo 6).map (Line.reset straps), ln.queue.length ≤ 4
    rw [List.map_map]
    refine ⟨nodup_upTo 6, fun ln hln => ?_⟩
    obtain ⟨n, -, rfl⟩ := List.mem_map.mp hln
    exact Nat.zero_le _
  configs h := by
    obtain ⟨-, -, himage, -⟩ := h
    refine ⟨rfl, rfl, ?_, rfl⟩
    show imageOk x.image = true
    rw [hi]
    exact himage
  window _ := ⟨Nat.zero_le _, fun _ h => nomatch h⟩
  holders _ := holdersOk_of_free fun _ h => nomatch h

theorem aside_releaseReset (s : State) : Aside s s.releaseReset := Aside.ite _ .of_eq (.refl s)

theorem keeps_released {s x : State} (hp : x.pending = s.pending) (hi : x.image = s.image) (p : Power)
    (straps : Straps) (r : Retained) : Keeps s (x.afterReset p straps r).releaseReset :=
  (keeps_afterReset hp hi p straps r).trans (aside_releaseReset _).keeps

theorem aside_resetIn (s : State) (dt : Nat) (b : Bool) : Aside s { s.advance dt with resetIn := b } :=
  .of_eq

theorem keeps_event {c : Instr} {s t : State} (hr : c.request? = none) (h : exec c s = .next t) :
    Keeps s t := by
  cases c with
  | idle dt l seq p => exact keeps_onLine (fun x => (quiet_idleTelegram x l p.length).keeps) h
  | unknownKind dt l seq kind p => exact keeps_onLine (fun x => keeps_anyTelegram x l seq kind p) h
  | storeWriteComplete dt => exact keeps_live_next keeps_storeComplete h
  | crcError dt l => exact keeps_onLine (fun x => (quiet_crcFail x l).keeps) h
  | framingError dt l cause => exact keeps_onLine (fun x => (quiet_framingFail x l cause).keeps) h
  | silenceExpiry dt l => exact keeps_onLine (fun x => keeps_lineSilent x l) h
  | reportDue dt l => exact keeps_onLine (fun x => keeps_reportFallsDue x l) h
  | frameSent dt l => exact keeps_onLine (fun x => keeps_frameEnds x l) h
  | attitudeTelegram dt heel trim flags crc b =>
    exact keeps_live_next (fun x => (quiet_attitudeFrame x heel trim flags crc b).keeps) h
  | attitudeFramingError dt =>
    exact keeps_live_next (f := State.attitudeBreak) (fun _ => Aside.keeps .of_eq) h
  | attitudeSilence dt b => exact keeps_live_next (fun x => (quiet_attitudeSilent x b).keeps) h
  | scan dt => exact keeps_live_next (fun x => (quiet_takeScan x).keeps) h
  | fieldReply dt a bytes order b =>
    exact keeps_live_next (fun x => (aside_fieldReply x a bytes order b).keeps) h
  | slotEnd dt a b => exact keeps_live_next (fun x => (aside_slotEnd x a b).keeps) h
  | dwellComplete dt k n => exact keeps_live_next (fun x => (aside_completeDwell x k n).keeps) h
  | stepTimeout dt k => exact keeps_live_next (fun x => (aside_stepTimeout x k).keeps) h
  | holdWindowExpiry dt k => exact keeps_live_next (fun x => (aside_holdLapse x k).keeps) h
  | pressureWatchExpiry dt k => exact keeps_live_next (fun x => (aside_watchExpiry x k).keeps) h
  | claimIdleExpiry dt k => exact keeps_live_next (fun x => (quiet_claimExpiry x k).keeps) h
  | feedbackDeadline dt n => exact keeps_live_next (fun x => (aside_feedbackDeadline x n).keeps) h
  | settleEnd dt n => exact keeps_live_next (fun x => (aside_settleEnd x n).keeps) h
  | pumpIdleStop dt => exact keeps_live_next (fun x => (aside_idleStop x).keeps) h
  | armExpiry dt => exact keeps_live_next (fun x => (aside_armExpiry x).keeps) h
  | estopInActive dt =>
    have hpin : Aside s { s with estopIn := true } := .of_eq
    exact hpin.keeps.trans (keeps_live_next
      (fun x => (Aside.ite _ (.refl x) (aside_setLatch x)).keeps) h)
  | estopInInactive dt =>
    have hpin : Aside s { s with estopIn := false } := .of_eq
    exact hpin.keeps.trans (keeps_live_next (fun x => .refl x) h)
  | powerOn dt straps => exact next_inj h ▸ keeps_released (by rfl) (by rfl) ..
  | external dt =>
    obtain rfl := next_inj h
    cases hp : s.power
    · exact keeps_afterReset (by rfl) (by rfl) ..
    · exact (aside_resetIn s dt true).keeps
    · exact (aside_resetIn s dt true).keeps
  | supplyHold dt =>
    obtain rfl := next_inj h
    refine Quiet.keeps (quiet_mapLines (f := Line.inHold) ⟨fun _ => rfl, fun _ h => h, fun _ => rfl,
      fun _ => rfl⟩ (fun _ => rfl) rfl rfl rfl (fun h => ?_) id)
    exact ⟨h.1, h.2.1, h.2.2.1, rfl⟩
  | supply dt straps =>
    obtain rfl := next_inj h
    cases hp : s.power
    · exact (aside_advance s dt).keeps
    · exact (aside_advance s dt).keeps
    · exact keeps_released (by rfl) (by rfl) ..
  | resetRelease dt straps =>
    obtain rfl := next_inj h
    cases hp : s.power
    · exact (aside_resetIn s dt false).keeps
    · exact keeps_released (by rfl) (by rfl) ..
    · exact (aside_resetIn s dt false).keeps
  | _ => cases hr

theorem keeps_exec {c : Instr} {s t : State} (h : exec c s = .next t) : Keeps s t := by
  cases hr : c.request? with
  | some r =>
    obtain ⟨owner, ho, hexec⟩ := exec_request hr
    exact keeps_onLine (fun x => keeps_request ho) ((hexec s).symm.trans h)
  | none => exact keeps_event hr h

/-- Settles O4, by the frame of every command. -/
theorem commandsLeaveTheQueue : Obligations.CommandsLeaveTheQueue := by
  unfold Obligations.CommandsLeaveTheQueue
  exact fun _ _ _ h => (keeps_exec h).pending

/-- A step keeps the bounds of the lines, the configuration and the window, and the law of holders. -/
theorem step_keeps_lists {s t : State} (h : step s = .next t) :
    (QueuesOk s → QueuesOk t) ∧ (ConfigsOk s → ConfigsOk t) ∧ (WindowOk s → WindowOk t) ∧
      (HoldersOk s → HoldersOk t) := by
  unfold step at h
  split at h
  · have hidle := Quiet.ite (s.power = .running) (quiet_loaded s) (.refl s)
    exact next_inj h ▸ ⟨hidle.keeps.queues, hidle.configs, hidle.window, hidle.holders⟩
  · have hk := keeps_exec h
    exact ⟨hk.queues, hk.configs, hk.window, hk.holders⟩

/-- Settles O55, by the law of holders of every command. -/
theorem stepKeepsTheHolders : Obligations.StepKeepsTheHolders := by
  unfold Obligations.StepKeepsTheHolders
  exact fun s t hs h => (step_keeps_lists h).2.2.2 hs

/-! ### The Alarm List and the pumps (R92, R145) -/

/-- Where no pump is STARTING the start of one leaves at most one STARTING. -/
theorem pumpsOk_start {s : State} (h : PumpsOk s) (hnone : ∀ p ∈ s.pumps, p.st ≠ .starting) (n : Nat)
    {f : Pump → Pump} (hf : ∀ p, (f p).num = p.num) : PumpsOk (s.updPump n f) := by
  have hnums : (s.updPump n f).pumps.map Pump.num = s.pumps.map Pump.num :=
    map_updateKey Pump.num Pump.num n f (fun p _ => hf p) s.pumps
  refine ⟨?_, hnums ▸ h.2⟩
  have hall : ∀ p ∈ (s.updPump n f).pumps.filter (fun p => p.st == .starting), p.num = n := by
    intro p hp
    obtain ⟨hmem, hst⟩ := List.mem_filter.mp hp
    obtain ⟨q, hq, rfl⟩ := mem_updateKey.mp hmem
    split
    · next hk => exact (hf q).trans hk
    · next hk =>
      rw [if_neg hk] at hst
      exact (hnone q hq (by simpa using hst)).elim
  have hnodup : (((s.updPump n f).pumps.filter fun p => p.st == .starting).map Pump.num).Nodup :=
    (hnums ▸ h.2 : ((s.updPump n f).pumps.map Pump.num).Nodup).sublist (List.filter_sublist.map _)
  rw [List.eq_replicate_of_mem (List.forall_mem_map.mpr hall), List.nodup_replicate,
    List.length_map] at hnodup
  exact hnodup

theorem pumpsOk_startPump {s : State} (h : PumpsOk s) : PumpsOk s.startPump := by
  unfold State.startPump
  split
  · exact h
  · next hnone =>
    split
    · exact h
    · next p _ =>
      dsimp only
      rw [drivePump_eq]
      exact pumpsOk_start h (by simpa using hnone) p.num fun _ => rfl

/-- Beside what leaves every law alone, only the start of a pump changes a pump, and no move an alarm. -/
theorem pumps_move {f g : Focus} {s t : State} (h : Move f s g t) :
    Still s t ∨ t.alarms = s.alarms ∧ (t.pumps = s.pumps ∨ t = s.startPump) := by
  have drop : ∀ x : State, x.noteEmpty.alarms = x.alarms ∧ x.noteEmpty.pumps = x.pumps := fun x => by
    unfold State.noteEmpty
    split <;> exact ⟨rfl, rfl⟩
  cases h with
  | still h => exact .inl h
  | unqueue _ _ =>
    refine .inr ?_
    unfold State.dropEntry
    split
    · exact ⟨(drop _).1, .inl (drop _).2⟩
    · exact ⟨rfl, .inl rfl⟩
  | @endMotion _ h o _ _ =>
    refine .inr ?_
    rw [endMotion_eq, motionShut_eq]
    unfold State.dropGrant
    split
    · exact ⟨(drop _).1, .inl (drop _).2⟩
    · exact ⟨rfl, .inl rfl⟩
  | grant _ _ _ _ _ => exact .inr (by rw [openValves_eq]; exact ⟨rfl, .inl rfl⟩)
  | write _ _ _ => exact .inr (by rw [writeDriven_eq]; exact ⟨rfl, .inl rfl⟩)
  | startPump _ => exact .inr ⟨by rw [startPump_eq], .inr rfl⟩
  | newBudget b m =>
    refine .inr ?_
    have shed : ∀ (gs : List Grant) (x : State),
        (State.shedLoop gs x).alarms = x.alarms ∧ (State.shedLoop gs x).pumps = x.pumps := fun gs => by
      induction gs with
      | nil => exact fun _ => ⟨rfl, rfl⟩
      | cons g gs ih =>
        intro x
        unfold State.shedLoop
        split
        · exact ⟨rfl, rfl⟩
        · have hone : (x.shedOne g).alarms = x.alarms ∧ (x.shedOne g).pumps = x.pumps := by
            rw [State.shedOne, State.takeShed, shutValves_eq]
            exact ⟨rfl, rfl⟩
          exact ⟨(ih _).1.trans hone.1, (ih _).2.trans hone.2⟩
    exact ⟨(shed _ _).1, .inl (shed _ _).2⟩
  | empty _ =>
    refine .inr ?_
    unfold State.emptyGrants
    split <;> exact ⟨rfl, .inl rfl⟩
  | _ => exact .inr ⟨rfl, .inl rfl⟩

theorem alarmsPumps_move {f g : Focus} {s t : State} (hs : AlarmsOk s ∧ PumpsOk s) (h : Move f s g t) :
    AlarmsOk t ∧ PumpsOk t := by
  obtain ⟨ha, hp⟩ := hs
  rcases pumps_move h with h | ⟨halarms, hpumps | rfl⟩
  · exact ⟨h.alarms ha, h.pumps hp⟩
  · exact ⟨by rwa [AlarmsOk, halarms], by rwa [PumpsOk, hpumps]⟩
  · exact ⟨by rwa [AlarmsOk, halarms], pumpsOk_startPump hp⟩

theorem Goes.alarmsPumps {f g : Focus} {s t : State} (h : Goes f s g t) (hs : AlarmsOk s ∧ PumpsOk s) :
    AlarmsOk t ∧ PumpsOk t :=
  h.keeps (P := fun _ x => AlarmsOk x ∧ PumpsOk x) (fun _ _ _ _ => alarmsPumps_move) hs

theorem alarmsPumps_event {s t : State} (hs : AlarmsOk s ∧ PumpsOk s) (h : Event s t) :
    AlarmsOk t ∧ PumpsOk t := by
  cases h with
  | moves h => exact h.alarmsPumps hs
  | fresh h ha => exact ⟨ha hs.1, h.pumps⟩
  | mode m _ => exact hs
  | unlatch => exact hs
  | stop hl => exact (moves_setLatch hl).alarmsPumps hs

theorem alarmsPumps_step {s t : State} (hs : AlarmsOk s ∧ PumpsOk s) (h : step s = .next t) :
    AlarmsOk t ∧ PumpsOk t :=
  (turns_step h).keeps (P := fun x => AlarmsOk x ∧ PumpsOk x) (fun _ _ => alarmsPumps_event)
    (fun _ _ hs _ => hs) hs

/-- Settles O54, by the frames of every command and the moves of the Alarm List and the pumps. -/
theorem stepKeepsTheBounds : Obligations.StepKeepsTheBounds := by
  unfold Obligations.StepKeepsTheBounds
  rintro s t ⟨ha, hq, hc, hw, hp⟩ h
  obtain ⟨hqueues, hconfigs, hwindow, -⟩ := step_keeps_lists h
  obtain ⟨ha', hp'⟩ := alarmsPumps_step ⟨ha, hp⟩ h
  exact ⟨ha', hqueues hq, hconfigs hc, hwindow hw, hp'⟩

end Sys2Proof.Machine

/-! The reset state, the idle step and the scan (R22, R23, R170, R178). -/

namespace Sys2Proof.Machine

/-! ### The reset state -/

/-- Settles O1. -/
theorem stepTakesTheFrontCommand : Obligations.StepTakesTheFrontCommand := by
  unfold Obligations.StepTakesTheFrontCommand
  exact fun _ _ _ => rfl

theorem mem_upTo_iff {n k : Nat} : k ∈ upTo n ↔ 1 ≤ k ∧ k ≤ n := by
  simp only [upTo, List.mem_map, List.mem_range]
  constructor
  · rintro ⟨i, hi, rfl⟩; omega
  · rintro ⟨h1, h2⟩; exact ⟨k - 1, by omega, by omega⟩

/-- What a reset leaves has the values of the reset tables. -/
theorem atReset_afterReset (s : State) (p : Power) (straps : Straps) (r : Retained) :
    AtReset (s.afterReset p straps r) := by
  refine ⟨rfl, rfl, rfl, rfl, rfl, rfl, rfl, rfl, rfl, rfl, rfl, rfl, rfl, rfl, rfl, rfl, ?_⟩
  intro ln hln
  obtain ⟨l, hl, rfl⟩ := List.mem_map.mp hln
  obtain ⟨h1, h6⟩ := mem_upTo_iff.mp hl
  exact ⟨l, h1, h6, rfl, rfl, rfl, rfl, rfl, rfl, rfl, rfl, rfl, rfl, rfl, rfl, rfl, rfl, rfl, rfl, rfl⟩

/-- The reset state is what a POWER_ON reset leaves of itself. -/
theorem reset_afterReset : State.reset.afterReset .running 0 Retained.powerOn = State.reset := rfl

theorem atReset_reset : AtReset State.reset :=
  reset_afterReset ▸ atReset_afterReset State.reset .running 0 Retained.powerOn

theorem step_of_empty {s : State} (h : s.pending = []) : step s = .next s.idleStep := by
  unfold step
  rw [h]

theorem step_reset : step State.reset = .next { State.reset with
    started := true
    mode := .unconfigured
    alarms := ⟨[⟨.configInvalid, .part, 0, .raisedUnack⟩], false⟩ } := rfl

/-- Settles O2. -/
theorem resetStateAndTheIdleStep : Obligations.ResetStateAndTheIdleStep := by
  unfold Obligations.ResetStateAndTheIdleStep
  refine ⟨atReset_reset, rfl, rfl, rfl, fun s hp h => ?_, fun s hp hs hr => ?_, step_reset⟩
  · rw [step_of_empty hp, idleStep_of_started h]
  · rw [step_of_empty hp, State.idleStep, if_pos hr, loaded_of_not_started hs]

/-! ### The invariants at reset -/

/-- The reset state is fresh. -/
theorem fresh_reset : Fresh State.reset :=
  reset_afterReset ▸ fresh_afterReset State.reset .running 0 Retained.powerOn

theorem seaIn_of_fresh {t : State} (h : Fresh t) : SeaIn .whole t :=
  seaIn_of_idle h.motionIn fun o ho => (isBusy_eq_false_iff o).mpr (by simp [h.idle o ho])

theorem valvesIn_of_fresh {t : State} (h : Fresh t) : ValvesIn t :=
  ⟨h.stepsOk, h.points, fun _ hp => (hp.out (h.outs ..)).elim⟩

/-- Settles O60: the reset state has no records. -/
theorem invariantsHoldAtReset : Obligations.InvariantsHoldAtReset := by
  unfold Obligations.InvariantsHoldAtReset
  have hf := fresh_reset
  refine ⟨⟨Nat.zero_le _, List.nodup_nil⟩, ⟨by decide, by decide⟩, ⟨rfl, rfl, rfl, rfl⟩,
    ⟨Nat.zero_le _, fun _ h => (nomatch h)⟩, hf.pumps, fun _ h => (nomatch h),
    (motionOk_iff _).mpr hf.motionIn, (flowOk_iff _).mpr hf.flowIn, fun h => (nomatch h),
    (seaOk_iff _).mpr (seaIn_of_fresh hf), hf.stepsOk,
    valvesOk_of_valvesIn hf.motionIn (valvesIn_of_fresh hf), fun h => (nomatch h), hf.points⟩

/-! ### The scan (R23, R170) -/

theorem live_of_running {s : State} (h : s.power = .running) (dt : Nat) (f : State → State) :
    s.live dt f = f (s.advance dt) := if_pos h

theorem live_of_unpowered {s : State} (h : s.power ≠ .running) (dt : Nat) (f : State → State) :
    s.live dt f = s.advance dt := if_neg h

/-- What the passage of time makes of a running part. -/
theorem advance_of_running {s : State} (h : s.power = .running) (dt : Nat) :
    s.advance dt = { s with
      now := s.now + dt
      scan := s.scanAt (s.now + dt)
      retained := { s.retained with ranMs := s.retained.ranMs + dt } } := by
  simp [State.advance, h]

theorem scanAt_of_waiting {s : State} (h : s.scan.place = none ∨ s.scan.replied = false) (t : Nat) :
    s.scanAt t = s.scan := by
  unfold State.scanAt
  split
  · rfl
  · next hp =>
    split
    · rfl
    · have hr : s.scan.replied = false := h.resolve_left (by simp [hp])
      simp [hr]

theorem scan_advance_of_waiting {s : State} (h : s.scan.place = none ∨ s.scan.replied = false)
    (dt : Nat) : (s.advance dt).scan = s.scan := by
  unfold State.advance
  dsimp only
  split
  · exact scanAt_of_waiting h _
  · rfl

/-- The slot of the next place. -/
theorem scanAt_of_replied {s : State} {k : Nat} {n : Node} (hp : s.scan.place = some k)
    (hr : s.scan.replied = true) (hn : s.nodes[k + 1]? = some n) (t : Nat) :
    s.scanAt t = if 5 * s.scan.due + 2 * (k + 1) ≤ 5 * (t + 20) then s.scan.polling (k + 1) n
      else s.scan := by
  unfold State.scanAt Scan.slotReached
  simp [hp, hn, hr]

theorem exec_scan {s : State} (hr : s.power = .running) (dt : Nat) :
    exec (.scan dt) s = .next (s.advance dt).loaded.pollNext :=
  congrArg _ (live_of_running hr dt State.takeScan)

theorem exec_scan_started {s : State} (hr : s.power = .running) (hs : s.started = true) (dt : Nat) :
    exec (.scan dt) s = .next (s.advance dt).pollNext := by
  rw [exec_scan hr, loaded_of_started (s := s.advance dt) hs]

/-- Start-up leaves the scan without a turn. -/
theorem place_startUp (s : State) : s.startUp.scan.place = none := by
  unfold State.startUp
  dsimp only
  split
  · split <;> rfl
  · rfl

theorem advance_zero_of_waiting {s : State} (h : s.scan.place = none ∨ s.scan.replied = false) :
    s.advance 0 = s := by
  have hscan := scan_advance_of_waiting h 0
  unfold State.advance at hscan ⊢
  dsimp only at hscan
  rw [hscan]
  split <;> rfl

theorem pollNext_of_idle {s : State} (hp : s.scan.place = none) : s.pollNext = s.beginScan := by
  unfold State.pollNext
  rw [hp]

theorem beginScan_of_due {s : State} {n : Node} {rest : List Node} (hn : s.nodes = n :: rest)
    (hd : s.scan.due ≤ s.now) : s.beginScan = { s with
      scan := ({ s.scan with no := s.scan.no + 1, due := s.scan.due + 20 } : Scan).polling 0 n } := by
  unfold State.beginScan State.beginTurn
  simp [hn, Nat.not_lt.mpr hd]

theorem beginScan_of_not_due {s : State} (h : s.nodes = [] ∨ s.now < s.scan.due) : s.beginScan = s :=
  if_pos (by simpa using h)

theorem pollNext_of_turn {s : State} {k : Nat} (hp : s.scan.place = some k)
    (h : s.scan.replied = false ∨ s.slotBegun (k + 1) = false) : s.pollNext = s := by
  unfold State.pollNext
  rw [hp]
  refine if_neg fun hc => ?_
  rcases h with h | h
  · rw [hc.1] at h; cases h
  · rw [hc.2] at h; cases h

theorem beginTurn_of_node {s : State} {k : Nat} {n : Node} (hn : s.nodes[k]? = some n) :
    s.beginTurn k = { s with scan := s.scan.polling k n } := by
  unfold State.beginTurn
  rw [hn]

theorem pollNext_of_slot {s : State} {k : Nat} {n : Node} (hp : s.scan.place = some k)
    (hr : s.scan.replied = true) (hb : s.slotBegun (k + 1) = true) (hn : s.nodes[k + 1]? = some n) :
    s.pollNext = { s with scan := s.scan.polling (k + 1) n } := by
  unfold State.pollNext
  rw [hp]
  exact (if_pos ⟨hr, hb⟩).trans (beginTurn_of_node hn)

theorem slotBegun_advance {s : State} (h : s.power = .running) {dt : Nat}
    (hscan : (s.advance dt).scan = s.scan) (k : Nat) :
    (s.advance dt).slotBegun k = decide (s.scan.due + 2 * k / 5 ≤ s.now + dt + 20) := by
  rw [State.slotBegun, hscan, advance_of_running h]

/-- A SCAN after the first poll of a scan: the next node's slot decides. -/
theorem exec_scan_next {s : State} {k : Nat} {n : Node} (hr : s.power = .running)
    (hs : s.started = true) (hp : s.scan.place = some k) (hreplied : s.scan.replied = true)
    (hn : s.nodes[k + 1]? = some n) (dt : Nat) :
    exec (.scan dt) s = .next (if s.scan.due + 2 * (k + 1) / 5 ≤ s.now + dt + 20 then
      { s.advance dt with scan := s.scan.polling (k + 1) n } else s.advance dt) := by
  rw [exec_scan_started hr hs]
  have hadv : (s.advance dt).scan = if 5 * s.scan.due + 2 * (k + 1) ≤ 5 * (s.now + dt + 20) then
      s.scan.polling (k + 1) n else s.scan := by
    rw [advance_of_running hr]
    exact scanAt_of_replied hp hreplied hn _
  by_cases hreached : 5 * s.scan.due + 2 * (k + 1) ≤ 5 * (s.now + dt + 20)
  · rw [if_pos hreached] at hadv
    have hstay : (s.advance dt).pollNext = s.advance dt :=
      pollNext_of_turn (k := k + 1) (by rw [hadv]; rfl) (.inl (by rw [hadv]; rfl))
    rw [hstay, if_pos (by omega), ← hadv]
  · rw [if_neg hreached] at hadv
    have hbegun := slotBegun_advance hr hadv (k + 1)
    split
    · next hb =>
      rw [pollNext_of_slot (n := n) (by rw [hadv]; exact hp) (by rw [hadv]; exact hreplied)
        (hbegun.trans (decide_eq_true hb)) hn, hadv]
    · next hb =>
      rw [pollNext_of_turn (by rw [hadv]; exact hp) (.inr (hbegun.trans (decide_eq_false hb)))]

/-- Settles O40. -/
theorem scanPollsTheFirstNode : Obligations.ScanPollsTheFirstNode := by
  unfold Obligations.ScanPollsTheFirstNode
  refine ⟨fun s dt hr hs => ?_, fun s dt n rest hr hs hn hp hd => ?_,
    fun s dt k n polled hr hs hp hreplied hn hpolled => ?_,
    fun s dt hr => ⟨?_, fun h => scan_advance_of_waiting h dt, fun h hs => ?_⟩⟩
  · obtain ⟨hstarted, -, hpower, -⟩ := startUp_keeps (s.advance dt)
    rw [exec_scan hr, loaded_of_not_started (s := s.advance dt) hs,
      exec_scan_started (hpower.trans hr) hstarted, advance_zero_of_waiting (.inl (place_startUp _))]
  · have hscan := scan_advance_of_waiting (.inl hp) dt
    have hdue : (s.advance dt).scan.due ≤ (s.advance dt).now := by
      rw [hscan, advance_of_running hr]
      exact hd
    rw [exec_scan_started hr hs, pollNext_of_idle (by rw [hscan]; exact hp), beginScan_of_due (s := s.advance dt) hn hdue, hscan]
    rfl
  · have hpoll : polled = s.scan.polling (k + 1) n := hpolled
    subst hpoll
    have hnext := exec_scan_next hr hs hp hreplied hn dt
    refine ⟨?_, fun h => by rw [hnext, if_pos h], fun h => by rw [hnext, if_neg (by omega)]⟩
    rw [advance_of_running hr]
    exact scanAt_of_replied hp hreplied hn _
  · rw [advance_of_running hr]
  · rw [exec_scan_started hr hs]
    rcases h with ⟨hp, hidle⟩ | ⟨hp, hreplied⟩
    · have hscan := scan_advance_of_waiting (.inl hp) dt
      rw [pollNext_of_idle (by rw [hscan]; exact hp), beginScan_of_not_due]
      rw [hscan, advance_of_running hr]
      exact hidle
    · have hscan := scan_advance_of_waiting (.inr hreplied) dt
      obtain ⟨k, hk⟩ := Option.ne_none_iff_exists'.mp hp
      rw [pollNext_of_turn (k := k) (by rw [hscan]; exact hk) (.inl (by rw [hscan]; exact hreplied))]

end Sys2Proof.Machine

/-! Events of the lines and the answers: which line an event belongs to (R155), what reaches no owner (R155
to R158), and how an answer joins its queue (R161, R162). -/

namespace Sys2Proof.Machine

/-! ### The line of an event (R155, R176) -/

theorem onLine_of_line {l : Nat} (hl : 1 ≤ l ∧ l ≤ 6) (s : State) (dt : Nat) (f : State → State) :
    s.onLine dt l f = .next (s.live dt f) :=
  if_pos hl

theorem onLine_of_noLine {l : Nat} (hl : ¬(1 ≤ l ∧ l ≤ 6)) (s : State) (dt : Nat)
    (f : State → State) : s.onLine dt l f = .fault .noSuchLine :=
  if_neg hl

/-- An event of a line of a running part. -/
theorem onLine_of_running {s : State} {l : Nat} (hp : s.power = .running) (hl : 1 ≤ l ∧ l ≤ 6)
    (dt : Nat) (f : State → State) : s.onLine dt l f = .next (f (s.advance dt)) := by
  rw [onLine_of_line hl, live_of_running hp]

theorem onLine_of_hears {s : State} {l : Nat} {ln : Line} (hs : Hears s l ln) (dt : Nat)
    (f : State → State) : s.onLine dt l f = .next (f (s.advance dt)) :=
  onLine_of_running hs.1 ⟨hs.2.1, hs.2.2.1⟩ dt f

theorem Hears.line? {s : State} {l : Nat} {ln : Line} (hs : Hears s l ln) (dt : Nat) :
    (s.advance dt).line? l = some ln :=
  hs.2.2.2.1

theorem lineOk_iff {l : Nat} : lineOk l = true ↔ 1 ≤ l ∧ l ≤ 6 := by
  simp [lineOk]

/-- A well-formed request is on one of the six lines. -/
theorem line_of_wellFormed {c : Instr} {r : Request} (hr : c.request? = some r)
    (hc : c.wellFormed = true) : 1 ≤ r.line ∧ r.line ≤ 6 := by
  have line_of_both : ∀ {l : Nat} {b : Bool}, (lineOk l && b) = true → 1 ≤ l ∧ l ≤ 6 :=
    fun h => lineOk_iff.mp (Bool.and_eq_true_iff.mp h).1
  cases c
  all_goals first
    | cases hr; done
    | cases hr; exact line_of_both hc

/-- Settles O3: a request is an event of its line, and so are the other events of the lines; every other
command is taken whatever its numbers are. -/
theorem everyWellFormedCommandIsTaken : Obligations.EveryWellFormedCommandIsTaken := by
  unfold Obligations.EveryWellFormedCommandIsTaken
  refine ⟨fun c s hc => ?_, fun c r s hr hl => ?_, fun s dt l hl => ?_⟩
  · cases hr : c.request? with
    | some r =>
      obtain ⟨owner, -, hexec⟩ := exec_request hr
      exact ⟨_, (hexec s).trans (onLine_of_line (line_of_wellFormed hr hc) ..)⟩
    | none =>
      have hor : (∃ t, exec c s = .next t) ∨ ∃ dt l f, lineOk l = true ∧ exec c s = s.onLine dt l f := by
        cases c with
        | idle dt l seq p => exact .inr ⟨dt, l, _, (Bool.and_eq_true_iff.mp hc).1, rfl⟩
        | unknownKind dt l seq k p =>
          exact .inr ⟨dt, l, _, (Bool.and_eq_true_iff.mp (Bool.and_eq_true_iff.mp hc).1).1, rfl⟩
        | crcError dt l => exact .inr ⟨dt, l, _, hc, rfl⟩
        | framingError dt l b => exact .inr ⟨dt, l, _, hc, rfl⟩
        | silenceExpiry dt l => exact .inr ⟨dt, l, _, hc, rfl⟩
        | reportDue dt l => exact .inr ⟨dt, l, _, hc, rfl⟩
        | frameSent dt l => exact .inr ⟨dt, l, _, hc, rfl⟩
        | _ => first | exact .inl ⟨_, rfl⟩ | cases hr
      obtain h | ⟨dt, l, f, hl, h⟩ := hor
      · exact h
      · exact ⟨_, h.trans (onLine_of_line (lineOk_iff.mp hl) ..)⟩
  · obtain ⟨owner, -, hexec⟩ := exec_request hr
    exact (hexec s).trans (onLine_of_noLine hl ..)
  · exact ⟨fun _ _ => onLine_of_noLine hl .., fun _ _ _ => onLine_of_noLine hl ..,
      onLine_of_noLine hl .., fun _ => onLine_of_noLine hl .., onLine_of_noLine hl ..,
      onLine_of_noLine hl .., onLine_of_noLine hl ..⟩

/-! ### Frames that ask nothing (R155 to R158, R165) -/

theorem updLine_others (s : State) (l : Nat) (f : Line → Line) (hf : ∀ x, (f x).num = x.num) :
    SameOtherLines s l (s.updLine l f) :=
  ⟨fun k hk => line?_updLine_ne s l k hk f hf⟩

/-- Where a frame breaks, the receiver hunts, but for the SYNC byte that ends a gap. -/
theorem line?_abandonFrame_same (s : State) (l : Nat) (cause : FrameBreak) :
    (s.abandonFrame l cause).line? l = (s.line? l).map fun ln =>
      { ln with
        framingErrs := inc16 ln.framingErrs
        rx := if cause = .gap 0xC5 then .receiving else .hunting } := by
  refine (line?_updLine_same s l _ (by intro; rfl)).trans ?_
  cases cause with
  | gap b => simp
  | stopBit => rfl
  | badLen => rfl

theorem abandonFrame_others (s : State) (l : Nat) (cause : FrameBreak) :
    SameOtherLines s l (s.abandonFrame l cause) :=
  updLine_others s l _ (by intro; rfl)

theorem crcFail_num (x : Line) : (if x.link = .off then x
    else { x with crcErrs := inc16 x.crcErrs, rx := .hunting }).num = x.num := by
  split <;> rfl

theorem crcFail_others (s : State) (l : Nat) : SameOtherLines s l (s.crcFail l) :=
  updLine_others s l _ crcFail_num

theorem idleTelegram_of_heard {s : State} {l len : Nat} {ln : Line} (hl : s.line? l = some ln)
    (hoff : ln.link ≠ .off) (hlen : len ≤ 48) : s.idleTelegram l len = s.heard l := by
  simp only [State.idleTelegram, hl, if_neg hoff, if_neg (Nat.not_lt.mpr hlen)]

theorem idleTelegram_of_off {s : State} {l : Nat} {ln : Line} (hl : s.line? l = some ln)
    (hoff : ln.link = .off) (len : Nat) : s.idleTelegram l len = s := by
  simp only [State.idleTelegram, hl, if_pos hoff]

theorem onTelegram_of_off {s : State} {l : Nat} {ln : Line} (hl : s.line? l = some ln)
    (hoff : ln.link = .off) (len : Nat) (act : State → Line → State) :
    s.onTelegram l len act = s := by
  simp only [State.onTelegram, hl, if_pos hoff]

theorem anyTelegram_of_off {s : State} {l : Nat} {ln : Line} (hl : s.line? l = some ln)
    (hoff : ln.link = .off) (seq kind : Byte) (p : List Byte) : s.anyTelegram l seq kind p = s := by
  unfold State.anyTelegram
  split
  · exact idleTelegram_of_off hl hoff _
  · split
    · exact onTelegram_of_off hl hoff _ _
    · exact onTelegram_of_off hl hoff _ _

theorem framingFail_of_off {s : State} {l : Nat} {ln : Line} (hl : s.line? l = some ln)
    (hoff : ln.link = .off) (cause : FrameBreak) : s.framingFail l cause = s := by
  simp only [State.framingFail, hl, if_pos hoff]

theorem lineSilent_of_off {s : State} {l : Nat} {ln : Line} (hl : s.line? l = some ln)
    (hoff : ln.link = .off) : s.lineSilent l = s := by
  simp [State.lineSilent, hl, hoff]

theorem reportFallsDue_of_off {s : State} {l : Nat} {ln : Line} (hl : s.line? l = some ln)
    (hoff : ln.link = .off) : s.reportFallsDue l = s := by
  simp only [State.reportFallsDue, hl, hoff]
  cases ln.reportAt <;> simp

/-- A line that is OFF counts no bad CRC, where its number is its own. -/
theorem crcFail_of_off {s : State} {l : Nat} {ln : Line} (hl : s.line? l = some ln)
    (hoff : ln.link = .off) (hnd : (s.lines.map Line.num).Nodup) : s.crcFail l = s := by
  have hlines : updateKey Line.num l (fun x =>
      if x.link = .off then x else { x with crcErrs := inc16 x.crcErrs, rx := .hunting }) s.lines
      = s.lines := by
    refine (List.map_congr_left fun x hx => ?_).trans (List.map_id _)
    split
    · next hnum =>
      have hx' : x = ln := List.inj_on_of_nodup_map hnd hx (List.mem_of_find?_eq_some hl)
        ((beq_iff_eq.mp hnum).trans (line?_num hl).symm)
      exact if_pos (hx' ▸ hoff)
    · rfl
  unfold State.crcFail State.updLine
  rw [hlines]

/-- Settles O5, event by event: on a line that hears each changes its own line's record, and on a line that
is OFF each leaves the state as it is. -/
theorem framesThatAskNothing : Obligations.FramesThatAskNothing := by
  unfold Obligations.FramesThatAskNothing
  refine ⟨fun s dt l ln hs => ⟨fun seq p hp => ?_, ?_, fun cause => ?_⟩,
    fun s l ln hrun h1 h6 hl hoff => ⟨fun c r hr hline => ?_, fun dt => ?_⟩⟩
  · refine ⟨s.taken dt l, ?_, rfl, rfl, taken_others s dt l, line?_taken hs dt⟩
    exact (onLine_of_hears hs dt _).trans
      (congrArg _ (idleTelegram_of_heard (hs.line? dt) hs.2.2.2.2 hp))
  · refine ⟨(s.advance dt).crcFail l, onLine_of_hears hs dt _, rfl,
      ⟨(crcFail_others (s.advance dt) l).same⟩, ?_⟩
    refine (line?_updLine_same _ l _ crcFail_num).trans ?_
    rw [hs.line? dt, Option.map_some, if_neg hs.2.2.2.2]
  · refine ⟨(s.advance dt).abandonFrame l cause, ?_, rfl,
      ⟨(abandonFrame_others (s.advance dt) l cause).same⟩, ?_⟩
    · refine (onLine_of_hears hs dt _).trans (congrArg _ ?_)
      simp only [State.framingFail, hs.line? dt, if_neg hs.2.2.2.2]
    · rw [line?_abandonFrame_same, hs.line? dt, Option.map_some]
  · obtain ⟨owner, -, hexec⟩ := exec_request hr
    rw [hexec, hline]
    exact (onLine_of_running hrun ⟨h1, h6⟩ _ _).trans
      (congrArg _ (onTelegram_of_off (s := s.advance r.dt) hl hoff _ _))
  · have hline : (s.advance dt).line? l = some ln := hl
    have hat : ∀ f : State → State, f (s.advance dt) = s.advance dt →
        s.onLine dt l f = .next (s.advance dt) := fun f hf =>
      (onLine_of_running hrun ⟨h1, h6⟩ dt f).trans (congrArg _ hf)
    exact ⟨fun _ _ => hat _ (idleTelegram_of_off hline hoff _),
      fun _ _ _ => hat _ (anyTelegram_of_off hline hoff _ _ _),
      fun hnd => hat _ (crcFail_of_off hline hoff hnd),
      fun _ => hat _ (framingFail_of_off hline hoff _),
      hat _ (lineSilent_of_off hline hoff), hat _ (reportFallsDue_of_off hline hoff)⟩

/-! ### An answer joins its queue (R161, R162) -/

/-- What the transmitter chooses (R162). -/
theorem nextFrame_choice (r : Frame) (ln : Line) :
    ((ln.nextFrame r).queue, (ln.nextFrame r).tx, (ln.nextFrame r).reportIsDue) =
      if ln.tx.isSome ∨ ¬(ln.link = .active ∨ ln.link = .awaiting) then
        (ln.queue, ln.tx, ln.reportIsDue)
      else if ln.link = .active ∧ ln.reportIsDue = true then (ln.queue, some r, false)
      else
        match ln.queue with
        | [] => ([], none, ln.reportIsDue)
        | a :: rest =>
          match a.result with
          | none => (a :: rest, none, ln.reportIsDue)
          | some x => (rest, some (a.frame x), ln.reportIsDue) := by
  unfold Line.nextFrame
  cases htx : ln.tx with
  | some f => simp [htx]
  | none =>
    by_cases hlink : ln.link = .active ∨ ln.link = .awaiting
    · by_cases hdue : ln.link = .active ∧ ln.reportIsDue = true
      · simp [hdue]
      · cases hq : ln.queue with
        | nil => simp [hlink, hdue, hq, htx]
        | cons a rest => cases ha : a.result <;> simp [hlink, hdue, hq, htx, ha]
    · have hdue : ¬(ln.link = .active ∧ ln.reportIsDue = true) := fun h => hlink (.inl h.1)
      simp [hlink, hdue, htx]

/-- What the transmitter leaves as it is. -/
theorem nextFrame_rest (r : Frame) (ln : Line) : ln.nextFrame r =
    { ln with
      queue := (ln.nextFrame r).queue
      tx := (ln.nextFrame r).tx
      reportIsDue := (ln.nextFrame r).reportIsDue } := by
  unfold Line.nextFrame
  repeat' split
  all_goals rfl

theorem isRefused_iff (a : Answer) :
    a.isRefused = true ↔ ¬(a.result = none ∨ a.result = some .done ∨ a.result = some .started) := by
  unfold Answer.isRefused
  cases a.result with
  | none => simp
  | some r => cases r <;> simp [Result.isRefusal]

theorem refusals_queued (a : Answer) (ln : Line) : (ln.queued a).refusals =
    if a.result = none ∨ a.result = some .done ∨ a.result = some .started then ln.refusals
    else inc16 ln.refusals := by
  by_cases h : a.result = none ∨ a.result = some .done ∨ a.result = some .started
  · rw [if_pos h]
    exact if_neg fun hr => (isRefused_iff a).mp hr h
  · rw [if_neg h]
    exact if_pos ((isRefused_iff a).mpr h)

/-- Settles O6: the answer is queued, then the transmitter chooses. -/
theorem answerJoinsTheQueue : Obligations.AnswerJoinsTheQueue := by
  unfold Obligations.AnswerJoinsTheQueue
  intro s l seq kind r args ln hl
  have hm : (s.answer l seq kind r args).line? l =
      some ((Line.queued ⟨seq, kind, r, args⟩ ln).nextFrame
        (s.updLine l (Line.queued ⟨seq, kind, r, args⟩)).report) := by
    rw [line?_answer_same, hl, Option.map_some]
  refine ⟨onlyLines_answer .., answer_others .., _, Config.unstatedByte s.free reportSeqKey, hm,
    ?_, nextFrame_choice _ _⟩
  rw [← refusals_queued ⟨seq, kind, r, args⟩ ln]
  exact nextFrame_rest _ _

end Sys2Proof.Machine

/-! Requests that change nothing: those that reach no owner (R158), those whose arguments fail (R159), and
those that the part mode turns away (R131, R137). -/

namespace Sys2Proof.Machine

/-! ### Requests that reach no owner (R158) -/

theorem onTelegram_of_overrun {s : State} {l len : Nat} {ln : Line} (hl : s.line? l = some ln)
    (hoff : ln.link ≠ .off) (hlen : len ≤ 48) (hq : 4 ≤ ln.queue.length)
    (act : State → Line → State) : s.onTelegram l len act =
      (s.heard l).updLine l fun x => { x with overruns := inc16 x.overruns } := by
  simp only [State.onTelegram, hl, if_neg hoff, if_neg (Nat.not_lt.mpr hlen), if_pos hq]

theorem onTelegram_of_room {s : State} {l len : Nat} {ln : Line} (hl : s.line? l = some ln)
    (hoff : ln.link ≠ .off) (hlen : len ≤ 48) (hq : ln.queue.length < 4)
    (act : State → Line → State) : s.onTelegram l len act = act (s.heard l) ln := by
  simp only [State.onTelegram, hl, if_neg hoff, if_neg (Nat.not_lt.mpr hlen),
    if_neg (Nat.not_le.mpr hq)]

/-- An ANNOUNCE reaches its owner on every line that hears (R158 step 5). -/
theorem request_announce {s : State} {l : Nat} {ln : Line} (hs : Hears s l ln)
    (hq : ln.queue.length < 4) {dt len : Nat} (hlen : len ≤ 48) (seq : Byte)
    (owner : State → Nat → Reply) :
    s.onRequest dt l len seq kindAnnounce owner =
      .next ((owner (s.taken dt l) l).1.answer l seq kindAnnounce (owner (s.taken dt l) l).2.1
        (owner (s.taken dt l) l).2.2) := by
  refine (onLine_of_hears hs dt _).trans (congrArg _ ?_)
  refine (onTelegram_of_room (hs.line? dt) hs.2.2.2.2 hlen hq _).trans ?_
  exact if_neg fun h => h.2 rfl

theorem ownerOf_of_unknown {kind : Byte} (h : kind ∉ stationKinds) : ownerOf kind = none := by
  simp only [stationKinds, List.mem_cons, List.not_mem_nil, or_false, not_or] at h
  obtain ⟨h1, -, h2, h3, h4, h5, h6, h7, h8, h9, h10, h11, h12, h13⟩ := h
  simp only [ownerOf, h1, h2, h3, h4, h5, h6, h7, h8, h9, h10, h11, h12, h13, if_false]

theorem anyTelegram_of_owner {kind : Byte} {owner : List Byte → State → Nat → Reply}
    (hk : kind ≠ kindIdle) (ho : ownerOf kind = some owner) (s : State) (l : Nat) (seq : Byte)
    (p : List Byte) : s.anyTelegram l seq kind p = s.request l p.length seq kind (owner p) := by
  simp only [State.anyTelegram, if_neg hk, ho]

theorem anyTelegram_of_unknown {kind : Byte} (hk : kind ∉ stationKinds) (s : State) (l : Nat)
    (seq : Byte) (p : List Byte) : s.anyTelegram l seq kind p =
      s.onTelegram l p.length fun s1 _ => s1.answer l seq kind (some .badRequest) [] := by
  have hidle : kind ≠ kindIdle := fun h => hk (h ▸ by decide)
  simp only [State.anyTelegram, if_neg hidle, ownerOf_of_unknown hk]

theorem anyTelegram_of_overrun {s : State} {l : Nat} {ln : Line} (hl : s.line? l = some ln)
    (hoff : ln.link ≠ .off) {kind : Byte} (hk : kind ≠ kindIdle) {p : List Byte}
    (hlen : p.length ≤ 48) (hq : 4 ≤ ln.queue.length) (seq : Byte) :
    s.anyTelegram l seq kind p =
      (s.heard l).updLine l fun x => { x with overruns := inc16 x.overruns } := by
  simp only [State.anyTelegram, if_neg hk]
  split <;> exact onTelegram_of_overrun hl hoff hlen hq _

/-- A telegram of a KIND with an owner is a request to that owner. -/
theorem exec_unknownKind_of_owner {kind : Byte} {owner : List Byte → State → Nat → Reply}
    (hk : kind ≠ kindIdle) (ho : ownerOf kind = some owner) (s : State) (dt l : Nat) (seq : Byte)
    (p : List Byte) : exec (.unknownKind dt l seq kind p) s =
      s.onRequest dt l p.length seq kind (owner p) :=
  congrArg (s.onLine dt l) (funext fun x => anyTelegram_of_owner hk ho x l seq p)

/-- The KINDs whose rows their first payload byte chooses have an owner each (R168). -/
theorem owner_of_rowKind {kind : Byte}
    (h : kind ∈ [kindClear, kindMode, kindAcknowledge, kindRead]) :
    kind ≠ kindIdle ∧ kind ≠ kindAnnounce ∧ ∃ owner, ownerOf kind = some owner := by
  simp only [List.mem_cons, List.not_mem_nil, or_false] at h
  obtain rfl | rfl | rfl | rfl := h
  · exact ⟨by decide, by decide, requestClear, rfl⟩
  · exact ⟨by decide, by decide, requestMode, rfl⟩
  · exact ⟨by decide, by decide, requestAcknowledge, rfl⟩
  · exact ⟨by decide, by decide, requestRead, rfl⟩

/-- Settles O7, by the steps of R158 that come before an owner's. -/
theorem requestsThatReachNoOwner : Obligations.RequestsThatReachNoOwner := by
  unfold Obligations.RequestsThatReachNoOwner
  refine fun s ln => ⟨fun c r hr hs hlen => ?_, fun dt l seq kind p hs hlen => ?_⟩
  · obtain ⟨owner, -, hexec⟩ := exec_request hr
    exact ⟨fun hq => (hexec s).trans (request_overrun hs hq hlen ..),
      fun hq hact hk => (hexec s).trans (request_awaiting hs hact hq hlen _ _ hk _)⟩
  · have hat := onLine_of_hears hs dt fun x => x.anyTelegram l seq kind p
    refine ⟨fun hq hk => hat.trans (congrArg _ ?_), fun hq hk => hat.trans (congrArg _ ?_),
      fun hq hact hk => ?_⟩
    · exact anyTelegram_of_overrun (hs.line? dt) hs.2.2.2.2 hk hlen hq seq
    · exact (anyTelegram_of_unknown hk _ l seq p).trans
        (onTelegram_of_room (hs.line? dt) hs.2.2.2.2 hlen hq _)
    · obtain ⟨hidle, hann, owner, ho⟩ := owner_of_rowKind hk
      exact (exec_unknownKind_of_owner hidle ho ..).trans
        (request_awaiting hs hact hq hlen _ _ hann _)

/-! ### An owner that changes nothing -/

theorem served_reply {s : State} {l : Nat} (hs : Served s l) {dt len : Nat} (hlen : len ≤ 48)
    {seq kind : Byte} {owner : State → Nat → Reply} {r : Option Result} {args : List Byte}
    (h : owner (s.taken dt l) l = (s.taken dt l, r, args)) :
    s.onRequest dt l len seq kind owner = .next ((s.taken dt l).answer l seq kind r args) := by
  rw [request_served hs hlen, h]

theorem served_badArg {s : State} {l : Nat} (hs : Served s l) {dt len : Nat} (hlen : len ≤ 48)
    {seq kind : Byte} {owner : State → Nat → Reply}
    (h : owner (s.taken dt l) l = (s.taken dt l).badArg) :
    s.onRequest dt l len seq kind owner =
      .next ((s.taken dt l).answer l seq kind (some .badArg) []) :=
  served_reply hs hlen h

/-! ### Arguments that fail (R159) -/

theorem oneHatch_of_unnamed {s : State} {p : List Byte} (h : ¬∃ b, p = [b] ∧ NamesHatch s b) :
    s.oneHatch p = none := by
  match p with
  | [] => rfl
  | [b] => exact if_neg fun hb => h ⟨b, rfl, hb⟩
  | _ :: _ :: _ => rfl

theorem ofByte_eq_none {k : Byte} (h : ¬(1 ≤ k.toNat ∧ k.toNat ≤ 4)) : OpKind.ofByte k = none := by
  unfold OpKind.ofByte
  split
  all_goals first | rfl | exact absurd (by simp_all) h

theorem runArgs_of_unnamed {s : State} {p : List Byte}
    (h : ¬∃ b k, p = [b, k] ∧ NamesHatch s b ∧ 1 ≤ k.toNat ∧ k.toNat ≤ 4) :
    s.runArgs p = none := by
  match p with
  | [] | [_] | _ :: _ :: _ :: _ => rfl
  | [b, k] =>
    by_cases hb : NamesHatch s b
    · have hk : OpKind.ofByte k = none := ofByte_eq_none fun hk => h ⟨b, k, rfl, hb, hk⟩
      simp only [State.runArgs, hk]
      cases s.hatchArg b <;> rfl
    · have hh : s.hatchArg b = none := if_neg hb
      simp only [State.runArgs, hh]

theorem pumpArg_of_unnamed {s : State} {p : List Byte}
    (h : ¬∃ b, p = [b] ∧ 1 ≤ b.toNat ∧ b.toNat ≤ s.pumpLimit) : s.pumpArg p = none := by
  match p with
  | [] => rfl
  | [b] => exact if_neg fun hb => h ⟨b, rfl, hb⟩
  | _ :: _ :: _ => rfl

theorem anyIndex_of_length {p : List Byte} (h : p.length ≠ 1) : anyIndex p = none := by
  match p with
  | [] => rfl
  | [_] => exact absurd rfl h
  | _ :: _ :: _ => rfl

theorem noArgs_of_ne_nil {p : List Byte} (h : p ≠ []) : noArgs p = none := by
  match p with
  | [] => exact absurd rfl h
  | _ :: _ => rfl

theorem readArgs_of_length {p : List Byte} (h : p.length ≠ 3) : readArgs p = none := by
  match p with
  | [] | [_] | [_, _] | _ :: _ :: _ :: _ :: _ => rfl
  | [_, _, _] => exact absurd rfl h

theorem writeArgs_of_length {p : List Byte} (h : p.length ≠ 4) : writeArgs p = none := by
  match p with
  | [] | [_] | [_, _] | [_, _, _] | _ :: _ :: _ :: _ :: _ :: _ => rfl
  | [_, _, _, _] => exact absurd rfl h

theorem announceArgs_of_length {p : List Byte} (h : p.length ≠ 4) : announceArgs p = none := by
  match p with
  | [] | [_] | [_, _] | [_, _, _] | _ :: _ :: _ :: _ :: _ :: _ => rfl
  | [_, _, _, _] => exact absurd rfl h

theorem announceArgs_of_class {c : Byte} (h : c.toNat = 0 ∨ 3 < c.toNat) (hi lo ab : Byte) :
    announceArgs [c, hi, lo, ab] = none := by
  simp only [announceArgs]
  split
  all_goals first | rfl | omega

/-! ### Owners whose argument fails -/

section
variable {s : State} {p : List Byte} {l : Nat}

theorem take_of_no_hatch (h : s.oneHatch p = none) : requestTake p s l = s.badArg := by
  simp only [requestTake, h]

theorem yield_of_no_hatch (h : s.oneHatch p = none) : requestYield p s l = s.badArg := by
  simp only [requestYield, h]

theorem hold_of_no_hatch (h : s.oneHatch p = none) : requestHold p s l = s.badArg := by
  simp only [requestHold, h]

theorem halt_of_no_hatch (h : s.oneHatch p = none) : requestHalt p s l = s.badArg := by
  simp only [requestHalt, h]

theorem clearFault_of_no_hatch (h : s.oneHatch p = none) : requestClearFault p s l = s.badArg := by
  simp only [requestClearFault, h]

theorem run_of_no_args (h : s.runArgs p = none) : requestRun p s l = s.badArg := by
  simp only [requestRun, h]

theorem clearPump_of_no_pump (h : s.pumpArg p = none) : requestClearPump p s l = s.badArg := by
  simp only [requestClearPump, h]

theorem clearEstop_of_no_index (h : anyIndex p = none) : requestClearEstop p s l = s.badArg := by
  simp only [requestClearEstop, h]

theorem clearCounters_of_no_index (h : anyIndex p = none) :
    requestClearCounters p s l = s.badArg := by
  simp only [requestClearCounters, h]

theorem estop_of_args (h : noArgs p = none) : requestEstop p s l = s.badArg := by
  simp only [requestEstop, h]

theorem store_of_args (h : noArgs p = none) : requestStore p s l = s.badArg := by
  simp only [requestStore, h]

theorem ackAll_of_args (h : noArgs p = none) : requestAckAll p s l = s.badArg := by
  simp only [requestAckAll, h]

theorem modeReply_of_args (h : noArgs p = none) (arg : Byte) (f : State → State × Result) :
    modeReply arg p s f = s.badArg := by
  simp only [modeReply, h]

theorem ackOne_of_no_record (h : recordArgs p = none) : requestAckOne p s l = s.badArg := by
  simp only [requestAckOne, h]

theorem readReply_of_no_args {α : Type} (h : readArgs p = none) (table : Byte) (base : Nat)
    (recs : List α) (enc : Nat → α → List Byte) : s.readReply p table base recs enc = s.badArg := by
  simp only [State.readReply, h]

theorem readHatch_of_no_args (h : readArgs p = none) : requestReadHatch p s l = s.badArg := by
  simp only [requestReadHatch, h]

theorem readAlarm_of_no_args (h : readArgs p = none) : requestReadAlarm p s l = s.badArg := by
  simp only [requestReadAlarm, h]

theorem write_of_no_args (h : writeArgs p = none) : requestWrite p s l = s.badArg := by
  simp only [requestWrite, h]

theorem announce_of_no_args (h : announceArgs p = none) : requestAnnounce p s l = s.badArg := by
  simp only [requestAnnounce, h]

end

/-! ### A first payload byte that names no row (R169) -/

theorem ne_of_no_row {b c : Byte} {rows : Nat} (hb : b.toNat = 0 ∨ rows < b.toNat)
    (hc : 1 ≤ c.toNat ∧ c.toNat ≤ rows) : b ≠ c := by
  rintro rfl
  omega

section
variable {p : List Byte}

theorem clear_of_no_row (h : ∀ b ∈ p.head?, b.toNat = 0 ∨ 4 < b.toNat) (s : State) (l : Nat) :
    requestClear p s l = s.badArg := by
  cases p with
  | nil => rfl
  | cons b p =>
    have ne := @ne_of_no_row b (hb := h b rfl)
    simp only [requestClear, if_neg (ne (c := clearFaultTarget) (by decide)),
      if_neg (ne (c := clearPumpTarget) (by decide)),
      if_neg (ne (c := clearEstopTarget) (by decide)),
      if_neg (ne (c := clearCountersTarget) (by decide))]

theorem mode_of_no_row (h : ∀ b ∈ p.head?, b.toNat = 0 ∨ 5 < b.toNat) (s : State) (l : Nat) :
    requestMode p s l = s.badArg := by
  cases p with
  | nil => rfl
  | cons b p =>
    have ne := @ne_of_no_row b (hb := h b rfl)
    simp only [requestMode, if_neg (ne (c := modeArmHarbour) (by decide)),
      if_neg (ne (c := modeConfirmHarbour) (by decide)), if_neg (ne (c := modeSea) (by decide)),
      if_neg (ne (c := modeCommission) (by decide)),
      if_neg (ne (c := modeLeaveCommission) (by decide))]

theorem acknowledge_of_no_row (h : ∀ b ∈ p.head?, b.toNat = 0 ∨ 2 < b.toNat) (s : State)
    (l : Nat) : requestAcknowledge p s l = s.badArg := by
  cases p with
  | nil => rfl
  | cons b p =>
    have ne := @ne_of_no_row b (hb := h b rfl)
    simp only [requestAcknowledge, if_neg (ne (c := ackOneForm) (by decide)),
      if_neg (ne (c := ackAllForm) (by decide))]

theorem read_of_no_row (h : ∀ b ∈ p.head?, b.toNat = 0 ∨ 11 < b.toNat) (s : State) (l : Nat) :
    requestRead p s l = s.badArg := by
  cases p with
  | nil => rfl
  | cons b p =>
    have ne := @ne_of_no_row b (hb := h b rfl)
    simp only [requestRead, if_neg (ne (c := tableHatch) (by decide)),
      if_neg (ne (c := tableCleat) (by decide)), if_neg (ne (c := tableOperation) (by decide)),
      if_neg (ne (c := tableQueue) (by decide)), if_neg (ne (c := tablePump) (by decide)),
      if_neg (ne (c := tableAlarm) (by decide)), if_neg (ne (c := tableNode) (by decide)),
      if_neg (ne (c := tablePoint) (by decide)), if_neg (ne (c := tableLine) (by decide)),
      if_neg (ne (c := tableConfig) (by decide)), if_neg (ne (c := tableReset) (by decide))]

end

/-! ### The gates by part mode (R131, R137) -/

theorem modeGate_of_closed {s : State} {r : Result}
    (h : (s.mode = .loading ∧ r = .notReady) ∨ (s.mode = .unconfigured ∧ r = .notConfigured)) :
    s.modeGate = some r := by
  obtain ⟨hm, rfl⟩ | ⟨hm, rfl⟩ := h <;> simp only [State.modeGate, hm]

theorem configGate_of_closed {s : State} {r : Result}
    (h : (s.mode = .loading ∧ r = .notReady) ∨
      ((s.mode = .unconfigured ∨ (s.mode = .commission ∧ s.inForce = none)) ∧
        r = .notConfigured)) : s.configGate = some r := by
  obtain ⟨hm, rfl⟩ | ⟨hm | ⟨hm, hf⟩, rfl⟩ := h
  · simp only [State.configGate, State.modeGate, hm]
  · simp only [State.configGate, State.modeGate, hm]
  · simp only [State.configGate, State.modeGate, hm, hf, Option.isNone_none, if_true]

end Sys2Proof.Machine

/-! The refusals of O8, one family of requests at a time: arguments that fail (R159), then the gates by part
mode (R131, R137). -/

namespace Sys2Proof.Machine

section
variable {s : State} {l : Nat} (hs : Served s l) (dt : Nat) (seq : Byte) {p : List Byte}
include hs

/-! ### Arguments that fail (R159) -/

/-- A payload that names no hatch. -/
theorem exec_of_no_hatch (hp : p.length ≤ 47) (h : ¬∃ b, p = [b] ∧ NamesHatch s b) :
    exec (.take dt l seq p) s = .next ((s.taken dt l).answer l seq kindTake (some .badArg) []) ∧
    exec (.yield dt l seq p) s = .next ((s.taken dt l).answer l seq kindYield (some .badArg) []) ∧
    exec (.hold dt l seq p) s = .next ((s.taken dt l).answer l seq kindHold (some .badArg) []) ∧
    exec (.halt dt l seq p) s = .next ((s.taken dt l).answer l seq kindHalt (some .badArg) []) ∧
    exec (.clearFault dt l seq p) s =
      .next ((s.taken dt l).answer l seq kindClear (some .badArg) []) := by
  have hp' : p.length ≤ 48 := by omega
  have hh : (s.taken dt l).oneHatch p = none := oneHatch_of_unnamed (s := s.taken dt l) h
  exact ⟨served_badArg hs hp' (take_of_no_hatch hh), served_badArg hs hp' (yield_of_no_hatch hh),
    served_badArg hs hp' (hold_of_no_hatch hh), served_badArg hs hp' (halt_of_no_hatch hh),
    served_badArg hs (Nat.succ_le_succ hp) (clearFault_of_no_hatch hh)⟩

/-- A payload where none is allowed. -/
theorem exec_of_args (hp : p.length ≤ 47) (h : p ≠ []) :
    exec (.estop dt l seq p) s = .next ((s.taken dt l).answer l seq kindEstop (some .badArg) []) ∧
    exec (.store dt l seq p) s = .next ((s.taken dt l).answer l seq kindStore (some .badArg) []) ∧
    (∀ c ∈ [Instr.armHarbour dt l seq p, .confirmHarbour dt l seq p, .modeSea dt l seq p,
        .modeCommission dt l seq p, .leaveCommission dt l seq p],
      exec c s = .next ((s.taken dt l).answer l seq kindMode (some .badArg) [])) ∧
    exec (.acknowledgeAll dt l seq p) s =
      .next ((s.taken dt l).answer l seq kindAcknowledge (some .badArg) []) := by
  have hp' : p.length ≤ 48 := by omega
  have hp1 : p.length + 1 ≤ 48 := by omega
  have hn := noArgs_of_ne_nil h
  refine ⟨served_badArg hs hp' (estop_of_args hn), served_badArg hs hp' (store_of_args hn), ?_,
    served_badArg hs hp1 (ackAll_of_args hn)⟩
  simp only [List.forall_mem_cons, List.not_mem_nil, false_implies, implies_true, and_true]
  exact ⟨served_badArg hs hp1 (modeReply_of_args hn _ _),
    served_badArg hs hp1 (modeReply_of_args hn _ _),
    served_badArg hs hp1 (modeReply_of_args hn _ _),
    served_badArg hs hp1 (modeReply_of_args hn _ _),
    served_badArg hs hp1 (modeReply_of_args hn _ _)⟩

/-- A READ without its first index and flag. -/
theorem exec_of_no_readArgs (hp : p.length ≤ 47) (h : p.length ≠ 3) :
    ∀ c ∈ [Instr.readHatch dt l seq p, .readCleat dt l seq p, .readOperation dt l seq p,
        .readQueue dt l seq p, .readPump dt l seq p, .readAlarm dt l seq p, .readNode dt l seq p,
        .readPoint dt l seq p, .readLine dt l seq p, .readConfig dt l seq p,
        .readReset dt l seq p],
      exec c s = .next ((s.taken dt l).answer l seq kindRead (some .badArg) []) := by
  have hp1 : p.length + 1 ≤ 48 := by omega
  have hn := readArgs_of_length h
  simp only [List.forall_mem_cons, List.not_mem_nil, false_implies, implies_true, and_true]
  exact ⟨served_badArg hs hp1 (readHatch_of_no_args hn),
    served_badArg hs hp1 (readReply_of_no_args hn ..),
    served_badArg hs hp1 (readReply_of_no_args hn ..),
    served_badArg hs hp1 (readReply_of_no_args hn ..),
    served_badArg hs hp1 (readReply_of_no_args hn ..),
    served_badArg hs hp1 (readAlarm_of_no_args hn),
    served_badArg hs hp1 (readReply_of_no_args hn ..),
    served_badArg hs hp1 (readReply_of_no_args hn ..),
    served_badArg hs hp1 (readReply_of_no_args hn ..),
    served_badArg hs hp1 (readReply_of_no_args hn ..),
    served_badArg hs hp1 (readReply_of_no_args hn ..)⟩

/-- A payload of 48 bytes, which no request has. -/
theorem exec_of_full_payload (hp : p.length = 48) :
    ∀ c ∈ [(Instr.take dt l seq p, kindTake), (.yield dt l seq p, kindYield),
        (.run dt l seq p, kindRun), (.hold dt l seq p, kindHold), (.halt dt l seq p, kindHalt),
        (.estop dt l seq p, kindEstop), (.write dt l seq p, kindWrite),
        (.store dt l seq p, kindStore), (.announce dt l seq p, kindAnnounce)],
      exec c.1 s = .next ((s.taken dt l).answer l seq c.2 (some .badArg) []) := by
  have hhatch : (s.taken dt l).oneHatch p = none :=
    oneHatch_of_unnamed fun ⟨_, h, _⟩ => by simp [h] at hp
  have hrun : (s.taken dt l).runArgs p = none :=
    runArgs_of_unnamed fun ⟨_, _, h, _⟩ => by simp [h] at hp
  have hnone : noArgs p = none := noArgs_of_ne_nil fun h => by simp [h] at hp
  simp only [List.forall_mem_cons, List.not_mem_nil, false_implies, implies_true, and_true]
  exact ⟨served_badArg hs hp.le (take_of_no_hatch hhatch),
    served_badArg hs hp.le (yield_of_no_hatch hhatch),
    served_badArg hs hp.le (run_of_no_args hrun),
    served_badArg hs hp.le (hold_of_no_hatch hhatch),
    served_badArg hs hp.le (halt_of_no_hatch hhatch),
    served_badArg hs hp.le (estop_of_args hnone),
    served_badArg hs hp.le (write_of_no_args (writeArgs_of_length (by omega))),
    served_badArg hs hp.le (store_of_args hnone),
    served_badArg hs hp.le (announce_of_no_args (announceArgs_of_length (by omega)))⟩

/-- A first payload byte that names no row of its KIND. -/
theorem exec_of_no_row {kind : Byte} {rows : Nat} (hp : p.length ≤ 48)
    (hk : (kind, rows) ∈ [(kindClear, 4), (kindMode, 5), (kindAcknowledge, 2), (kindRead, 11)])
    (h : ∀ b ∈ p.head?, b.toNat = 0 ∨ rows < b.toNat) :
    exec (.unknownKind dt l seq kind p) s =
      .next ((s.taken dt l).answer l seq kind (some .badArg) []) := by
  simp only [List.mem_cons, List.not_mem_nil, or_false, Prod.mk.injEq] at hk
  obtain ⟨rfl, rfl⟩ | ⟨rfl, rfl⟩ | ⟨rfl, rfl⟩ | ⟨rfl, rfl⟩ := hk
  · exact (exec_unknownKind_of_owner (owner := requestClear) (by decide) rfl ..).trans
      (served_badArg hs hp (clear_of_no_row h _ _))
  · exact (exec_unknownKind_of_owner (owner := requestMode) (by decide) rfl ..).trans
      (served_badArg hs hp (mode_of_no_row h _ _))
  · exact (exec_unknownKind_of_owner (owner := requestAcknowledge) (by decide) rfl ..).trans
      (served_badArg hs hp (acknowledge_of_no_row h _ _))
  · exact (exec_unknownKind_of_owner (owner := requestRead) (by decide) rfl ..).trans
      (served_badArg hs hp (read_of_no_row h _ _))

/-! ### Gates by part mode (R131, R137) -/

omit hs in
/-- The reply to a MODE request that the part mode turns away. -/
theorem modeReply_of_refused {x : State} {f : State → State × Result} {r : Result}
    (h : f x = (x, r)) (arg : Byte) :
    modeReply arg [] x f = (x, some r, [arg, byte x.mode.code]) := by
  simp only [modeReply, noArgs, h]

/-- Requests that the part mode turns away before any other check. -/
theorem exec_of_modeGate {b : Byte} (hb : NamesHatch s b) (i : Byte) {r : Result}
    (h : (s.mode = .loading ∧ r = .notReady) ∨ (s.mode = .unconfigured ∧ r = .notConfigured)) :
    exec (.take dt l seq [b]) s = .next ((s.taken dt l).answer l seq kindTake (some r) [b]) ∧
    exec (.clearEstop dt l seq [i]) s =
      .next ((s.taken dt l).answer l seq kindClear (some r) [3, i]) ∧
    ∀ c ∈ [(Instr.armHarbour dt l seq [], (1 : Byte)), (.confirmHarbour dt l seq [], 2),
        (.modeSea dt l seq [], 3), (.leaveCommission dt l seq [], 5)],
      exec c.1 s = .next ((s.taken dt l).answer l seq kindMode (some r)
        [c.2, byte s.mode.code]) := by
  have hg : (s.taken dt l).modeGate = some r := modeGate_of_closed h
  have hheld : r ≠ .held := by
    obtain ⟨-, rfl⟩ | ⟨-, rfl⟩ := h <;> decide
  have hhatch := oneHatch_of_named ((namesHatch_taken s dt l b).mpr hb)
  refine ⟨served_reply hs (by simp) ?_, served_reply hs (by simp) ?_, ?_⟩
  · simp only [requestTake, hhatch, State.take, hg, if_neg hheld, byte_toNat]
  · simp only [requestClearEstop, anyIndex, State.clearEstop, hg, byte_toNat, clearEstopTarget]
  · simp only [List.forall_mem_cons, List.not_mem_nil, false_implies, implies_true, and_true]
    refine ⟨served_reply hs (by simp) (modeReply_of_refused ?_ _),
      served_reply hs (by simp) (modeReply_of_refused ?_ _),
      served_reply hs (by simp) (modeReply_of_refused ?_ _),
      served_reply hs (by simp) (modeReply_of_refused ?_ _)⟩
    · simp only [State.armHarbour, hg]
    · simp only [State.confirmHarbour, hg]
    · simp only [State.enterSea, hg]
    · simp only [State.leaveCommission, hg]

theorem exec_modeCommission_of_loading (h : s.mode = .loading) :
    exec (.modeCommission dt l seq []) s =
      .next ((s.taken dt l).answer l seq kindMode (some .notReady) [4, 1]) := by
  have hm : (s.taken dt l).mode = .loading := h
  refine served_reply hs (by simp) ?_
  have hf : (s.taken dt l).enterCommission l = (s.taken dt l, .notReady) := if_pos hm
  rw [requestModeCommission, modeReply_of_refused hf, hm]
  rfl

/-- Requests that need a configuration in force. -/
theorem exec_of_configGate {b n : Byte} (hb : NamesHatch s b) (hn : 1 ≤ n.toNat)
    (hn' : n.toNat ≤ s.pumpLimit) {r : Result} (hg : s.configGate = some r) :
    exec (.yield dt l seq [b]) s = .next ((s.taken dt l).answer l seq kindYield (some r) [b]) ∧
    exec (.hold dt l seq [b]) s = .next ((s.taken dt l).answer l seq kindHold (some r) [b]) ∧
    exec (.halt dt l seq [b]) s = .next ((s.taken dt l).answer l seq kindHalt (some r) [b]) ∧
    exec (.clearFault dt l seq [b]) s =
      .next ((s.taken dt l).answer l seq kindClear (some r) [1, b]) ∧
    exec (.clearPump dt l seq [n]) s =
      .next ((s.taken dt l).answer l seq kindClear (some r) [2, n]) := by
  have hg' : (s.taken dt l).configGate = some r := hg
  have hhatch := oneHatch_of_named ((namesHatch_taken s dt l b).mpr hb)
  have hpump : (s.taken dt l).pumpArg [n] = some n.toNat := if_pos ⟨hn, hn'⟩
  refine ⟨served_reply hs (by simp) ?_, served_reply hs (by simp) ?_, served_reply hs (by simp) ?_,
    served_reply hs (by simp) ?_, served_reply hs (by simp) ?_⟩
  · simp only [requestYield, hhatch, State.yieldHatch, hg', byte_toNat]
  · simp only [requestHold, hhatch, State.renewHold, hg', byte_toNat]
  · simp only [requestHalt, hhatch, State.haltRequest, hg', byte_toNat]
  · simp only [requestClearFault, hhatch, State.clearFault, hg', byte_toNat, clearFaultTarget]
  · simp only [requestClearPump, hpump, State.clearPump, hg', byte_toNat, clearPumpTarget]

/-- Requests that UNCONFIGURED alone turns away. -/
theorem exec_of_unconfigured (hp : p.length ≤ 47) (h : s.mode = .unconfigured) :
    exec (.estop dt l seq []) s =
      .next ((s.taken dt l).answer l seq kindEstop (some .notConfigured) []) ∧
    (∀ i, exec (.clearCounters dt l seq [i]) s =
      .next ((s.taken dt l).answer l seq kindClear (some .notConfigured) [4, i])) ∧
    (recordArgs p ≠ none → exec (.acknowledgeOne dt l seq p) s =
      .next ((s.taken dt l).answer l seq kindAcknowledge (some .notConfigured) p)) ∧
    exec (.acknowledgeAll dt l seq []) s =
      .next ((s.taken dt l).answer l seq kindAcknowledge (some .notConfigured) [0]) := by
  have hm : (s.taken dt l).mode = .unconfigured := h
  refine ⟨served_reply hs (by simp) ?_, fun i => served_reply hs (by simp) ?_,
    fun hargs => served_reply hs (Nat.succ_le_succ hp) ?_, served_reply hs (by simp) ?_⟩
  · simp only [requestEstop, noArgs, State.estopRequest, if_pos hm]
  · simp only [requestClearCounters, anyIndex, State.clearCounters, if_pos hm, byte_toNat,
      clearCountersTarget]
  · obtain ⟨⟨c, sub⟩, hrec⟩ := Option.ne_none_iff_exists'.mp hargs
    simp only [requestAckOne, hrec, State.ackOne, if_pos hm]
  · simp only [requestAckAll, noArgs, State.ackAll, if_pos hm]
    rfl

end

/-- An ANNOUNCE whose payload is no class and reach (R160), on every line that hears. -/
theorem exec_announce_of_no_args {s : State} {l : Nat} {ln : Line} (hs : Hears s l ln)
    (hq : ln.queue.length < 4) (dt : Nat) (seq : Byte) {p : List Byte} (hp : p.length ≤ 48)
    (h : announceArgs p = none) : exec (.announce dt l seq p) s =
      .next ((s.taken dt l).answer l seq kindAnnounce (some .badArg) []) := by
  refine (request_announce hs hq hp seq (requestAnnounce p)).trans ?_
  rw [announce_of_no_args h]
  rfl

/-- Settles O8, family by family. -/
theorem badArgumentsAreRefused : Obligations.BadArgumentsAreRefused := by
  unfold Obligations.BadArgumentsAreRefused
  refine ⟨fun s dt l seq p hs hp => exec_of_full_payload hs dt seq hp,
    fun s dt l seq ln hs hq => ⟨fun c hi lo ab hc => ?_, fun p hp hp' => ?_⟩,
    fun s dt l rows seq kind p hs hp hk h => exec_of_no_row hs dt seq hp hk h,
    fun s dt l seq p hs hp => ⟨exec_of_no_hatch hs dt seq hp, fun h => ?_, fun h => ?_, fun h => ?_,
      exec_of_args hs dt seq hp, fun h => ?_, exec_of_no_readArgs hs dt seq hp, fun h => ?_,
      fun b i r hb h => exec_of_modeGate hs dt seq hb i h,
      exec_modeCommission_of_loading hs dt seq,
      fun b n r hb hn hn' h => exec_of_configGate hs dt seq hb hn hn' (configGate_of_closed h),
      exec_of_unconfigured hs dt seq hp⟩⟩
  · exact exec_announce_of_no_args hs hq dt seq (by simp) (announceArgs_of_class hc hi lo ab)
  · exact exec_announce_of_no_args hs hq dt seq hp' (announceArgs_of_length hp)
  · exact served_badArg hs (by omega) (run_of_no_args (runArgs_of_unnamed h))
  · exact served_badArg hs (Nat.succ_le_succ hp) (clearPump_of_no_pump (pumpArg_of_unnamed h))
  · have hi := anyIndex_of_length h
    exact ⟨served_badArg hs (Nat.succ_le_succ hp) (clearEstop_of_no_index hi),
      served_badArg hs (Nat.succ_le_succ hp) (clearCounters_of_no_index hi)⟩
  · exact served_badArg hs (Nat.succ_le_succ hp) (ackOne_of_no_record h)
  · exact ⟨served_badArg hs (by omega) (write_of_no_args (writeArgs_of_length h)),
      served_badArg hs (by omega) (announce_of_no_args (announceArgs_of_length h))⟩

end Sys2Proof.Machine

/-! ANNOUNCE (R160) and CLEAR COUNTERS (R165). -/

namespace Sys2Proof.Machine

/-- A request that reaches its owner, where the owner's reply is known. -/
theorem served_to {s u : State} {l : Nat} (hs : Served s l) {dt len : Nat} (hlen : len ≤ 48)
    {seq kind : Byte} {owner : State → Nat → Reply} {r : Option Result} {args : List Byte}
    (h : owner (s.taken dt l) l = (u, r, args)) :
    s.onRequest dt l len seq kind owner = .next (u.answer l seq kind r args) := by
  rw [request_served hs hlen, h]

/-! ### ANNOUNCE -/

theorem announceArgs_of_code {c : Byte} {cls : LineClass} (hc : c.toNat = cls.code)
    (hcls : cls ≠ .none) (hi lo ab : Byte) : announceArgs [c, hi, lo, ab] =
      some (cls, word hi lo &&& 0x07FF, ab.getLsbD 0, ab.getLsbD 1) := by
  cases cls with
  | none => exact absurd rfl hcls
  | deck | console | bridge => simp only [announceArgs, hc, LineClass.code]

/-- The class values that ANNOUNCE may carry are those of the strapped classes (R168). -/
theorem class_of_code {n : Nat} (h1 : 1 ≤ n) (h3 : n ≤ 3) :
    ∃ cls : LineClass, cls ≠ .none ∧ n = cls.code := by
  obtain rfl | rfl | rfl : n = 1 ∨ n = 2 ∨ n = 3 := by omega
  · exact ⟨.deck, by decide, rfl⟩
  · exact ⟨.console, by decide, rfl⟩
  · exact ⟨.bridge, by decide, rfl⟩

section
variable {s : State} {l : Nat} {ln : Line} {c : LineClass} {mask : Word} {e h : Bool}

theorem announce_of_held (hl : s.line? l = some ln) (hact : ln.link = .active)
    (hheld : s.heldBy l ≠ []) : s.announce l c mask e h = (s, .held) := by
  simp only [State.announce, hl, if_pos hact, if_pos hheld]

theorem announce_of_class (hl : s.line? l = some ln) (hheld : ln.link = .active → s.heldBy l = [])
    (hc : c ≠ ln.cls) :
    s.announce l c mask e h = (s.raiseAlarm .classMismatch (.line l), .class) := by
  by_cases hact : ln.link = .active
  · simp only [State.announce, hl, if_pos hact, hheld hact, ne_eq, not_true, if_false, if_pos hc]
  · simp only [State.announce, hl, if_neg hact, if_pos hc]

theorem announce_again (hl : s.line? l = some ln) (hact : ln.link = .active)
    (hheld : s.heldBy l = []) (hc : c = ln.cls) : s.announce l c mask e h =
      ((s.enroll l mask e h).clearAlarm .classMismatch (.line l), .done) := by
  simp only [State.announce, hl, if_pos hact, hheld, hc, ne_eq, not_true, if_false]

/-- A line that is not ACTIVE becomes so, and its REPORT timer starts (R162). -/
def State.activated (s : State) (l : Nat) : State :=
  s.updLine l fun x =>
    { x with link := .active, reportAt := some (s.now + 500), reportIsDue := false }

theorem announce_new (hl : s.line? l = some ln) (hact : ln.link ≠ .active) (hc : c = ln.cls) :
    s.announce l c mask e h =
      ((((s.activated l).enroll l mask e h).clearAlarm .classMismatch (.line l)).clearAlarm
        .stationLost (.line l), .done) := by
  simp only [State.announce, hl, if_neg hact, hc, ne_eq, not_true, if_false]
  rfl

end

theorem line?_activated_same (s : State) (l : Nat) :
    (s.activated l).line? l = (s.line? l).map fun x =>
      { x with link := .active, reportAt := some (s.now + 500), reportIsDue := false } :=
  line?_updLine_same s l _ (by intro; rfl)

theorem activated_others (s : State) (l : Nat) : SameOtherLines s l (s.activated l) :=
  updLine_others s l _ (by intro; rfl)

/-- A line's record with the announced data and its reach (R115, R116). -/
def Line.enrolled (inForce : Option Items) (mask : Word) (e h : Bool) (ln : Line) : Line :=
  { ln with
    annReach := some mask
    holdAbility := some h
    estopAbility := some e
    reach := resolveReach inForce
      { ln with annReach := some mask, holdAbility := some h, estopAbility := some e } }

theorem line?_enroll_same (s : State) (l : Nat) (mask : Word) (e h : Bool) :
    (s.enroll l mask e h).line? l = (s.line? l).map (Line.enrolled s.inForce mask e h) :=
  line?_updLine_same s l _ (by intro; rfl)

theorem enroll_others (s : State) (l : Nat) (mask : Word) (e h : Bool) :
    SameOtherLines s l (s.enroll l mask e h) :=
  updLine_others s l _ (by intro; rfl)

theorem SameOtherLines.trans {s t u : State} {l : Nat} (h : SameOtherLines s l t)
    (k : SameOtherLines t l u) : SameOtherLines s l u :=
  ⟨fun j hj => (k.same j hj).trans (h.same j hj)⟩

/-- The reach of an ACTIVE line (R116). -/
theorem resolveReach_of_active {ln : Line} (hact : ln.link = .active) (hcls : ln.cls ≠ .none)
    (f : Option Items) : resolveReach f ln =
      match f with
      | none => 0
      | some i =>
        if ln.cls = .deck then
          ln.annReach.getD 0 &&& cfgReach i ln.num &&& reachUpTo (cfgHatches i)
        else reachUpTo (cfgHatches i) := by
  cases f with
  | none => rfl
  | some i =>
    simp only [resolveReach, if_pos hact]
    cases hc : ln.cls with
    | none => exact absurd hc hcls
    | deck => exact (if_pos rfl).symm
    | console | bridge => rfl

theorem enrolled_of_active {ln : Line} (hact : ln.link = .active) (hcls : ln.cls ≠ .none)
    (f : Option Items) (mask : Word) (e h : Bool) : ln.enrolled f mask e h =
      { ln with
        annReach := some mask
        holdAbility := some h
        estopAbility := some e
        reach := match f with
          | none => 0
          | some i =>
            if ln.cls = .deck then mask &&& cfgReach i ln.num &&& reachUpTo (cfgHatches i)
            else reachUpTo (cfgHatches i) } :=
  congrArg (fun x => { ln with
    annReach := some mask, holdAbility := some h, estopAbility := some e, reach := x })
    (resolveReach_of_active (ln := { ln with
      annReach := some mask, holdAbility := some h, estopAbility := some e }) hact hcls f)

/-- An ANNOUNCE on a line that hears is answered with the owner's decision. -/
theorem exec_announce {s : State} {l : Nat} {ln : Line} (hs : Hears s l ln)
    (hq : ln.queue.length < 4) (dt : Nat) (seq : Byte) {c hi lo ab : Byte} {cls : LineClass}
    (hc : c.toNat = cls.code) (hcls : cls ≠ .none) {u : State} {r : Result}
    (h : (s.taken dt l).announce l cls (word hi lo &&& 0x07FF) (ab.getLsbD 0) (ab.getLsbD 1) =
      (u, r)) :
    exec (.announce dt l seq [c, hi, lo, ab]) s = .next (u.answer l seq kindAnnounce (some r)
      (if r = .done then [byte u.hatchCount, byte u.mode.code] else [])) := by
  refine (request_announce hs hq (by simp) seq (requestAnnounce [c, hi, lo, ab])).trans ?_
  simp only [requestAnnounce, announceArgs_of_code hc hcls, h]

/-- The arguments of a DONE: the hatch count and the part mode (R160). -/
theorem exec_announce_done {s : State} {l : Nat} {ln : Line} (hs : Hears s l ln)
    (hq : ln.queue.length < 4) (dt : Nat) (seq : Byte) {c hi lo ab : Byte} {cls : LineClass}
    (hc : c.toNat = cls.code) (hcls : cls ≠ .none) {u : State}
    (h : (s.taken dt l).announce l cls (word hi lo &&& 0x07FF) (ab.getLsbD 0) (ab.getLsbD 1) =
      (u, .done)) (hforce : u.inForce = s.inForce) (hmode : u.mode = s.mode) :
    exec (.announce dt l seq [c, hi, lo, ab]) s = .next (u.answer l seq kindAnnounce (some .done)
      [byte (match s.inForce with | none => 0 | some i => cfgHatches i), byte s.mode.code]) := by
  rw [exec_announce hs hq dt seq hc hcls h, if_pos rfl, State.hatchCount, hforce, hmode]
  cases s.inForce <;> rfl

/-- Settles O9: on an ACTIVE line the record is enrolled anew, on another line it is activated first. -/
theorem announceOfTheStrappedClassIsAccepted : Obligations.AnnounceOfTheStrappedClassIsAccepted := by
  unfold Obligations.AnnounceOfTheStrappedClassIsAccepted
  intro s dt l seq c hi lo ab ln hs hq hcls hc hheld
  have hl := line?_taken hs dt
  have hnow := taken_now hs.1 dt l
  have hnum := line?_num hs.2.2.2.1
  by_cases hact : ln.link = .active
  · have hact' : (if ln.link = .down then Link.awaiting else ln.link) = .active := by simp [hact]
    refine ⟨_, exec_announce_done hs hq dt seq hc hcls
      (announce_again hl hact' (hheld hact) rfl) rfl rfl, rfl, ?_,
      (taken_others s dt l).trans ⟨(enroll_others (s.taken dt l) ..).same⟩, ?_⟩
    · rw [if_pos hact]
      rfl
    · refine (line?_enroll_same _ l _ _ _).trans ?_
      rw [hl, Option.map_some, enrolled_of_active]
      · simp only [hact', if_pos hact, hnum]
        rfl
      · exact hact'
      · exact hcls
  · have hact' : (if ln.link = .down then Link.awaiting else ln.link) ≠ .active := by
      split
      · exact (nomatch ·)
      · exact hact
    refine ⟨_, exec_announce_done hs hq dt seq hc hcls (announce_new hl hact' rfl) rfl rfl, rfl,
      ?_, (taken_others s dt l).trans ((activated_others ..).trans
        ⟨(enroll_others ((s.taken dt l).activated l) ..).same⟩), ?_⟩
    · rw [if_neg hact]
      rfl
    · refine (line?_enroll_same _ l _ _ _).trans ?_
      rw [line?_activated_same, hl, Option.map_some, Option.map_some, enrolled_of_active]
      · simp only [if_neg hact, hnum, hnow]
        rfl
      · rfl
      · exact hcls

/-- Settles O10, by the two refusals of the owner. -/
theorem announceIsRefused : Obligations.AnnounceIsRefused := by
  unfold Obligations.AnnounceIsRefused
  intro s dt l seq c hi lo ab ln hs hq h1 h3
  obtain ⟨cls, hcls, hc⟩ := class_of_code h1 h3
  have hl := line?_taken hs dt
  refine ⟨fun hact hheld => ?_, fun hheld hne => ?_⟩
  · have hact' : (if ln.link = .down then Link.awaiting else ln.link) = .active := by simp [hact]
    exact exec_announce hs hq dt seq hc hcls (announce_of_held hl hact' hheld)
  · have hheld' : (if ln.link = .down then Link.awaiting else ln.link) = .active →
        (s.taken dt l).heldBy l = [] := by
      split
      · exact (nomatch ·)
      · exact hheld
    exact exec_announce hs hq dt seq hc hcls
      (announce_of_class hl hheld' fun h => hne (hc.trans (congrArg LineClass.code h)))

/-! ### CLEAR COUNTERS -/

/-- Settles O13, by the class of the line. -/
theorem clearCounters : Obligations.ClearCounters := by
  unfold Obligations.ClearCounters
  intro s dt l seq i hs hmode
  have hm : (s.taken dt l).mode ≠ .unconfigured := hmode
  have hcls : (s.taken dt l).classOf l = s.classOf l := classOf_taken s dt l l
  refine ⟨fun hc => served_to hs (by simp) ?_, fun hc => served_to hs (by simp) ?_⟩
  · simp only [requestClearCounters, anyIndex, State.clearCounters, if_neg hm, hcls, hc, ne_eq,
      not_true, if_false, byte_toNat, clearCountersTarget]
    rfl
  · simp only [requestClearCounters, anyIndex, State.clearCounters, if_neg hm, hcls, if_pos hc,
      byte_toNat, clearCountersTarget]

end Sys2Proof.Machine

/-! A halted step (R53, R56) and a lost claim (R69, R118): what each changes of the hatch, and nothing
else. -/

namespace Sys2Proof.Machine

/-! ### What leaves with an entry, a grant and a motion -/

theorem noteEmpty_eq (s : State) : s.noteEmpty = { s with pumpIdle := s.noteEmpty.pumpIdle } := by
  unfold State.noteEmpty
  split <;> rfl

theorem dropEntry_eq (s : State) (h : Nat) : s.dropEntry h =
    { s with queue := (s.dropEntry h).queue, pumpIdle := (s.dropEntry h).pumpIdle } := by
  unfold State.dropEntry
  split
  · rw [noteEmpty_eq]
  · rfl

theorem dropGrant_eq (s : State) (h : Nat) : s.dropGrant h =
    { s with granted := (s.dropGrant h).granted, pumpIdle := (s.dropGrant h).pumpIdle } := by
  unfold State.dropGrant
  split
  · rw [noteEmpty_eq]
  · rfl

theorem endMotion_keeps (s : State) (o : Op) : s.endMotion o =
    { s with
      nodes := (s.motionShut o).nodes
      hatches := (s.endMotion o).hatches
      granted := (s.endMotion o).granted
      pumpIdle := (s.endMotion o).pumpIdle } := by
  rw [endMotion_eq, State.classifierIdle, State.updHatch, dropGrant_eq, motionShut_eq]

theorem hatch?_endMotion_same (s : State) (o : Op) : (s.endMotion o).hatch? o.hatch =
    (s.hatch? o.hatch).map fun x => { x with classifier := .idle } := by
  have hatches : ((s.motionShut o).dropGrant o.hatch).hatches = s.hatches := by
    rw [dropGrant_eq, motionShut_eq]
  rw [endMotion_eq, State.classifierIdle, hatch?_updHatch_same _ _ _ (by intro; rfl), State.hatch?,
    hatches, State.hatch?]

/-! ### A halted step (R56) -/

/-- The record of a halted operation. -/
def Op.halted (o : Op) (st : OpState) (r : Option HaltReason) (f : Option FaultKind) : Op :=
  { o with st := st, start := none, halt := r, fault := f, hold := none }

section
variable {s : State} {h : Nat} {o : Op} (ho : s.op? h = some o) (st : OpState)
  (r : Option HaltReason) (f : Option FaultKind)

theorem isBusy_iff (o : Op) : o.isBusy = true ↔ o.st = .queued ∨ o.st = .moving := by
  simp [Op.isBusy]

include ho

theorem haltOp_of_moving (hst : o.st = .moving) : s.haltOp h st r f =
    State.claimRun ((s.endMotion o).updOp h fun x => x.halted st r f) h := by
  simp only [State.haltOp, ho, hst]
  rfl

theorem haltOp_of_queued (hst : o.st = .queued) : s.haltOp h st r f =
    State.claimRun ((s.dropEntry h).updOp h fun x => x.halted st r f) h := by
  simp only [State.haltOp, ho, hst]
  rfl

theorem op?_haltOp_same (hst : o.st = .queued ∨ o.st = .moving) :
    (s.haltOp h st r f).op? h = some (o.halted st r f) := by
  have settled : ∀ x : State, x.ops = s.ops →
      (State.claimRun (x.updOp h fun y => y.halted st r f) h).op? h = some (o.halted st r f) := by
    intro x hx
    have hxo : x.op? h = some o := by rw [← ho, State.op?, State.op?, hx]
    exact (op?_updOp_same x h (fun y => y.halted st r f) (by intro; rfl)).trans
      (congrArg (Option.map _) hxo)
  rcases hst with hq | hm
  · rw [haltOp_of_queued ho st r f hq]
    exact settled _ (ops_dropEntry s h)
  · rw [haltOp_of_moving ho st r f hm]
    exact settled _ (ops_endMotion s o)

theorem claim?_haltOp_same (hst : o.st = .queued ∨ o.st = .moving) :
    (s.haltOp h st r f).claim? h = (s.claim? h).map fun c =>
      if c.holder.isSome then { c with idle := some s.now } else c := by
  rcases hst with hq | hm
  · rw [haltOp_of_queued ho st r f hq, dropEntry_eq]
    exact claim?_claimRun_same _ h
  · rw [haltOp_of_moving ho st r f hm, endMotion_keeps]
    exact claim?_claimRun_same _ h

theorem entry?_haltOp (hst : o.st = .queued) : (s.haltOp h st r f).entry? h = none := by
  rw [haltOp_of_queued ho st r f hst]
  exact entry?_dropEntry s h

theorem grant?_haltOp (hst : o.st = .moving) : (s.haltOp h st r f).grant? h = none := by
  rw [haltOp_of_moving ho st r f hst]
  refine Eq.trans (b := (s.endMotion o).grant? h) rfl ?_
  have hh : o.hatch = h := findKey_key ho
  rw [State.grant?, granted_endMotion, hh]
  exact find_filter_same Grant.hatch h s.granted

theorem hatch?_haltOp_of_moving (hst : o.st = .moving) : (s.haltOp h st r f).hatch? h =
    (s.hatch? h).map fun x => { x with classifier := .idle } := by
  obtain rfl : o.hatch = h := findKey_key ho
  rw [haltOp_of_moving ho st r f hst]
  exact hatch?_endMotion_same s o

/-- The valves after a halt (R53, R56). -/
theorem haltShut_haltOp (hst : o.st = .queued ∨ o.st = .moving) :
    HaltShut s (s.haltOp h st r f) h o := by
  obtain rfl : o.hatch = h := findKey_key ho
  refine ⟨fun hm => ?_, fun step hm hstep => ?_⟩
  · rw [haltOp_of_queued ho st r f (hst.resolve_right hm), dropEntry_eq]
    rfl
  · have nodes : (s.haltOp o.hatch st r f).nodes = (s.shutValves o.hatch step).nodes := by
      rw [haltOp_of_moving ho st r f hm, endMotion_keeps]
      simp only [State.motionShut, show o.step? = some step from hstep]
      rfl
    obtain ⟨shut, others⟩ := stepShut_shutValves s o.hatch step
    exact ⟨fun i hi role hr p hp => (outAt_of_nodes nodes ..).trans (shut i hi role hr p hp),
      fun a k hn => (outAt_of_nodes nodes a k).trans (others a k hn)⟩

end

/-- What a halt leaves as it is. -/
theorem haltOp_keeps (s : State) (h : Nat) (st : OpState) (r : Option HaltReason)
    (f : Option FaultKind) : s.haltOp h st r f =
      { s with
        nodes := (s.haltOp h st r f).nodes
        hatches := (s.haltOp h st r f).hatches
        ops := (s.haltOp h st r f).ops
        claims := (s.haltOp h st r f).claims
        queue := (s.haltOp h st r f).queue
        granted := (s.haltOp h st r f).granted
        pumpIdle := (s.haltOp h st r f).pumpIdle } := by
  unfold State.haltOp
  split
  · rfl
  · dsimp only
    split
    · rw [endMotion_keeps]
      rfl
    · rw [dropEntry_eq]
      rfl
    · rfl

theorem alarms_haltOp (s : State) (h : Nat) (st : OpState) (r : Option HaltReason)
    (f : Option FaultKind) : (s.haltOp h st r f).alarms = s.alarms := by
  rw [haltOp_keeps]

theorem now_haltOp (s : State) (h : Nat) (st : OpState) (r : Option HaltReason)
    (f : Option FaultKind) : (s.haltOp h st r f).now = s.now := by
  rw [haltOp_keeps]

/-- Settles O25, by the lemmas of `State.haltOp`. -/
theorem haltOfAStep : Obligations.HaltOfAStep := by
  unfold Obligations.HaltOfAStep
  intro s h r o ho hst
  exact ⟨onlyMotion_pauseOp .., sameOther_pauseOp .., op?_haltOp_same ho _ _ _ hst,
    claim?_haltOp_same ho _ _ _ hst,
    fun hq => ⟨entry?_haltOp ho _ _ _ hq,
      (haltShut_haltOp ho _ _ _ hst).1 (by simp [hq])⟩,
    fun hm => ⟨grant?_haltOp ho _ _ _ hm, hatch?_haltOp_of_moving ho _ _ _ hm⟩,
    haltShut_haltOp ho _ _ _ hst⟩

/-! ### A lost claim (R69) -/

/-- The record of the operation of a hatch whose claim is lost. -/
def Op.lost (o : Op) : Op := if o.st = .idle ∨ o.st = .faulted then o else o.cleared

theorem cleared_halted (o : Op) (st : OpState) (r : Option HaltReason) (f : Option FaultKind) :
    (o.halted st r f).cleared = o.cleared := rfl

theorem claimLoss_of_rest {s : State} {h : Nat}
    (hst : s.opState h = .idle ∨ s.opState h = .faulted) : s.claimLoss h = s := by
  rcases hst with hi | hf <;> simp only [State.claimLoss, *]

theorem claimLoss_of_paused {s : State} {h : Nat} (hst : s.opState h = .paused) :
    s.claimLoss h = s.clearIdle h := by
  simp only [State.claimLoss, hst]

theorem claimLoss_of_busy {s : State} {h : Nat}
    (hst : s.opState h = .queued ∨ s.opState h = .moving) :
    s.claimLoss h = (s.haltOp h .idle none none).clearIdle h := by
  rcases hst with hq | hm <;> simp only [State.claimLoss, *]

theorem opState_of_none {s : State} {h : Nat} (ho : s.op? h = none) : s.opState h = .idle := by
  simp [State.opState, ho]

/-- A record that is found is at work, PAUSED, IDLE or FAULTED. -/
theorem opState_cases (s : State) (h : Nat) :
    (s.opState h = .idle ∨ s.opState h = .faulted) ∨ s.opState h = .paused ∨
      ∃ o, s.op? h = some o ∧ (o.st = .queued ∨ o.st = .moving) := by
  cases ho : s.op? h with
  | none => exact .inl (.inl (opState_of_none ho))
  | some o =>
    rw [opState_of_op? ho]
    cases hst : o.st with
    | idle | faulted => simp
    | paused => simp
    | queued => exact .inr (.inr ⟨o, rfl, .inl hst⟩)
    | moving => exact .inr (.inr ⟨o, rfl, .inr hst⟩)

theorem clearIdle_keeps (s : State) (h : Nat) : s.clearIdle h =
    { s with
      ops := (s.clearIdle h).ops
      claims := (s.clearIdle h).claims
      alarms := s.alarms.clear .stall (.hatch h) } := rfl

theorem entry?_clearIdle (s : State) (h k : Nat) : (s.clearIdle h).entry? k = s.entry? k := rfl

theorem grant?_clearIdle (s : State) (h k : Nat) : (s.clearIdle h).grant? k = s.grant? k := rfl

/-- The outputs decide what a halt has shut. -/
theorem HaltShut.of_nodes {s t u : State} {h : Nat} {o : Op} (hs : HaltShut s t h o)
    (hn : u.nodes = t.nodes) : HaltShut s u h o := by
  obtain ⟨rest, shut⟩ := hs
  refine ⟨fun hm => hn.trans (rest hm), fun st hm hst => ?_⟩
  obtain ⟨valves, others⟩ := shut st hm hst
  exact ⟨fun i hi role hr p hp => (outAt_of_nodes hn ..).trans (valves i hi role hr p hp),
    fun a k hk => (outAt_of_nodes hn a k).trans (others a k hk)⟩

theorem op?_claimLoss_same (s : State) (h : Nat) :
    (s.claimLoss h).op? h = (s.op? h).map Op.lost := by
  rcases opState_cases s h with hr | hp | ⟨o, ho, hst⟩
  · rw [claimLoss_of_rest hr]
    cases ho : s.op? h with
    | none => rfl
    | some o =>
      rw [opState_of_op? ho] at hr
      rw [Option.map_some, Op.lost, if_pos hr]
  · rw [claimLoss_of_paused hp, op?_clearIdle_same]
    cases ho : s.op? h with
    | none => rfl
    | some o =>
      rw [opState_of_op? ho] at hp
      rw [Option.map_some, Option.map_some, Op.lost, if_neg (by simp [hp])]
  · have hbusy : s.opState h = .queued ∨ s.opState h = .moving := by rwa [opState_of_op? ho]
    rw [claimLoss_of_busy hbusy, op?_clearIdle_same, op?_haltOp_same ho _ _ _ hst, ho,
      Option.map_some, Option.map_some, cleared_halted, Op.lost, if_neg]
    rcases hst with hq | hm <;> simp [*]

theorem alarms_claimLoss (s : State) (h : Nat) : (s.claimLoss h).alarms =
    if s.opState h = .idle ∨ s.opState h = .faulted then s.alarms
    else s.alarms.clear .stall (.hatch h) := by
  by_cases hr : s.opState h = .idle ∨ s.opState h = .faulted
  · rw [if_pos hr, claimLoss_of_rest hr]
  · rw [if_neg hr]
    by_cases hp : s.opState h = .paused
    · rw [claimLoss_of_paused hp, clearIdle_keeps]
    · have hbusy : s.opState h = .queued ∨ s.opState h = .moving := by
        cases hst : s.opState h <;> simp_all
      rw [claimLoss_of_busy hbusy, clearIdle_keeps, alarms_haltOp]

/-- The claim of a hatch that nobody holds stays as it is. -/
theorem claim?_claimLoss_of_free {s : State} {h : Nat} {c : Claim} (hc : s.claim? h = some c)
    (hfree : c.holder = none) : (s.claimLoss h).claim? h = some c := by
  have run : (some c).map (fun c => if c.holder.isSome then { c with idle := some s.now } else c) =
      some c := by simp [hfree]
  rcases opState_cases s h with hr | hp | ⟨o, ho, hst⟩
  · rw [claimLoss_of_rest hr, hc]
  · rw [claimLoss_of_paused hp, claim?_clearIdle_same, hc, run]
  · have hbusy : s.opState h = .queued ∨ s.opState h = .moving := by rwa [opState_of_op? ho]
    rw [claimLoss_of_busy hbusy, claim?_clearIdle_same, claim?_haltOp_same ho _ _ _ hst, hc,
      now_haltOp, run, run]

theorem entry?_claimLoss {s : State} {h : Nat} (hq : s.opState h = .queued) :
    (s.claimLoss h).entry? h = none := by
  rcases opState_cases s h with hr | hp | ⟨o, ho, -⟩
  · simp [hq] at hr
  · simp [hq] at hp
  · rw [claimLoss_of_busy (.inl hq), entry?_clearIdle]
    exact entry?_haltOp ho _ _ _ (by rwa [opState_of_op? ho] at hq)

theorem grant?_claimLoss {s : State} {h : Nat} (hm : s.opState h = .moving) :
    (s.claimLoss h).grant? h = none := by
  rcases opState_cases s h with hr | hp | ⟨o, ho, -⟩
  · simp [hm] at hr
  · simp [hm] at hp
  · rw [claimLoss_of_busy (.inr hm), grant?_clearIdle]
    exact grant?_haltOp ho _ _ _ (by rwa [opState_of_op? ho] at hm)

theorem haltShut_claimLoss {s : State} {h : Nat} {o : Op} (ho : s.op? h = some o) :
    HaltShut s (s.claimLoss h) h o := by
  by_cases hst : o.st = .queued ∨ o.st = .moving
  · have hbusy : s.opState h = .queued ∨ s.opState h = .moving := by rwa [opState_of_op? ho]
    rw [claimLoss_of_busy hbusy]
    exact (haltShut_haltOp ho _ _ _ hst).of_nodes rfl
  · have nodes : (s.claimLoss h).nodes = s.nodes := by
      by_cases hp : s.opState h = .paused
      · rw [claimLoss_of_paused hp, clearIdle_keeps]
      · rw [claimLoss_of_rest]
        rw [opState_of_op? ho] at hp ⊢
        cases hs : o.st <;> simp_all
    exact ⟨fun _ => nodes, fun _ hm => absurd (.inr hm) hst⟩

/-! ### A released claim (R118) -/

section
variable (s : State) (h : Nat)

theorem op?_release_same : (s.release h).op? h = (s.op? h).map Op.lost :=
  op?_claimLoss_same (s.claimFree h) h

theorem alarms_release : (s.release h).alarms =
    if s.opState h = .idle ∨ s.opState h = .faulted then s.alarms
    else s.alarms.clear .stall (.hatch h) :=
  alarms_claimLoss (s.claimFree h) h

variable {s h}

theorem claim?_release_same {c : Claim} (hc : s.claim? h = some c) :
    (s.release h).claim? h = some { c with holder := none, idle := none } :=
  claim?_claimLoss_of_free ((claim?_claimFree_same s h).trans (congrArg (Option.map _) hc)) rfl

theorem entry?_release (hq : s.opState h = .queued) : (s.release h).entry? h = none :=
  entry?_claimLoss (s := s.claimFree h) hq

theorem grant?_release (hm : s.opState h = .moving) : (s.release h).grant? h = none :=
  grant?_claimLoss (s := s.claimFree h) hm

theorem haltShut_release {o : Op} (ho : s.op? h = some o) : HaltShut s (s.release h) h o :=
  haltShut_claimLoss (s := s.claimFree h) ho

/-- The release of a hatch without a motion changes its claim, its operation and its STALL. -/
theorem release_of_not_busy (hb : s.busy h = false) : s.release h =
    { s with
      claims := (s.release h).claims
      ops := (s.release h).ops
      alarms := if s.opState h = .paused then s.alarms.clear .stall (.hatch h) else s.alarms } := by
  by_cases hp : s.opState h = .paused
  · rw [if_pos hp, State.release, claimLoss_of_paused (s := s.claimFree h) hp, clearIdle_keeps]
    rfl
  · have hr : (s.claimFree h).opState h = .idle ∨ (s.claimFree h).opState h = .faulted := by
      change s.opState h = .idle ∨ s.opState h = .faulted
      cases hs : s.opState h <;> simp_all [State.busy]
    rw [if_neg hp, State.release, claimLoss_of_rest hr]
    rfl

/-- The operation of a hatch without a motion after the release. -/
theorem op?_release_of_not_busy (hb : s.busy h = false) : (s.release h).op? h =
    (s.op? h).map fun o => if o.st = .paused then o.cleared else o := by
  rw [op?_release_same]
  cases ho : s.op? h with
  | none => rfl
  | some o =>
    simp only [State.busy, opState_of_op? ho] at hb
    rw [Option.map_some, Option.map_some, Op.lost]
    cases hst : o.st <;> simp_all

theorem busy_release_of_not_busy (hb : s.busy h = false) : (s.release h).busy h = false := by
  have hop := op?_release_of_not_busy hb
  cases ho : s.op? h with
  | none => simp [State.busy, State.opState, hop, ho]
  | some o =>
    simp only [State.busy, opState_of_op? ho] at hb
    rw [ho, Option.map_some] at hop
    rw [State.busy, opState_of_op? hop]
    split
    · rfl
    · exact hb

end

end Sys2Proof.Machine

/-! The Authority's requests: TAKE (R119 to R121), YIELD (R122), the claim idle timer (R71, R124), and HALT
(R65). -/

namespace Sys2Proof.Machine

/-! ### The state that an owner finds -/

theorem busy_taken (s : State) (dt l h : Nat) : (s.taken dt l).busy h = s.busy h := rfl

theorem claim?_taken (s : State) (dt l h : Nat) : (s.taken dt l).claim? h = s.claim? h := rfl

/-- The passage of time touches no hatch. -/
theorem SameOtherHatches.of_advance {s t : State} {dt h : Nat}
    (hs : SameOtherHatches (s.advance dt) h t) : SameOtherHatches s h t :=
  ⟨hs.hatch, hs.op, hs.claim, hs.entry, hs.grant⟩

theorem SameOtherHatches.of_taken {s t : State} {dt l h : Nat}
    (hs : SameOtherHatches (s.taken dt l) h t) : SameOtherHatches s h t :=
  ⟨hs.hatch, hs.op, hs.claim, hs.entry, hs.grant⟩

/-- The coverage of a line that is served. -/
theorem covers_taken {s : State} {l : Nat} (hs : Served s l) (dt h : Nat) :
    (s.taken dt l).covers l h = s.covers l h := by
  obtain ⟨ln, hh, hact, -⟩ := hs
  simp only [State.covers, line?_taken hh dt, hh.2.2.2.1, hact]
  rfl

theorem holder?_of_claim? {s : State} {h : Nat} {c : Claim} (hc : s.claim? h = some c) :
    s.holder? h = c.holder := by
  simp only [State.holder?, hc]

theorem busy_eq_false_iff {s : State} {h : Nat} :
    s.busy h = false ↔ s.opState h ≠ .queued ∧ s.opState h ≠ .moving := by
  simp [State.busy]

theorem busy_iff {s : State} {h : Nat} {o : Op} (ho : s.op? h = some o) :
    s.busy h = true ↔ o.st = .queued ∨ o.st = .moving := by
  simp [State.busy, opState_of_op? ho]

/-! ### The claim idle timer of the holder (R71) -/

section
variable {s : State} {h l : Nat}

theorem claimTouch_keeps (s : State) (h l : Nat) :
    s.claimTouch h l = { s with claims := (s.claimTouch h l).claims } := by
  unfold State.claimTouch
  split <;> rfl

theorem claimTouch_of_run (hh : s.holder? h = some l) (hb : s.busy h = false) :
    s.claimTouch h l = s.claimRun h :=
  if_pos ⟨hh, hb⟩

theorem claimTouch_of_busy (hb : s.busy h = true) : s.claimTouch h l = s :=
  if_neg fun hc => by simp [hb] at hc

theorem claimTouch_of_other (hh : s.holder? h ≠ some l) : s.claimTouch h l = s :=
  if_neg fun hc => hh hc.1

theorem claim?_claimTouch_ne {k : Nat} (hk : k ≠ h) :
    (s.claimTouch h l).claim? k = s.claim? k := by
  unfold State.claimTouch
  split
  · exact (sameOther_claimRun s h).claim k hk
  · rfl

/-- The claim of the holder after its request. -/
theorem claim?_claimTouch_of_holder {c : Claim} (hc : s.claim? h = some c)
    (hl : c.holder = some l) : (s.claimTouch h l).claim? h =
      some { c with idle := if s.busy h then c.idle else some s.now } := by
  cases hb : s.busy h with
  | true => rw [claimTouch_of_busy hb, hc]; rfl
  | false =>
    rw [claimTouch_of_run ((holder?_of_claim? hc).trans hl) hb, claim?_claimRun_same, hc]
    simp [hl]

/-- A request leaves every holder as it is. -/
theorem holder?_claimTouch (s : State) (h l k : Nat) :
    (s.claimTouch h l).holder? k = s.holder? k := by
  by_cases hk : k = h
  · subst hk
    unfold State.claimTouch
    split
    · unfold State.holder?
      rw [claim?_claimRun_same]
      cases s.claim? k with
      | none => rfl
      | some c => dsimp only [Option.map_some]; split <;> rfl
    · rfl
  · unfold State.holder?
    rw [claim?_claimTouch_ne hk]

theorem classOf_claimTouch (s : State) (h l k : Nat) :
    (s.claimTouch h l).classOf k = s.classOf k := by
  rw [claimTouch_keeps]
  rfl

theorem covers_claimTouch (s : State) (h l k j : Nat) :
    (s.claimTouch h l).covers k j = s.covers k j := by
  rw [claimTouch_keeps]
  rfl

theorem busy_claimTouch (s : State) (h l k : Nat) : (s.claimTouch h l).busy k = s.busy k := by
  rw [claimTouch_keeps]
  rfl

theorem op?_claimTouch (s : State) (h l k : Nat) : (s.claimTouch h l).op? k = s.op? k := by
  rw [claimTouch_keeps]
  rfl

theorem mode_claimTouch (s : State) (h l : Nat) : (s.claimTouch h l).mode = s.mode := by
  rw [claimTouch_keeps]

/-- The touch of a claim, record by record. -/
theorem claimTouch_eq (s : State) (h l : Nat) : s.claimTouch h l =
    if s.holder? h = some l ∧ s.opState h ≠ .queued ∧ s.opState h ≠ .moving then { s with
      claims := s.claims.map fun c =>
        if c.hatch = h ∧ c.holder ≠ none then { c with idle := some s.now } else c }
    else s := by
  unfold State.claimTouch
  simp only [busy_eq_false_iff, State.claimRun, State.updClaim, updateKey]
  congr 2
  refine List.map_congr_left fun c _ => ?_
  by_cases hc : c.hatch = h <;> simp [hc, Option.isSome_iff_ne_none]

end

/-! ### TAKE (R119 to R121) -/

/-- A TAKE that names a hatch is answered with what the Authority makes of it. -/
theorem exec_take {s u : State} {l : Nat} (hs : Served s l) {b : Byte} (hb : NamesHatch s b)
    {dt : Nat} {seq : Byte} {r : Result} (h : (s.taken dt l).take l b.toNat = (u, r)) :
    exec (.take dt l seq [b]) s = .next (u.answer l seq kindTake (some r)
      (b :: if r = .held then [byte ((u.holder? b.toNat).getD 0)] else [])) := by
  refine served_to hs (by simp) ?_
  simp only [requestTake, oneHatch_of_named ((namesHatch_taken s dt l b).mpr hb), h, byte_toNat]

section
variable {s : State} {l h : Nat} (hg : s.modeGate = none)
include hg

theorem take_of_bridge (hc : s.classOf l = .bridge) : s.take l h = (s, .class) := by
  simp only [State.take, hg, if_pos hc]

variable (hc : s.classOf l ≠ .bridge)
include hc

theorem take_of_no_reach (hr : s.covers l h = false) :
    s.take l h = (s.claimTouch h l, .noReach) := by
  simp only [State.take, hg, if_neg hc, covers_claimTouch, if_pos hr]

theorem take_of_commission (hr : s.covers l h = true) (hm : s.mode = .commission) :
    s.take l h = (s.claimTouch h l, .mode) := by
  simp only [State.take, hg, if_neg hc, covers_claimTouch, hr, Bool.true_eq_false, if_false,
    mode_claimTouch, if_pos hm]

theorem take_of_reach (hr : s.covers l h = true) (hm : s.mode ≠ .commission) :
    s.take l h = (s.claimTouch h l).decideTake l h := by
  simp only [State.take, hg, if_neg hc, covers_claimTouch, hr, Bool.true_eq_false, if_false,
    mode_claimTouch, if_neg hm]

end

theorem claim?_claimGrant_same (s : State) (h l : Nat) : (s.claimGrant h l).claim? h =
    (s.claim? h).map fun c =>
      { c with holder := some l, idle := if s.busy h then none else some s.now } :=
  claim?_updClaim_same s h _ (by intro; rfl)

/-- The gates of a TAKE in SEA or HARBOUR are open. -/
theorem gates_of_sea_or_harbour {s : State} (hm : s.mode = .sea ∨ s.mode = .harbour) :
    s.modeGate = none ∧ s.mode ≠ .commission := by
  rcases hm with hm | hm <;> simp [State.modeGate, hm]

/-- A TAKE that passes its gates is decided on the holder of the hatch. -/
theorem take_of_served {s : State} {l h : Nat} (hs : Served s l)
    (hm : s.mode = .sea ∨ s.mode = .harbour) (hcls : s.classOf l ≠ .bridge)
    (hcov : s.covers l h = true) (dt : Nat) :
    (s.taken dt l).take l h = ((s.taken dt l).claimTouch h l).decideTake l h := by
  obtain ⟨hg, hm'⟩ := gates_of_sea_or_harbour hm
  exact take_of_reach (s := s.taken dt l) hg (by rwa [classOf_taken]) (by rwa [covers_taken hs]) hm'

/-- Settles O14: a free hatch is granted, and the holder's own TAKE touches its claim. -/
theorem takeGrantsAFreeHatch : Obligations.TakeGrantsAFreeHatch := by
  unfold Obligations.TakeGrantsAFreeHatch
  intro s dt l seq b cl hs hb hm hcls hcov hcl hholder
  obtain ⟨ln, hh⟩ := hs.hears
  have hcl' : (s.taken dt l).claim? b.toNat = some cl := hcl
  have htake : (s.taken dt l).take l b.toNat =
      ((s.taken dt l).claimTouch b.toNat l).decideTake l b.toNat :=
    take_of_served hs hm hcls hcov dt
  have hheld : ((s.taken dt l).claimTouch b.toNat l).holder? b.toNat = cl.holder :=
    (holder?_claimTouch ..).trans (holder?_of_claim? hcl')
  rcases hholder with hfree | hmine
  · have hother : (s.taken dt l).claimTouch b.toNat l = s.taken dt l :=
      claimTouch_of_other (by rw [holder?_of_claim? hcl', hfree]; exact (nomatch ·))
    have hdec : (s.taken dt l).take l b.toNat = ((s.taken dt l).claimGrant b.toNat l, .done) := by
      rw [htake, hother]
      rw [hother] at hheld
      simp only [State.decideTake, hheld, hfree]
    refine ⟨_, exec_take hs hb hdec, rfl,
      fun k hk => (sameOther_claimGrant (s.taken dt l) b.toNat l).claim k hk, ?_⟩
    rw [claim?_claimGrant_same, hcl', busy_taken, taken_now hh.1, hfree, if_pos rfl]
    rfl
  · have hdec : (s.taken dt l).take l b.toNat = ((s.taken dt l).claimTouch b.toNat l, .done) := by
      rw [htake]
      simp only [State.decideTake, hheld, hmine, if_true]
    refine ⟨_, exec_take hs hb hdec, claimTouch_keeps .., fun k hk => claim?_claimTouch_ne hk, ?_⟩
    rw [claim?_claimTouch_of_holder hcl' hmine, busy_taken, taken_now hh.1, hmine]
    rfl

/-- Settles O15, by the rows of R119 and R121; a takeover releases the hatch and grants it. -/
theorem takeOfAHeldHatch : Obligations.TakeOfAHeldHatch := by
  unfold Obligations.TakeOfAHeldHatch
  refine ⟨fun s dt l seq b hs hb hm => ?_, claimTouch_eq,
    fun s dt l x seq b cl hs hb hm hcls hcov hcl hx hne => ?_⟩
  · have hg : (s.taken dt l).modeGate = none := modeGate_of_ship_mode hm
    have hc := classOf_taken s dt l l
    have hr := covers_taken hs dt b.toNat
    exact ⟨fun h => exec_take hs hb (take_of_bridge hg (hc.trans h)),
      fun h hcov => exec_take hs hb (take_of_no_reach hg (hc.symm ▸ h) (hr.trans hcov)),
      fun h hcov hmode => exec_take hs hb
        (take_of_commission hg (hc.symm ▸ h) (hr.trans hcov) hmode)⟩
  · obtain ⟨ln, hh⟩ := hs.hears
    have hcl' : (s.taken dt l).claim? b.toNat = some cl := hcl
    have hheld : (s.taken dt l).holder? b.toNat = some x := (holder?_of_claim? hcl').trans hx
    have hother : (s.taken dt l).claimTouch b.toNat l = s.taken dt l :=
      claimTouch_of_other (by rw [hheld]; exact fun h => hne (Option.some.inj h))
    have htake : (s.taken dt l).take l b.toNat = (s.taken dt l).decideTake l b.toNat := by
      rw [take_of_served hs hm hcls hcov, hother]
    refine ⟨fun hdc => ?_, fun hd hc hbusy => ?_, fun hd hc hbusy => ?_⟩
    · have hdec : (s.taken dt l).take l b.toNat = (s.taken dt l, .held) := by
        rw [htake]
        simp only [State.decideTake, hheld, if_neg hne, classOf_taken, if_neg hdc]
      rw [exec_take hs hb hdec, if_pos rfl, hheld]
      rfl
    · have hdec : (s.taken dt l).take l b.toNat = (s.taken dt l, .busy) := by
        rw [htake]
        simp only [State.decideTake, hheld, if_neg hne, classOf_taken, hd, hc, and_self, if_true,
          busy_taken, hbusy]
      exact exec_take hs hb hdec
    · have hdec : (s.taken dt l).take l b.toNat =
          (((s.taken dt l).release b.toNat).claimGrant b.toNat l, .done) := by
        rw [htake]
        simp only [State.decideTake, hheld, if_neg hne, classOf_taken, hd, hc, and_self, if_true,
          busy_taken, hbusy, Bool.false_eq_true, if_false]
      have hkeeps := release_of_not_busy (s := s.taken dt l) (h := b.toNat) hbusy
      have hothers := (sameOther_release (s.taken dt l) b.toNat).trans
        (sameOther_claimGrant _ b.toNat l)
      have hidle : ((s.taken dt l).release b.toNat).busy b.toNat = false :=
        busy_release_of_not_busy hbusy
      refine ⟨_, exec_take hs hb hdec, ?_, ?_, fun k hk => ⟨hothers.claim k hk, hothers.op k hk⟩,
        ?_, ?_⟩
      · rw [State.claimGrant, State.updClaim, hkeeps]
      · exact congrArg State.alarms hkeeps
      · rw [claim?_claimGrant_same, claim?_release_same hcl', hidle]
        have hnow : ((s.taken dt l).release b.toNat).now = s.now + dt :=
          (congrArg State.now hkeeps).trans (taken_now hh.1 dt l)
        rw [hnow]
        rfl
      · exact op?_release_of_not_busy hbusy

end Sys2Proof.Machine

/-! What ends or renews a motion: YIELD (R122) and the claim idle expiry (R71, R124), HOLD (R66), HALT (R65),
the step timeout (R59) and the hold window (R67). -/

namespace Sys2Proof.Machine

/-! ### YIELD (R122) -/

theorem exec_yield {s u : State} {l : Nat} (hs : Served s l) {b : Byte} (hb : NamesHatch s b)
    {dt : Nat} {seq : Byte} {r : Result} (h : (s.taken dt l).yieldHatch l b.toNat = (u, r)) :
    exec (.yield dt l seq [b]) s = .next (u.answer l seq kindYield (some r) [b]) := by
  refine served_to hs (by simp) ?_
  simp only [requestYield, oneHatch_of_named ((namesHatch_taken s dt l b).mpr hb), h, byte_toNat]

theorem yieldHatch_of_other {s : State} {l h : Nat} (hg : s.configGate = none)
    (hh : s.holder? h ≠ some l) : s.yieldHatch l h = (s, .notHeld) := by
  simp only [State.yieldHatch, hg, if_neg hh]

theorem yieldHatch_of_holder {s : State} {l h : Nat} (hg : s.configGate = none)
    (hh : s.holder? h = some l) : s.yieldHatch l h =
      (if s.busy h then (s.release h).evaluate else s.release h, .done) := by
  simp only [State.yieldHatch, hg, if_pos hh]

/-- Settles O16, by the lemmas of `State.release`. -/
theorem yieldReleasesTheHatch : Obligations.YieldReleasesTheHatch := by
  unfold Obligations.YieldReleasesTheHatch
  intro s dt l seq b cl hs hb hserv hcl
  have hg : (s.taken dt l).configGate = none :=
    (configGate_taken s dt l).trans (configGate_of_inService hserv)
  have hcl' : (s.taken dt l).claim? b.toNat = some cl := hcl
  have hholder := holder?_of_claim? hcl'
  refine ⟨fun hne => exec_yield hs hb (yieldHatch_of_other hg (hholder ▸ hne)), fun hl => ?_⟩
  exact ⟨_, exec_yield hs hb (yieldHatch_of_holder hg (hholder.trans hl)),
    onlyMotion_release .., (sameOther_release (s.taken dt l) b.toNat).of_taken,
    claim?_release_same hcl', op?_release_same (s.taken dt l) b.toNat,
    fun hq => entry?_release (s := s.taken dt l) hq,
    fun hm => grant?_release (s := s.taken dt l) hm,
    fun o ho => haltShut_release (s := s.taken dt l) ho⟩

/-! ### The claim idle expiry (R71, R124) -/

theorem exec_claimIdleExpiry {s : State} (hp : s.power = .running) (dt h : Nat) :
    exec (.claimIdleExpiry dt h) s = .next ((s.advance dt).claimExpiry h) :=
  congrArg _ (live_of_running hp ..)

@[simp] theorem advance_now {s : State} (hp : s.power = .running) (dt : Nat) :
    (s.advance dt).now = s.now + dt := by
  simp [State.advance, hp]

/-- Settles O17: at the limit the claim is released. -/
theorem claimIdleExpiryReleasesTheHatch : Obligations.ClaimIdleExpiryReleasesTheHatch := by
  unfold Obligations.ClaimIdleExpiryReleasesTheHatch
  refine ⟨fun s dt h t0 c cl hp hf hcl ht hdue hb => ?_, fun s dt h c cl hp hf hcl hdue => ?_⟩
  · have hf' : (s.advance dt).inForce = some c := hf
    have hcl' : (s.advance dt).claim? h = some cl := hcl
    have hel : elapsed cl.idle (cfgClaimMs c) (s.advance dt).now = true := by
      simpa only [elapsed, ht, advance_now hp, decide_eq_true_eq, cfgClaimMs] using hdue
    have hexp : (s.advance dt).claimExpiry h = (s.advance dt).release h := by
      simp only [State.claimExpiry, hf', hcl', hel, if_true]
    have hkeeps := release_of_not_busy (s := s.advance dt) hb
    have hothers := sameOther_release (s.advance dt) h
    refine ⟨_, exec_claimIdleExpiry hp dt h, ?_⟩
    rw [hexp]
    exact ⟨hkeeps.trans (by rw [hkeeps]), congrArg State.alarms hkeeps,
      fun k hk => ⟨hothers.claim k hk, hothers.op k hk⟩, claim?_release_same hcl',
      op?_release_of_not_busy (s := s.advance dt) hb⟩
  · have hf' : (s.advance dt).inForce = some c := hf
    have hcl' : (s.advance dt).claim? h = some cl := hcl
    have hel : elapsed cl.idle (cfgClaimMs c) (s.advance dt).now = false := by
      cases ht : cl.idle with
      | none => rfl
      | some t =>
        have hlt := hdue t ht
        simpa only [elapsed, advance_now hp, decide_eq_false_iff_not, not_le, cfgClaimMs] using hlt
    rw [exec_claimIdleExpiry hp]
    simp only [State.claimExpiry, hf', hcl', hel, Bool.false_eq_true, if_false]

/-! ### HOLD (R66) -/

theorem exec_hold {s u : State} {l : Nat} (hs : Served s l) {b : Byte} (hb : NamesHatch s b)
    {dt : Nat} {seq : Byte} {r : Result} (h : (s.taken dt l).renewHold l b.toNat = (u, r)) :
    exec (.hold dt l seq [b]) s = .next (u.answer l seq kindHold (some r) [b]) := by
  refine served_to hs (by simp) ?_
  simp only [requestHold, oneHatch_of_named ((namesHatch_taken s dt l b).mpr hb), h, byte_toNat]

/-- The operation's record with a HOLD window of 300 ms from now (R66). -/
def Op.held (now : Nat) (o : Op) : Op :=
  if o.disc = some .hold then { o with hold := some (now + 300) } else o

theorem held_hatch (now : Nat) (o : Op) : (o.held now).hatch = o.hatch := by
  unfold Op.held
  split <;> rfl

section
variable {s : State} {l h : Nat} (hg : s.configGate = none)
include hg

theorem renewHold_of_bridge (hc : s.classOf l = .bridge) : s.renewHold l h = (s, .class) := by
  simp only [State.renewHold, hg, if_pos hc]

variable (hc : s.classOf l ≠ .bridge)
include hc

theorem renewHold_of_other (hh : s.holder? h ≠ some l) : s.renewHold l h = (s, .notHeld) := by
  simp only [State.renewHold, hg, if_neg hc, claimTouch_of_other hh, ne_eq, hh, not_false_iff,
    if_true]

theorem renewHold_of_busy (hh : s.holder? h = some l) (hb : s.busy h = true) :
    s.renewHold l h = (s.updOp h (Op.held s.now), .done) := by
  simp only [State.renewHold, hg, if_neg hc, claimTouch_of_busy hb, hh, ne_eq, not_true, if_false,
    hb, if_true]
  rfl

theorem renewHold_of_not_busy (hh : s.holder? h = some l) (hb : s.busy h = false) :
    s.renewHold l h = (s.claimTouch h l, .notRunning) := by
  simp only [State.renewHold, hg, if_neg hc, holder?_claimTouch, hh, ne_eq, not_true, if_false,
    busy_claimTouch, hb, Bool.false_eq_true]

end

/-- Settles O23, by the rows of R66. -/
theorem holdRenewsTheWindow : Obligations.HoldRenewsTheWindow := by
  unfold Obligations.HoldRenewsTheWindow
  intro s dt l seq b o cl hs hb hserv ho hcl
  obtain ⟨ln, hh⟩ := hs.hears
  have hg : (s.taken dt l).configGate = none :=
    (configGate_taken s dt l).trans (configGate_of_inService hserv)
  have hc := classOf_taken s dt l l
  have ho' : (s.taken dt l).op? b.toNat = some o := ho
  have hcl' : (s.taken dt l).claim? b.toNat = some cl := hcl
  have hholder := holder?_of_claim? hcl'
  refine ⟨fun h => exec_hold hs hb (renewHold_of_bridge hg (hc.trans h)),
    fun h hne => exec_hold hs hb (renewHold_of_other hg (hc.symm ▸ h) (hholder ▸ hne)),
    fun h hl hst => ?_, fun h hl hq hm => ?_⟩
  · refine ⟨_, exec_hold hs hb (renewHold_of_busy hg (hc.symm ▸ h) (hholder.trans hl)
      ((busy_iff ho').mpr hst)), rfl, fun k hk => ?_, ?_⟩
    · exact (sameOther_updOp (s.taken dt l) b.toNat _ fun x _ => held_hatch _ x).op k hk
    · rw [op?_updOp_same _ _ _ (held_hatch _), ho', taken_now hh.1, Option.map_some, Op.held]
      split <;> rfl
  · have hbusy : (s.taken dt l).busy b.toNat = false := by
      simpa [busy_eq_false_iff, opState_of_op? ho'] using ⟨hq, hm⟩
    refine ⟨_, exec_hold hs hb (renewHold_of_not_busy hg (hc.symm ▸ h) (hholder.trans hl) hbusy),
      claimTouch_keeps .., fun k hk => claim?_claimTouch_ne hk, ?_⟩
    rw [claim?_claimTouch_of_holder hcl' hl, hbusy, taken_now hh.1]
    rfl

/-! ### HALT (R65) -/

theorem exec_halt {s u : State} {l : Nat} (hs : Served s l) {b : Byte} (hb : NamesHatch s b)
    {dt : Nat} {seq : Byte} {r : Result} (h : (s.taken dt l).haltRequest l b.toNat = (u, r)) :
    exec (.halt dt l seq [b]) s = .next (u.answer l seq kindHalt (some r) [b]) := by
  refine served_to hs (by simp) ?_
  simp only [requestHalt, oneHatch_of_named ((namesHatch_taken s dt l b).mpr hb), h, byte_toNat]

section
variable {s : State} {l h : Nat} (hg : s.configGate = none)
include hg

theorem haltRequest_of_no_reach (hr : s.covers l h = false) :
    s.haltRequest l h = (s.claimTouch h l, .noReach) := by
  simp only [State.haltRequest, hg, covers_claimTouch, if_pos hr]

theorem haltRequest_of_not_busy (hr : s.covers l h = true) (hb : s.busy h = false) :
    s.haltRequest l h = (s.claimTouch h l, .notRunning) := by
  simp only [State.haltRequest, hg, covers_claimTouch, hr, Bool.true_eq_false, if_false,
    busy_claimTouch, hb, Bool.false_eq_true]

theorem haltRequest_of_busy (hr : s.covers l h = true) (hb : s.busy h = true) :
    s.haltRequest l h = ((s.pauseOp h .halted).evaluate, .done) := by
  simp only [State.haltRequest, hg, claimTouch_of_busy hb, hr, Bool.true_eq_false, if_false, hb,
    if_true]

end

/-- Settles O24, by the rows of R65 and the lemmas of `State.haltOp`. -/
theorem haltPausesTheMotion : Obligations.HaltPausesTheMotion := by
  unfold Obligations.HaltPausesTheMotion
  intro s dt l seq b o hs hb hserv ho
  have hg : (s.taken dt l).configGate = none :=
    (configGate_taken s dt l).trans (configGate_of_inService hserv)
  have hr := covers_taken hs dt b.toNat
  have ho' : (s.taken dt l).op? b.toNat = some o := ho
  refine ⟨fun hcov => exec_halt hs hb (haltRequest_of_no_reach hg (hr.trans hcov)),
    fun hcov hq hm => exec_halt hs hb (haltRequest_of_not_busy hg (hr.trans hcov) ?_),
    fun hcov hst => ⟨_, exec_halt hs hb (haltRequest_of_busy hg (hr.trans hcov)
      ((busy_iff ho').mpr hst)), rfl, haltShut_haltOp ho' _ _ _ hst, onlyMotion_pauseOp ..,
      (sameOther_pauseOp (s.taken dt l) b.toNat _).of_taken, alarms_haltOp ..,
      op?_haltOp_same ho' _ _ _ hst, entry?_haltOp ho' _ _ _,
      grant?_haltOp ho' _ _ _⟩⟩
  simpa [busy_eq_false_iff, opState_of_op? ho'] using ⟨hq, hm⟩

/-! ### The step timeout (R59) and the hold window (R67) -/

theorem exec_stepTimeout {s : State} (hp : s.power = .running) (dt h : Nat) :
    exec (.stepTimeout dt h) s = .next ((s.advance dt).stepTimeout h) :=
  congrArg _ (live_of_running hp ..)

theorem exec_holdWindowExpiry {s : State} (hp : s.power = .running) (dt h : Nat) :
    exec (.holdWindowExpiry dt h) s = .next ((s.advance dt).holdLapse h) :=
  congrArg _ (live_of_running hp ..)

theorem timeoutDue_iff {s : State} {c : Items} {o : Op} {st : Step} {t0 : Nat}
    (hf : s.inForce = some c) (hstep : o.prog.head? = some st) (hm : o.st = .moving)
    (ht : o.start = some t0) :
    s.timeoutDue o = true ↔ t0 + cfgTimeoutMs c o.hatch st ≤ s.now := by
  simp [State.timeoutDue, hf, show o.step? = some st from hstep, hm, ht, elapsed]

/-- Settles O28: an expiry that is due halts the step. -/
theorem timeoutAndHoldLapse : Obligations.TimeoutAndHoldLapse := by
  unfold Obligations.TimeoutAndHoldLapse
  intro s dt h t0 o hp ho
  obtain rfl : o.hatch = h := findKey_key ho
  have ho' : (s.advance dt).op? o.hatch = some o := ho
  have hnow := advance_now hp dt
  refine ⟨fun c st hf hstep hm ht => ?_, fun ht hst => ?_⟩
  · have hdue := timeoutDue_iff (s := s.advance dt) hf hstep hm ht
    rw [hnow] at hdue
    refine ⟨fun hle => ?_, fun hlt => ?_⟩
    · have hexp : (s.advance dt).stepTimeout o.hatch =
          (((s.advance dt).faultOp o.hatch .timeout).raiseAlarm .timeout
            (.hatch o.hatch)).evaluate := by
        simp only [State.stepTimeout, ho', if_pos (hdue.mpr hle)]
      refine ⟨_, (exec_stepTimeout hp dt _).trans (congrArg _ hexp),
        (onlyMotion_faultOp ..).trans (onlyMotion_raiseAlarm ..),
        ((sameOther_faultOp (s.advance dt) o.hatch _).trans (sameOther_raiseAlarm ..)).of_advance, ?_, grant?_haltOp ho' _ _ _ hm,
        (haltShut_haltOp ho' _ _ _ (.inr hm)).of_nodes rfl,
        op?_haltOp_same ho' _ _ _ (.inr hm)⟩
      rw [State.raiseAlarm, State.faultOp, haltOp_keeps]
      rfl
    · have hno : ¬(s.advance dt).timeoutDue o = true := by
        rw [hdue]
        omega
      rw [exec_stepTimeout hp]
      simp only [State.stepTimeout, ho', if_neg hno]
  · have hbusy : (s.advance dt).busy o.hatch = true := (busy_iff ho').mpr hst
    have hdue : reached o.hold (s.advance dt).now = true ↔ t0 ≤ s.now + dt := by
      simp [reached, ht, hnow]
    refine ⟨fun hle => ?_, fun hlt => ?_⟩
    · have hexp : (s.advance dt).holdLapse o.hatch =
          ((s.advance dt).pauseOp o.hatch .holdLapsed).evaluate := by
        simp only [State.holdLapse, ho', hbusy, hdue.mpr hle, and_self, if_true]
      exact ⟨_, (exec_holdWindowExpiry hp dt _).trans (congrArg _ hexp), rfl,
        haltShut_haltOp ho' _ _ _ hst, onlyMotion_pauseOp ..,
        (sameOther_pauseOp (s.advance dt) o.hatch _).of_advance, alarms_haltOp .., entry?_haltOp ho' _ _ _,
        grant?_haltOp ho' _ _ _, op?_haltOp_same ho' _ _ _ hst⟩
    · have hno : reached o.hold (s.advance dt).now = false := by
        rw [Bool.eq_false_iff, ne_eq, hdue]
        omega
      rw [exec_holdWindowExpiry hp]
      simp only [State.holdLapse, ho', hno, Bool.false_eq_true, and_false, if_false]

end Sys2Proof.Machine

/-! RUN: its checks in their order (R49), the record that it sets up (R50), and the offer of its program
(R51). -/

namespace Sys2Proof.Machine

/-! ### The offer of a step (R51) -/

section
variable (s : State) (hr : Hatch) (closing : Bool) (st : Step) (rest : List Step)

/-- The record with the offered program at its front. -/
def State.withProgram : State :=
  s.updOp hr.num fun o => { o with prog := st :: rest, start := none }

theorem offerFrom_of_target {hr : Hatch} {st : Step} (ht : hr.targetHolds st = true) :
    s.offerFrom hr closing (st :: rest) = s.offerFrom hr closing rest :=
  if_pos ht

variable {s hr st}

theorem offerFrom_of_offline (ht : hr.targetHolds st = false) (hoff : s.stepOffline hr st = true) :
    s.offerFrom hr closing (st :: rest) =
      (s.withProgram hr st rest).stopAtOffer hr.num .paused .nodeLost none := by
  rw [State.offerFrom, if_neg (Bool.eq_false_iff.mp ht)]
  exact if_pos hoff

theorem offerFrom_of_disagree (ht : hr.targetHolds st = false)
    (hon : s.stepOffline hr st = false) (hd : hr.stepDisagrees st = true) :
    s.offerFrom hr closing (st :: rest) =
      (s.withProgram hr st rest).stopAtOffer hr.num .faulted .fault (some .disagree) := by
  rw [State.offerFrom, if_neg (Bool.eq_false_iff.mp ht)]
  exact (if_neg (Bool.eq_false_iff.mp hon)).trans (if_pos hd)

/-- The step enters the queue. -/
theorem offerFrom_of_entry (ht : hr.targetHolds st = false) (hon : s.stepOffline hr st = false)
    (hd : hr.stepDisagrees st = false) :
    s.offerFrom hr closing (st :: rest) =
      ((((s.withProgram hr st rest).updOp hr.num fun o => { o with st := .queued }).claimStop
        hr.num).joinQueue ⟨hr.num, st, closing, s.entryTime, none, false⟩) := by
  rw [State.offerFrom, if_neg (Bool.eq_false_iff.mp ht)]
  exact (if_neg (Bool.eq_false_iff.mp hon)).trans (if_neg (Bool.eq_false_iff.mp hd))

variable (s hr st)

theorem op?_withProgram {o : Op} (ho : s.op? hr.num = some o) :
    (s.withProgram hr st rest).op? hr.num = some { o with prog := st :: rest, start := none } :=
  (op?_updOp_same s hr.num _ (by intro; rfl)).trans (congrArg (Option.map _) ho)

end

theorem op?_stopAtOffer {s : State} {h : Nat} {o : Op} (ho : s.op? h = some o) (st : OpState)
    (r : HaltReason) (f : Option FaultKind) :
    (s.stopAtOffer h st r f).op? h = some (o.halted st (some r) f) :=
  (op?_updOp_same s h (fun x => x.halted st (some r) f) (by intro; rfl)).trans
    (congrArg (Option.map _) ho)

theorem claim?_stopAtOffer (s : State) (h : Nat) (st : OpState) (r : HaltReason)
    (f : Option FaultKind) : (s.stopAtOffer h st r f).claim? h = (s.claim? h).map fun c =>
      if c.holder.isSome then { c with idle := some s.now } else c :=
  claim?_claimRun_same _ h

theorem stopAtOffer_keeps (s : State) (h : Nat) (st : OpState) (r : HaltReason)
    (f : Option FaultKind) : s.stopAtOffer h st r f =
      { s with ops := (s.stopAtOffer h st r f).ops, claims := (s.stopAtOffer h st r f).claims } :=
  rfl

/-- Settles O22, by the rows of `State.offerFrom`. -/
theorem offerTestsInOrder : Obligations.OfferTestsInOrder := by
  unfold Obligations.OfferTestsInOrder
  intro s hr o closing st rest ho
  refine ⟨⟨_, rfl, rfl, sameOther_offerFrom s hr closing [], ?_, ?_, ?_⟩,
    fun ht => offerFrom_of_target s closing rest ht, fun ht hstop => ?_, fun ht hon hd => ?_⟩
  · exact (op?_clearIdle_same _ hr.num).trans (congrArg (Option.map _) ho)
  · exact hatch?_updHatch_same s hr.num _ (by intro; rfl)
  · exact claim?_clearIdle_same _ hr.num
  · have hprog := op?_withProgram s hr st rest ho
    have hothers := sameOther_offerFrom s hr closing (st :: rest)
    refine ⟨_, rfl, ?_⟩
    by_cases hoff : s.stepOffline hr st = true
    · rw [offerFrom_of_offline closing rest ht hoff] at hothers ⊢
      rw [if_pos hoff]
      exact ⟨rfl, hothers, op?_stopAtOffer hprog .., claim?_stopAtOffer ..⟩
    · have hd := hstop.resolve_left hoff
      rw [offerFrom_of_disagree closing rest ht (Bool.eq_false_iff.mpr hoff) hd] at hothers ⊢
      rw [if_neg hoff]
      exact ⟨rfl, hothers, op?_stopAtOffer hprog .., claim?_stopAtOffer ..⟩
  · have hothers := sameOther_offerFrom s hr closing (st :: rest)
    refine ⟨_, rfl, ?_⟩
    rw [offerFrom_of_entry closing rest ht hon hd] at hothers ⊢
    refine ⟨rfl, hothers, ?_, claim?_claimStop_same _ hr.num⟩
    exact (op?_updOp_same _ hr.num _ (by intro; rfl)).trans
      (congrArg (Option.map _) (op?_withProgram s hr st rest ho))

/-! ### The checks of RUN (R49) -/

/-- The row of R49 that fails, from the latch on. -/
def State.runRow (s : State) (l h : Nat) (k : OpKind) (o : Op) (hr : Hatch) : Option Result :=
  if s.latch = true then some .estop
  else if s.modeForbids k = true then some .mode
  else if s.holder? h ≠ some l then some .notHeld
  else if s.classOf l = .deck ∧ s.canHold l = false then some .noHoldControl
  else if o.st = .queued ∨ o.st = .moving then some .busy
  else if o.st = .faulted then some .faulted
  else
    match hr.program k with
    | none => some .position
    | some prog => if s.frontLacksPermit prog = true then some .attitude else none

section
variable {s : State} {l h : Nat} {k : OpKind}

theorem canHold_claimTouch (s : State) (h l j : Nat) :
    (s.claimTouch h l).canHold j = s.canHold j := by
  rw [claimTouch_keeps]
  rfl

theorem latch_claimTouch (s : State) (h l : Nat) : (s.claimTouch h l).latch = s.latch := by
  rw [claimTouch_keeps]

theorem hatch?_claimTouch (s : State) (h l j : Nat) :
    (s.claimTouch h l).hatch? j = s.hatch? j := by
  rw [claimTouch_keeps]
  rfl

theorem modeForbids_claimTouch (s : State) (h l : Nat) (k : OpKind) :
    (s.claimTouch h l).modeForbids k = s.modeForbids k := by
  rw [claimTouch_keeps]
  rfl

theorem frontLacksPermit_claimTouch (s : State) (h l : Nat) (p : List Step) :
    (s.claimTouch h l).frontLacksPermit p = s.frontLacksPermit p := by
  rw [claimTouch_keeps]
  rfl

theorem run_of_gate {r : Result} (hg : s.modeGate = some r) : s.run l h k = (s, r) := by
  simp only [State.run, hg]

variable (hg : s.modeGate = none)
include hg

theorem run_of_bridge (hc : s.classOf l = .bridge) : s.run l h k = (s, .class) := by
  simp only [State.run, hg, if_pos hc]

variable (hc : s.classOf l ≠ .bridge)
include hc

theorem run_of_latch (hl : s.latch = true) : s.run l h k = (s.claimTouch h l, .estop) := by
  simp only [State.run, hg, if_neg hc, latch_claimTouch, if_pos hl]

theorem run_of_mode (hl : s.latch = false) (hm : s.modeForbids k = true) :
    s.run l h k = (s.claimTouch h l, .mode) := by
  simp only [State.run, hg, if_neg hc, latch_claimTouch, hl, Bool.false_eq_true, if_false,
    modeForbids_claimTouch, if_pos hm]

variable {o : Op} {hr : Hatch} (ho : s.op? h = some o) (hh : s.hatch? h = some hr)
include ho hh

/-- A RUN is refused by the first row that fails, and accepted when none does. -/
theorem run_of_records : s.run l h k =
    match s.runRow l h k o hr, hr.program k with
    | some r, _ => (s.claimTouch h l, r)
    | none, some prog => (s.claimTouch h l).acceptRun hr k
        (if s.classOf l = .deck then .hold else .auto) prog
    | none, none => (s.claimTouch h l, .position) := by
  simp only [State.run, hg, if_neg hc, latch_claimTouch, modeForbids_claimTouch,
    holder?_claimTouch, classOf_claimTouch, canHold_claimTouch, op?_claimTouch,
    hatch?_claimTouch, frontLacksPermit_claimTouch, ho, hh, State.runRow]
  by_cases hl : s.latch = true
  · simp only [if_pos hl]
  by_cases hm : s.modeForbids k = true
  · simp only [if_neg hl, if_pos hm]
  by_cases hn : s.holder? h ≠ some l
  · simp only [if_neg hl, if_neg hm, if_pos hn]
  by_cases hd : s.classOf l = .deck ∧ s.canHold l = false
  · simp only [if_neg hl, if_neg hm, if_neg hn, if_pos hd]
  simp only [if_neg hl, if_neg hm, if_neg hn, if_neg hd]
  cases o.st with
  | queued | moving | faulted => rfl
  | idle | paused =>
    cases hr.program k with
    | none => rfl
    | some prog => cases hp : s.frontLacksPermit prog <;> simp [hp]

end

/-- A RUN that names a hatch and a kind is answered with what the Engine makes of it. -/
theorem exec_run {s u : State} {l : Nat} (hs : Served s l) {b kb : Byte} {k : OpKind}
    (hb : NamesHatch s b) (hk : OpKind.ofByte kb = some k) {dt : Nat} {seq : Byte} {r : Result}
    (h : (s.taken dt l).run l b.toNat k = (u, r)) :
    exec (.run dt l seq [b, kb]) s = .next (u.answer l seq kindRun (some r) [b]) := by
  have hhatch : (s.taken dt l).hatchArg b = some b.toNat := if_pos hb
  refine served_to hs (by simp) ?_
  simp only [requestRun, State.runArgs, hhatch, hk, h, byte_toNat]

theorem modeForbids_iff {s : State} {k : OpKind} (hk : k ≠ .none) :
    s.modeForbids k = true ↔
      (s.mode = .sea ∧ (k = .opening ∨ k = .release)) ∨ s.mode = .commission := by
  cases hm : s.mode with
  | sea => cases k <;> simp_all [State.modeForbids, OpKind.isClosing]
  | loading | unconfigured | harbour | commission => simp [State.modeForbids, hm]

theorem ofByte_ne_none {b : Byte} {k : OpKind} (h : OpKind.ofByte b = some k) : k ≠ .none := by
  rintro rfl
  unfold OpKind.ofByte at h
  split at h <;> exact nomatch h

theorem canHold_iff (s : State) (l : Nat) :
    s.canHold l = false ↔ (s.line? l).bind Line.holdAbility ≠ some true := by
  unfold State.canHold
  cases s.line? l with
  | none => simp
  | some ln => simp

theorem canHold_taken {s : State} {l : Nat} (hs : Served s l) (dt : Nat) :
    (s.taken dt l).canHold l = s.canHold l := by
  obtain ⟨ln, hh⟩ := hs.hears
  simp only [State.canHold, line?_taken hh dt, hh.2.2.2.1]

theorem frontLacksPermit_iff (s : State) (prog : List Step) :
    s.frontLacksPermit prog = true ↔ ∃ st ∈ prog.head?, s.fraction st = none := by
  unfold State.frontLacksPermit
  cases prog.head? <;> simp

/-- Settles O20: the gates come first, then `State.runRow`. -/
theorem runIsRefusedInOrder : Obligations.RunIsRefusedInOrder := by
  unfold Obligations.RunIsRefusedInOrder
  refine ⟨fun s dt l seq b kb k hs hb hk => ⟨fun hm => ?_, fun hm => ?_, fun hm hc => ?_,
    fun hm hc => ?_⟩, fun s dt l seq b kb k o hr r hs hb hk ho hh hrow => ?_⟩
  · exact exec_run hs hb hk (run_of_gate (s := s.taken dt l) (modeGate_of_closed (.inl ⟨hm, rfl⟩)))
  · exact exec_run hs hb hk (run_of_gate (s := s.taken dt l) (modeGate_of_closed (.inr ⟨hm, rfl⟩)))
  · exact exec_run hs hb hk (run_of_bridge (s := s.taken dt l)
      (modeGate_of_ship_mode (.inr (.inr hm))) ((classOf_taken ..).trans hc))
  · have hg : (s.taken dt l).modeGate = none := modeGate_of_ship_mode (.inr (.inr hm))
    have hc' : (s.taken dt l).classOf l ≠ .bridge := by rwa [classOf_taken]
    have hforbid : (s.taken dt l).modeForbids k = true :=
      (modeForbids_iff (ofByte_ne_none hk)).mpr (.inr hm)
    cases hl : s.latch with
    | true => exact exec_run hs hb hk (run_of_latch hg hc' hl)
    | false => exact exec_run hs hb hk (run_of_mode hg hc' hl hforbid)
  · by_cases hload : s.mode = .loading
    · rw [if_pos hload] at hrow
      rw [if_pos (.inl hload)]
      exact exec_run hs hb hk (run_of_gate (s := s.taken dt l)
        (modeGate_of_closed (.inl ⟨hload, (Option.some.inj hrow).symm⟩)))
    rw [if_neg hload] at hrow
    by_cases hunc : s.mode = .unconfigured
    · rw [if_pos hunc] at hrow
      rw [if_pos (.inr (.inl hunc))]
      exact exec_run hs hb hk (run_of_gate (s := s.taken dt l)
        (modeGate_of_closed (.inr ⟨hunc, (Option.some.inj hrow).symm⟩)))
    rw [if_neg hunc] at hrow
    have hg : (s.taken dt l).modeGate = none := by
      change s.modeGate = none
      cases hm : s.mode <;> simp_all [State.modeGate]
    by_cases hc : s.classOf l = .bridge
    · rw [if_pos hc] at hrow
      rw [if_pos (.inr (.inr hc))]
      obtain rfl := Option.some.inj hrow
      exact exec_run hs hb hk (run_of_bridge hg ((classOf_taken ..).trans hc))
    rw [if_neg hc] at hrow
    have hrow' : (s.taken dt l).runRow l b.toNat k o hr = some r := by
      rw [← hrow]
      simp only [State.runRow, modeForbids_iff (ofByte_ne_none hk), classOf_taken,
        canHold_taken hs, canHold_iff, frontLacksPermit_iff]
      rfl
    rw [if_neg (by simp [hload, hunc, hc])]
    refine exec_run hs hb hk ?_
    rw [run_of_records hg (by rwa [classOf_taken]) (o := o) (hr := hr) ho hh, hrow']

end Sys2Proof.Machine

/-! An accepted RUN (R50, R51). -/

namespace Sys2Proof.Machine

/-- The state in which an accepted program is offered (R50). -/
def State.accepted (s : State) (h : Nat) (k : OpKind) (d : Discipline) (prog : List Step) : State :=
  s.updOp h fun o => o.accept k d prog s.now

section
variable (s : State) (hr : Hatch) (k : OpKind) (d : Discipline) (st : Step) (rest : List Step)

theorem acceptRun_nil : s.acceptRun hr k d [] =
    ((s.accepted hr.num k d []).clearIdle hr.num, .done) := rfl

theorem acceptRun_cons : s.acceptRun hr k d (st :: rest) =
    (if ((s.accepted hr.num k d (st :: rest)).offerFrom hr k.isClosing (st :: rest)).queue = s.queue
      then (s.accepted hr.num k d (st :: rest)).offerFrom hr k.isClosing (st :: rest)
      else ((s.accepted hr.num k d (st :: rest)).offerFrom hr k.isClosing (st :: rest)).evaluate,
      .started) := rfl

end

theorem isClosing_eq (k : OpKind) : k.isClosing = decide (k = .closing ∨ k = .engage) := by
  cases k <;> rfl

theorem updateKey_eq {α : Type} (key : α → Nat) (n : Nat) (f : α → α) (l : List α) :
    updateKey key n f l = l.map fun x => if key x = n then f x else x := by
  simp only [updateKey, beq_iff_eq]

/-- An entry makes the queue longer. -/
theorem insertEntry_ne (e : Entry) (q : List Entry) : insertEntry e q ≠ q := fun h => by
  have hlen := (insertEntry_perm e q).length_eq
  rw [h] at hlen
  simp at hlen

/-- The record that a RUN with a program sets up (R50). -/
theorem accept_program (o : Op) (k : OpKind) (deck : Prop) [Decidable deck] (st : Step)
    (rest : List Step) (now : Nat) :
    o.accept k (if deck then .hold else .auto) (st :: rest) now =
      { o with
        kind := k
        disc := some (if deck then .hold else .auto)
        prog := st :: rest
        stalls := if o.st = .paused ∧ o.kind = k then o.stalls else 0
        halt := none
        fault := none
        hold := if deck then some (now + 300) else none } := by
  by_cases h : deck <;> simp [Op.accept, h]

theorem op?_accepted {s : State} {h : Nat} {o : Op} (ho : s.op? h = some o) (k : OpKind)
    (d : Discipline) (prog : List Step) :
    (s.accepted h k d prog).op? h = some (o.accept k d prog s.now) :=
  (op?_updOp_same s h _ (by intro; rfl)).trans (congrArg (Option.map _) ho)

theorem sameOther_accepted (s : State) (h : Nat) (k : OpKind) (d : Discipline)
    (prog : List Step) : SameOtherHatches s h (s.accepted h k d prog) :=
  sameOther_updOp _ _ _ (by intros; rfl)

theorem now_claimTouch (s : State) (h l : Nat) : (s.claimTouch h l).now = s.now := by
  rw [claimTouch_keeps]

theorem sameOther_claimTouch (s : State) (h l : Nat) :
    SameOtherHatches s h (s.claimTouch h l) := by
  unfold State.claimTouch
  split
  · exact sameOther_claimRun ..
  · exact .refl s h

theorem stepOffline_accepted (s : State) (h l : Nat) (k : OpKind) (d : Discipline)
    (prog : List Step) (hr : Hatch) (st : Step) :
    ((s.claimTouch h l).accepted h k d prog).stepOffline hr st = s.stepOffline hr st := by
  rw [claimTouch_keeps]
  rfl

/-- The state after an accepted program whose first step has entered the queue (R51). -/
def State.entered (s : State) (hr : Hatch) (k : OpKind) (d : Discipline) (st : Step)
    (rest : List Step) : State :=
  (State.claimStop (((s.accepted hr.num k d (st :: rest)).withProgram hr st rest).updOp hr.num
    fun o => { o with st := .queued }) hr.num).joinQueue
      ⟨hr.num, st, k.isClosing, s.entryTime, none, false⟩

section
variable {s : State} {hr : Hatch} {st : Step} (k : OpKind) (d : Discipline) (rest : List Step)
  (ht : hr.targetHolds st = false) (hon : s.stepOffline hr st = false)
  (hd : hr.stepDisagrees st = false)
include ht hon hd

theorem offerFrom_accepted_of_entry :
    (s.accepted hr.num k d (st :: rest)).offerFrom hr k.isClosing (st :: rest) =
      s.entered hr k d st rest :=
  offerFrom_of_entry (s := s.accepted hr.num k d (st :: rest)) k.isClosing rest ht hon hd

theorem acceptRun_of_entry :
    s.acceptRun hr k d (st :: rest) = ((s.entered hr k d st rest).evaluate, .started) := by
  rw [acceptRun_cons, offerFrom_accepted_of_entry k d rest ht hon hd]
  exact congrArg (·, Result.started) (if_neg (insertEntry_ne _ _))

theorem sameOther_entered : SameOtherHatches s hr.num (s.entered hr k d st rest) := by
  rw [← offerFrom_accepted_of_entry k d rest ht hon hd]
  exact (sameOther_accepted ..).trans (sameOther_offerFrom ..)

end

theorem op?_entered {s : State} {hr : Hatch} {o : Op} (ho : s.op? hr.num = some o) (k : OpKind)
    (d : Discipline) (st : Step) (rest : List Step) : (s.entered hr k d st rest).op? hr.num =
      some { o.accept k d (st :: rest) s.now with
        prog := st :: rest, start := none, st := .queued } :=
  (op?_updOp_same _ hr.num _ (by intro; rfl)).trans (congrArg (Option.map _)
    (op?_withProgram _ hr st rest (op?_accepted ho ..)))

theorem claim?_entered (s : State) (hr : Hatch) (k : OpKind) (d : Discipline) (st : Step)
    (rest : List Step) : (s.entered hr k d st rest).claim? hr.num =
      (s.claim? hr.num).map fun c => { c with idle := none } :=
  claim?_claimStop_same _ hr.num

/-- No row of R49 fails. -/
theorem runRow_of_passed {s : State} {l h : Nat} {k : OpKind} {o : Op} {hr : Hatch}
    {prog : List Step} (hlatch : s.latch = false) (hforbid : s.modeForbids k = false)
    (hholder : s.holder? h = some l) (hdeck : ¬(s.classOf l = .deck ∧ s.canHold l = false))
    (hst : o.st = .idle ∨ o.st = .paused) (hprog : hr.program k = some prog)
    (hpermit : s.frontLacksPermit prog = false) : s.runRow l h k o hr = none := by
  simp only [State.runRow, hlatch, hforbid, hholder, hdeck, hprog, hpermit, Bool.false_eq_true,
    ne_eq, not_true, if_false]
  rcases hst with hi | hp <;> simp [*]

theorem frontLacksPermit_of_fraction {s : State} {st : Step} (hp : (s.fraction st).isSome = true)
    (rest : List Step) : s.frontLacksPermit (st :: rest) = false := by
  simp only [State.frontLacksPermit, List.head?_cons, Option.isNone_eq_false_iff, hp]

section
variable {s : State} {l dt : Nat} {b : Byte} {k : OpKind} {o : Op} {hr : Hatch} {cl : Claim}
  (hs : Served s l) (ho : s.op? b.toNat = some o) (hh : s.hatch? b.toNat = some hr)
  (hcl : s.claim? b.toNat = some cl) (hholder : cl.holder = some l)
  (hst : o.st = .idle ∨ o.st = .paused)

include ho hst in
theorem busy_of_startable : (s.taken dt l).busy b.toNat = false := by
  rw [busy_eq_false_iff, opState_of_op? (s := s.taken dt l) ho]
  rcases hst with hi | hp <;> simp [*]

include hs ho hcl hholder hst in
/-- The state in which an accepted RUN finds the part: the claim of its holder is touched (R71). -/
theorem claimTouch_of_startable : ∃ cs, (s.taken dt l).claimTouch b.toNat l =
      { s.taken dt l with claims := cs } ∧
    (∀ j, j ≠ b.toNat → findKey Claim.hatch j cs = s.claim? j) ∧
    findKey Claim.hatch b.toNat cs = some { cl with idle := some (s.now + dt) } := by
  obtain ⟨ln, hhears⟩ := hs.hears
  refine ⟨_, claimTouch_keeps .., fun j hj => claim?_claimTouch_ne (s := s.taken dt l) hj, ?_⟩
  refine (claim?_claimTouch_of_holder (s := s.taken dt l) hcl hholder).trans ?_
  rw [busy_of_startable ho hst, taken_now hhears.1]
  rfl

include hs ho hh hcl hholder hst in
/-- A RUN that passes every check is accepted (R49, R50). -/
theorem run_accepted (hk : k ≠ .none)
    (hmode : s.mode = .harbour ∨ (s.mode = .sea ∧ (k = .closing ∨ k = .engage)))
    (hlatch : s.latch = false) (hc : s.classOf l ≠ .bridge)
    (hdeck : s.classOf l = .deck → (s.line? l).bind Line.holdAbility = some true)
    {prog : List Step} (hprog : hr.program k = some prog)
    (hpermit : s.frontLacksPermit prog = false) :
    (s.taken dt l).run l b.toNat k = ((s.taken dt l).claimTouch b.toNat l).acceptRun hr k
      (if s.classOf l = .deck then .hold else .auto) prog := by
  have hg : (s.taken dt l).modeGate = none :=
    modeGate_of_ship_mode (s := s) (hmode.elim (fun h => .inr (.inl h)) fun h => .inl h.1)
  have hforbid : (s.taken dt l).modeForbids k = false := by
    change s.modeForbids k = false
    rw [Bool.eq_false_iff, ne_eq, modeForbids_iff hk]
    rcases hmode with hm | ⟨hm, rfl | rfl⟩ <;> simp [hm]
  have hdeck' : ¬((s.taken dt l).classOf l = .deck ∧ (s.taken dt l).canHold l = false) := by
    rw [classOf_taken, canHold_taken hs, canHold_iff]
    exact fun h => h.2 (hdeck h.1)
  have hrow : (s.taken dt l).runRow l b.toNat k o hr = none :=
    runRow_of_passed hlatch hforbid ((holder?_of_claim? (s := s.taken dt l) hcl).trans hholder)
      hdeck' hst hprog hpermit
  rw [run_of_records hg (by rwa [classOf_taken]) (o := o) (hr := hr) ho hh, hrow, hprog,
    classOf_taken]

end

/-- Settles O21: `State.runRow` passes, and the record is set up and its program offered. -/
theorem acceptedRunStartsTheOperation : Obligations.AcceptedRunStartsTheOperation := by
  unfold Obligations.AcceptedRunStartsTheOperation
  intro s dt l seq b kb k o hr cl hs hb hk ho hh hcl hmode hlatch hc hholder hdeck hst
  obtain ⟨ln, hhears⟩ := hs.hears
  have hnow := taken_now hhears.1 dt l
  have hnum : hr.num = b.toNat := findKey_key hh
  obtain ⟨cs, hcs, hcs_ne, hcs_same⟩ :=
    claimTouch_of_startable (dt := dt) hs ho hcl hholder hst
  have hop : State.op? { s.taken dt l with claims := cs } hr.num = some o := hnum ▸ ho
  have hrun : ∀ prog, hr.program k = some prog → s.frontLacksPermit prog = false →
      (s.taken dt l).run l b.toNat k = State.acceptRun { s.taken dt l with claims := cs } hr k
        (if s.classOf l = .deck then .hold else .auto) prog := fun prog hprog hpermit =>
    hcs ▸ run_accepted hs ho hh hcl hholder hst (ofByte_ne_none hk) hmode hlatch hc hdeck hprog
      hpermit
  refine ⟨fun hprog => ?_, fun st rest hprog hp => ?_, fun st rest hprog hp ht hon hd => ?_⟩
  · refine ⟨_, exec_run hs hb hk ((hrun [] hprog rfl).trans (acceptRun_nil ..)), ?_, ?_, ?_, ?_⟩
    · rw [← hnum]
      rfl
    · have hothers := (sameOther_accepted { s.taken dt l with claims := cs } hr.num k
        (if s.classOf l = .deck then .hold else .auto) []).trans (sameOther_clearIdle _ hr.num)
      rw [hnum] at hothers ⊢
      exact fun j hj => ⟨(hothers.claim j hj).trans (hcs_ne j hj), hothers.op j hj⟩
    · rw [← hnum, op?_clearIdle_same, op?_accepted hop]
      rfl
    · rw [hnum, claim?_clearIdle_same]
      refine (congrArg _ hcs_same).trans ?_
      rw [Option.map_some, hholder]
      exact congrArg _ (congrArg (Claim.mk _ _) (congrArg _ hnow))
  · refine ⟨(State.accepted { s.taken dt l with claims := cs } hr.num k
      (if s.classOf l = .deck then .hold else .auto) (st :: rest)), _, exec_run hs hb hk
        ((hrun _ hprog (frontLacksPermit_of_fraction hp rest)).trans ?_), ?_, rfl⟩
    · rw [acceptRun_cons, isClosing_eq]
      rfl
    · rw [State.accepted, State.updOp, updateKey_eq, hnum, hcs]
      simp only [accept_program, hnow]
      rfl
  · have hothers := sameOther_entered (s := { s.taken dt l with claims := cs }) k
      (if s.classOf l = .deck then .hold else .auto) rest ht hon hd
    refine ⟨_, exec_run hs hb hk ((hrun _ hprog (frontLacksPermit_of_fraction hp rest)).trans
      (acceptRun_of_entry _ _ rest ht hon hd)), rfl, ?_, ?_, ?_, ?_⟩
    · rw [← hnow, ← isClosing_eq, ← hnum]
      rfl
    · rw [hnum] at hothers
      exact fun j hj => ⟨(hothers.claim j hj).trans (hcs_ne j hj), hothers.op j hj⟩
    · rw [← hnum, op?_entered hop, accept_program, ← hnow]
    · rw [← hnum, claim?_entered, hnum]
      exact congrArg (Option.map _) hcs_same

end Sys2Proof.Machine

/-! MODE ARM_HARBOUR and CONFIRM_HARBOUR (R134, R135), ACKNOWLEDGE (R148 to R151) and CLEAR PUMP (R98). -/

namespace Sys2Proof.Machine

/-! ### The harbour arm (R134, R135) -/

/-- The reply to a MODE request, by what Mode Control makes of it. -/
theorem modeReply_of_result {x u : State} {f : State → State × Result} {r : Result}
    (h : f x = (u, r)) (arg : Byte) :
    modeReply arg [] x f = (u, some r, [arg, byte u.mode.code]) := by
  simp only [modeReply, noArgs, h]

section
variable {s : State} {l : Nat} (hg : s.modeGate = none)
include hg

theorem armHarbour_of_class (hc : s.classOf l ≠ .bridge) : s.armHarbour l = (s, .class) := by
  simp only [State.armHarbour, hg, if_pos hc]

theorem confirmHarbour_of_class (hc : s.classOf l ≠ .bridge) :
    s.confirmHarbour l = (s, .class) := by
  simp only [State.confirmHarbour, hg, if_pos hc]

variable (hc : s.classOf l = .bridge)
include hc

theorem armHarbour_of_mode (hm : s.mode ≠ .sea) : s.armHarbour l = (s, .mode) := by
  simp only [State.armHarbour, hg, hc, ne_eq, not_true, if_false, if_pos hm]

theorem confirmHarbour_of_mode (hm : s.mode ≠ .sea) : s.confirmHarbour l = (s, .mode) := by
  simp only [State.confirmHarbour, hg, hc, ne_eq, not_true, if_false, if_pos hm]

theorem armHarbour_at_sea (hm : s.mode = .sea) :
    s.armHarbour l = ({ s with arm := some ⟨l, s.now + 10000⟩ }, .done) := by
  simp only [State.armHarbour, hg, hc, hm, ne_eq, not_true, if_false]

theorem confirmHarbour_of_unarmed (hm : s.mode = .sea) (ha : s.armedBy l = false) :
    s.confirmHarbour l = (s, .notArmed) := by
  simp only [State.confirmHarbour, hg, hc, hm, ne_eq, not_true, if_false, if_pos ha]

theorem confirmHarbour_of_armed (hm : s.mode = .sea) (ha : s.armedBy l = true) :
    s.confirmHarbour l = ((State.setMode { s with arm := none } .harbour).clearAlarms
      [.hatchUnsecuredAtSea], .done) := by
  simp only [State.confirmHarbour, hg, hc, hm, ha, ne_eq, not_true, if_false, Bool.true_eq_false]

end

theorem armedBy_iff (s : State) (l : Nat) : s.armedBy l = true ↔ s.arm.map Arm.line = some l := by
  unfold State.armedBy
  cases s.arm <;> simp

theorem exec_armExpiry {s : State} (hp : s.power = .running) (dt : Nat) :
    exec (.armExpiry dt) s = .next (s.advance dt).armExpiry :=
  congrArg _ (live_of_running hp ..)

/-- Settles O44, row by row. -/
theorem harbourArmAndConfirmation : Obligations.HarbourArmAndConfirmation := by
  unfold Obligations.HarbourArmAndConfirmation
  intro s dt l seq
  have hcls := classOf_taken s dt l l
  refine ⟨fun hs hm hc => ?_, fun hs hm hc => ?_, fun hs hm hc => ?_, fun hp a ha => ?_⟩
  · obtain ⟨ln, hh⟩ := hs.hears
    have hg : (s.taken dt l).modeGate = none := modeGate_of_ship_mode (.inl hm)
    have hm' : (s.taken dt l).mode = .sea := hm
    have harm : (s.taken dt l).armedBy l = true ↔ s.arm.map Arm.line = some l := armedBy_iff s l
    have hreply : ∀ {x : State}, x.mode = .sea → byte x.mode.code = 3 := fun h => h ▸ rfl
    refine ⟨?_, fun hno => ?_, fun hyes => ?_⟩
    · have hat : (s.taken dt l).armHarbour l =
          ({ s.taken dt l with arm := some ⟨l, s.now + dt + 10000⟩ }, .done) :=
        (armHarbour_at_sea hg (hcls.trans hc) hm').trans (by rw [← taken_now hh.1 dt l])
      refine (served_to hs (by simp) (modeReply_of_result hat _)).trans ?_
      rw [hreply hm']
      rfl
    · refine (served_to hs (by simp) (modeReply_of_result (confirmHarbour_of_unarmed hg
        (hcls.trans hc) hm' (Bool.eq_false_iff.mpr (mt harm.mp hno))) _)).trans ?_
      rw [hreply hm']
      rfl
    · exact served_to hs (by simp) (modeReply_of_result
        (confirmHarbour_of_armed hg (hcls.trans hc) hm' (harm.mpr hyes)) _)
  · have hg : (s.taken dt l).modeGate = none := modeGate_of_ship_mode hm
    exact ⟨served_to hs (by simp) (modeReply_of_result (armHarbour_of_class hg (hcls.symm ▸ hc)) _),
      served_to hs (by simp) (modeReply_of_result (confirmHarbour_of_class hg (hcls.symm ▸ hc)) _)⟩
  · have hg : (s.taken dt l).modeGate = none := modeGate_of_ship_mode (.inr hm)
    have hm' : (s.taken dt l).mode ≠ .sea := by
      change s.mode ≠ .sea
      rcases hm with hm | hm <;> simp [hm]
    exact ⟨served_to hs (by simp)
        (modeReply_of_result (armHarbour_of_mode hg (hcls.trans hc) hm') _),
      served_to hs (by simp)
        (modeReply_of_result (confirmHarbour_of_mode hg (hcls.trans hc) hm') _)⟩
  · have ha' : (s.advance dt).arm = some a := ha
    rw [exec_armExpiry hp]
    refine ⟨fun hle => ?_, fun hlt => ?_⟩
    · simp only [State.armExpiry, ha', advance_now hp, if_pos hle]
    · simp only [State.armExpiry, ha', advance_now hp, if_neg (Nat.not_le.mpr hlt)]

/-! ### ACKNOWLEDGE (R148 to R151) -/

theorem mayAck_iff {s : State} {l : Nat} {ln : Line} (hl : s.line? l = some ln) (sub : Subject) :
    s.mayAck l sub = true ↔ ln.cls = .console ∨ ln.cls = .bridge ∨
      (ln.cls = .deck ∧ ln.link = .active ∧ ∃ h, sub = .hatch h ∧ 1 ≤ h ∧
        ln.reach.getLsbD (h - 1) = true) := by
  simp only [State.mayAck, State.classOf, hl]
  cases hc : ln.cls with
  | none | console | bridge => simp
  | deck => cases sub <;> simp [State.covers, hl, reachHas]

theorem mayAck_taken {s : State} {l : Nat} (hs : Served s l) (dt : Nat) (sub : Subject) :
    (s.taken dt l).mayAck l sub = s.mayAck l sub := by
  simp only [State.mayAck, classOf_taken, covers_taken hs]

/-- What an acknowledgement makes of the one record that it names. -/
theorem AlarmList.StandsAt.ack {al : AlarmList} {before after : List Alarm} {a : Alarm}
    (h : al.StandsAt before a after) : al.ack (fun x => x.isOf a.code a.subject) =
      match a.acked with
      | some a' => { al with recs := before ++ a' :: after }
      | none => ⟨before ++ after, false⟩ := by
  have hkeep : ∀ l : List Alarm, (∀ b ∈ l, b.isOf a.code a.subject = false) →
      l.filterMap (fun b => if b.isOf a.code a.subject then b.acked else some b) = l := fun l hl =>
    (List.filterMap_congr fun b hb => by simp [hl b hb]).trans List.filterMap_some
  have hrecs : al.recs.filterMap (fun b => if b.isOf a.code a.subject then b.acked else some b) =
      before ++ (a.acked.toList ++ after) := by
    rw [h.recs, List.filterMap_append, List.filterMap_cons, hkeep before h.before_other,
      hkeep after h.after_other, isOf_self, if_pos rfl]
    cases a.acked <;> rfl
  unfold AlarmList.ack
  simp only [hrecs]
  cases a.acked with
  | none => simp [h.recs]
  | some a' => simp [h.recs]

/-- The table of R148 and R150. -/
theorem acked_eq (a : Alarm) : a.acked =
    if a.st = .raisedAck then some a
    else if a.st = .raisedUnack ∧ a.code ≠ .supplyDip then some { a with st := .raisedAck }
    else none := by
  unfold Alarm.acked
  cases a.st with
  | raisedUnack => by_cases hc : a.code = .supplyDip <;> simp [hc]
  | raisedAck | clearedUnack => simp

section
variable {s : State} {l : Nat} {c : AlarmCode} {sub : Subject} (hm : s.mode ≠ .unconfigured)
include hm

theorem ackOne_of_no_reach (hmay : s.mayAck l sub = false) : s.ackOne l c sub = (s, .noReach) := by
  simp only [State.ackOne, if_neg hm, if_pos hmay]

theorem ackOne_of_absent (hmay : s.mayAck l sub = true) (hf : s.alarms.find c sub = none) :
    s.ackOne l c sub = (s, .notRunning) := by
  simp only [State.ackOne, if_neg hm, hmay, Bool.true_eq_false, if_false, hf]

theorem ackOne_of_found (hmay : s.mayAck l sub = true) {a : Alarm}
    (hf : s.alarms.find c sub = some a) :
    s.ackOne l c sub = ({ s with alarms := s.alarms.ack fun x => x.isOf c sub }, .done) := by
  simp only [State.ackOne, if_neg hm, hmay, Bool.true_eq_false, if_false, hf]

end

theorem exec_acknowledgeOne {s u : State} {l : Nat} (hs : Served s l) {b k n : Byte}
    {c : AlarmCode} {sub : Subject} (hargs : recordArgs [b, k, n] = some (c, sub)) {dt : Nat}
    {seq : Byte} {r : Result} (h : (s.taken dt l).ackOne l c sub = (u, r)) :
    exec (.acknowledgeOne dt l seq [b, k, n]) s =
      .next (u.answer l seq kindAcknowledge (some r) [b, k, n]) := by
  refine served_to hs (by simp) ?_
  simp only [requestAckOne, hargs, h]

/-- Settles O50: one record by where it stands, all records one by one. -/
theorem acknowledgeFollowsTheTables : Obligations.AcknowledgeFollowsTheTables := by
  unfold Obligations.AcknowledgeFollowsTheTables
  refine ⟨fun s l sub ln hl => mayAck_iff hl sub, fun s dt l seq hs hm =>
    ⟨fun b k n c sub hargs => ⟨fun hmay => ?_, fun hmay habsent => ?_,
      fun hmay hok before after t0 st hrecs => ?_⟩, ?_⟩⟩
  · exact exec_acknowledgeOne hs hargs
      (ackOne_of_no_reach (s := s.taken dt l) hm ((mayAck_taken hs dt sub).trans hmay))
  · exact exec_acknowledgeOne hs hargs (ackOne_of_absent (s := s.taken dt l) hm
      ((mayAck_taken hs dt sub).trans hmay) ((find_none_iff s.alarms c sub).mpr habsent))
  · have hat : s.alarms.StandsAt before ⟨c, sub, t0, st⟩ after :=
      standsAt_of_nodup hok.2 hrecs
    rw [exec_acknowledgeOne hs hargs (ackOne_of_found (s := s.taken dt l) hm
      ((mayAck_taken hs dt sub).trans hmay) hat.find)]
    have hack : s.alarms.ack (fun x => x.isOf c sub) =
        if st = .raisedAck then s.alarms
        else if st = .raisedUnack ∧ c ≠ .supplyDip then
          { s.alarms with recs := before ++ ⟨c, sub, t0, .raisedAck⟩ :: after }
        else ⟨before ++ after, false⟩ := by
      refine hat.ack.trans ?_
      rw [acked_eq]
      by_cases hst : st = .raisedAck
      · simp only [if_pos hst, ← hrecs]
      · by_cases hun : st = .raisedUnack ∧ c ≠ .supplyDip
        · simp only [if_neg hst, if_pos hun]
        · simp only [if_neg hst, if_neg hun]
    rw [← hack]
    rfl
  · have hmay : (fun a : Alarm => (s.taken dt l).mayAck l a.subject) =
        fun a => s.mayAck l a.subject := funext fun a => mayAck_taken hs dt a.subject
    have hreq : requestAckAll [] (s.taken dt l) l =
        ({ s.taken dt l with alarms := s.alarms.ack fun a => s.mayAck l a.subject }, some .done,
          [byte (s.alarms.ackCount fun a => s.mayAck l a.subject)]) := by
      have hm' : (s.taken dt l).mode ≠ .unconfigured := hm
      simp only [requestAckAll, noArgs, State.ackAll, if_neg hm', hmay]
      rfl
    refine ⟨_, served_to hs (by simp) hreq, List.filterMap_congr fun a _ => ?_, ?_⟩
    · rw [acked_eq]
      cases hone : s.mayAck l a.subject <;> simp [hone]
    · exact congrArg (s.alarms.overflow && ·) (beq_eq_decide ..)

/-! ### CLEAR PUMP (R98) -/

section
variable {s : State} {l n : Nat} (hg : s.configGate = none)
include hg

theorem clearPump_of_class (hc : s.classOf l ≠ .console) : s.clearPump l n = (s, .class) := by
  simp only [State.clearPump, hg, if_pos hc]

variable (hc : s.classOf l = .console) {p : Pump} (hp : s.pump? n = some p)
include hc hp

theorem clearPump_of_not_failed (hst : p.st ≠ .failed) : s.clearPump l n = (s, .notRunning) := by
  simp only [State.clearPump, hg, hc, ne_eq, not_true, if_false, hp, if_neg hst]

theorem clearPump_of_failed (hst : p.st = .failed) : s.clearPump l n =
    (((s.updPump n fun x => { x with st := .off }).clearAlarm .pumpFailed (.pump n)).takeBudget,
      .done) := by
  simp only [State.clearPump, hg, hc, ne_eq, not_true, if_false, hp, if_pos hst]

end

theorem pump?_updPump_same (s : State) (n : Nat) (f : Pump → Pump) (hf : ∀ x, (f x).num = x.num) :
    (s.updPump n f).pump? n = (s.pump? n).map f :=
  findKey_updateKey_same Pump.num n f (fun x e => (hf x).trans e) s.pumps

theorem pump?_updPump_ne (s : State) (n k : Nat) (hk : k ≠ n) (f : Pump → Pump)
    (hf : ∀ x, (f x).num = x.num) : (s.updPump n f).pump? k = s.pump? k :=
  findKey_updateKey_ne Pump.num n k hk f (fun x e => (hf x).trans e) s.pumps

theorem exec_clearPump {s u : State} {l : Nat} (hs : Served s l) {b : Byte} (h1 : 1 ≤ b.toNat)
    (h2 : b.toNat ≤ s.pumpLimit) {dt : Nat} {seq : Byte} {r : Result}
    (h : (s.taken dt l).clearPump l b.toNat = (u, r)) :
    exec (.clearPump dt l seq [b]) s = .next (u.answer l seq kindClear (some r) [2, b]) := by
  have harg : (s.taken dt l).pumpArg [b] = some b.toNat := if_pos ⟨h1, h2⟩
  refine served_to hs (by simp) ?_
  simp only [requestClearPump, harg, h, byte_toNat, clearPumpTarget]

/-- Settles O36, row by row. -/
theorem clearPumpMakesThePumpOff : Obligations.ClearPumpMakesThePumpOff := by
  unfold Obligations.ClearPumpMakesThePumpOff
  intro s dt l seq b p hs hserv h1 h2 hp
  have hg : (s.taken dt l).configGate = none :=
    (configGate_taken s dt l).trans (configGate_of_inService hserv)
  have hcls := classOf_taken s dt l l
  have hp' : (s.taken dt l).pump? b.toNat = some p := hp
  refine ⟨fun hc => exec_clearPump hs h1 h2 (clearPump_of_class hg (hcls.symm ▸ hc)),
    fun hc hst => exec_clearPump hs h1 h2 (clearPump_of_not_failed hg (hcls.trans hc) hp' hst),
    fun hc hst => ⟨_, exec_clearPump hs h1 h2 (clearPump_of_failed hg (hcls.trans hc) hp' hst),
      rfl, fun k hk => ?_, ?_⟩⟩
  · exact pump?_updPump_ne (s.taken dt l) b.toNat k hk _ (by intro; rfl)
  · exact (pump?_updPump_same (s.taken dt l) b.toNat _ (by intro; rfl)).trans
      (congrArg (Option.map _) hp')

end Sys2Proof.Machine

/-! The build (R1, R21, R22, R31, R41, R73, R75, R101, R114, R116, R125), the entry to UNCONFIGURED and the
commands that come to them: COMMISSION (R137, R138) and the resets (R175 to R178). -/

namespace Sys2Proof.Machine

/-! ### The records of a build -/

theorem bits_one_iff (v : Word) (k : Nat) : bits v k 1 = 1 ↔ v.getLsbD k = true := by
  rw [BitVec.getLsbD, Nat.testBit_eq_decide_div_mod_eq, decide_eq_true_eq, bits, pow_one]

theorem bits_one_beq (v : Word) (k : Nat) : (bits v k 1 == 1) = v.getLsbD k := by
  rw [Bool.eq_iff_iff, beq_iff_eq, bits_one_iff]

/-- The fields of a binding item (R171). -/
theorem bits_of_binding (v : Word) :
    bits v 0 5 = v.toNat % 32 ∧ bits v 5 4 = v.toNat / 32 % 16 ∧ bits v 9 5 = v.toNat / 512 % 32 := by
  simp [bits]

theorem cfgNodes_eq (c : Items) :
    cfgNodes c = (upTo 48).filter fun a => (getItem c 8 a).getLsbD 15 := by
  have hdrop : (List.range 49).drop 1 = upTo 48 := by decide
  simp only [cfgNodes, hdrop, bits_one_beq]

/-- The points of a build are the bindings of the present nodes (R31, R171). -/
theorem mem_cfgPoints_iff (c : Items) (p : Point) : p ∈ cfgPoints c ↔ PointBuilt c p := by
  rw [mem_cfgPoints]
  have hplace : ∀ k, (if 32 + k < 48 then 32 + k - 32 else 32 + k - 48) =
      if k < 16 then k else k - 16 := by
    intro k
    split_ifs <;> omega
  constructor
  · rintro ⟨a, ha, k, hk, hp⟩
    obtain ⟨h1, h48, hpres⟩ := mem_cfgNodes.mp ha
    obtain ⟨hbits, hbits', hbits''⟩ := bits_of_binding (getItem c (32 + k) a)
    obtain ⟨hr, hsub, hidx, hnode, hpt, hinv, hq, hpend, hch, hst⟩ :=
      bindingOf_eq_some (cfgPoint_eq_some hp).2
    rw [hbits] at hr
    rw [hbits'] at hsub
    rw [hbits''] at hidx
    refine ⟨a, k, p.role, h1, h48, (bits_one_iff _ _).mp hpres, hk, hr, ?_⟩
    cases p
    dsimp only at hsub hidx hnode hpt hinv hq hpend hch hst
    subst hsub hidx hnode hq hpend hch hst
    rw [hpt, hinv, hplace, bits_one_beq]
    rfl
  · rintro ⟨a, k, r, h1, h48, hpres, hk, hr, rfl⟩
    refine ⟨a, mem_cfgNodes.mpr ⟨h1, h48, (bits_one_iff _ _).mpr hpres⟩, k, hk, ?_⟩
    have hne : getItem c (32 + k) a ≠ 0 := by
      intro h0
      rw [itemNat, h0] at hr
      exact nomatch hr
    obtain ⟨hbits, hbits', hbits''⟩ := bits_of_binding (getItem c (32 + k) a)
    have hrole : Role.ofCode (bits (getItem c (32 + k) a) 0 5) = some r := hbits ▸ hr
    rw [cfgPoint, if_neg hne, bindingOf, hrole, hplace, bits_one_beq, hbits', hbits'']
    rfl

theorem cleats_num (c : Items) (points : List Point) (h : Nat) :
    (buildCleats c points h).map Cleat.num =
      (upTo 24).filter fun n => (cfgCleats c).any fun e => e.1 == h && e.2.2 == n := by
  rw [buildCleats, List.map_filterMap, ← List.filterMap_eq_filter]
  refine List.filterMap_congr fun n _ => ?_
  rw [Option.map_map]
  cases hf : (cfgCleats c).find? (fun e => e.1 == h && e.2.2 == n) with
  | none =>
    have hany : ((cfgCleats c).any fun e => e.1 == h && e.2.2 == n) = false :=
      List.any_eq_false.mpr (List.find?_eq_none.mp hf)
    simp [Option.guard, hany]
  | some e =>
    have hany : ((cfgCleats c).any fun e => e.1 == h && e.2.2 == n) = true :=
      List.any_eq_true.mpr ⟨e, List.mem_of_find?_eq_some hf, by simpa using List.find?_some hf⟩
    simp [Option.guard, hany, buildCleat]

theorem hatchBuilt_buildHatch (c : Items) (points : List Point) (h : Nat) :
    HatchBuilt c points (buildHatch c points h) := by
  refine ⟨rfl, cleats_num c points h, fun x hx => ?_⟩
  obtain ⟨n, -, hn⟩ := List.mem_filterMap.mp hx
  obtain ⟨e, he, rfl⟩ := Option.map_eq_some_iff.mp hn
  have hmem := List.mem_of_find?_eq_some he
  have hkey := List.find?_some he
  simp only [Bool.and_eq_true, beq_iff_eq] at hkey
  obtain ⟨hh, hcleat⟩ := hkey
  refine ⟨?_, rfl, rfl, ?_⟩
  · rw [← hh, buildCleat, ← hcleat]
    exact hmem
  · simp [buildCleat, buildHatch, and_assoc]

/-- A build leaves every point stale, so that a thermostat makes the band COLD (R74). -/
theorem deriveBand_of_stale {s : State} (h : ∀ p ∈ s.points, p.stale = true) : s.deriveBand =
    if s.points.any (fun p => p.role.isThermostat) = true then .cold else .normal := by
  unfold State.deriveBand
  by_cases hany : s.points.any (fun p => p.role.isThermostat) = true
  · obtain ⟨p, hp, ht⟩ := List.any_eq_true.mp hany
    have hmem : p ∈ s.points.filter fun p => p.role.isThermostat := List.mem_filter.mpr ⟨hp, ht⟩
    have hne : (s.points.filter fun p => p.role.isThermostat).isEmpty = false := by
      rw [List.isEmpty_eq_false_iff]
      exact List.ne_nil_of_mem hmem
    have hst : (s.points.filter fun p => p.role.isThermostat).any Point.stale = true :=
      List.any_eq_true.mpr ⟨p, hmem, h p hp⟩
    simp only [hne, hst, if_pos hany, Bool.false_eq_true, if_false, if_true]
  · have hnil : s.points.filter (fun p => p.role.isThermostat) = [] :=
      List.filter_eq_nil_iff.mpr fun p hp ht => hany (List.any_eq_true.mpr ⟨p, hp, ht⟩)
    simp only [hnil, List.isEmpty_nil, if_true, if_neg hany]

theorem stale_of_mem_cfgPoints {c : Items} {p : Point} (h : p ∈ cfgPoints c) :
    p.stale = true := by
  obtain ⟨_, _, _, _, _, _, _, _, rfl⟩ := (mem_cfgPoints_iff c p).mp h
  rfl

theorem qAll_built (c : Items) (ns : List Nat) :
    qAll (ns.map fun n => ⟨n, cfgPumpFlow c n, .off, none, none⟩) =
      (ns.map fun n => itemNat c 10 n).sum := by
  have hall : (ns.map fun n => (⟨n, cfgPumpFlow c n, .off, none, none⟩ : Pump)).filter
      (fun p => p.st != .failed) = ns.map fun n => ⟨n, cfgPumpFlow c n, .off, none, none⟩ :=
    List.filter_eq_self.mpr fun p hp => by
      obtain ⟨n, -, rfl⟩ := List.mem_map.mp hp
      rfl
  rw [qAll, hall, List.map_map]
  rfl

theorem qRun_built (c : Items) (ns : List Nat) :
    qRun (ns.map fun n => ⟨n, cfgPumpFlow c n, .off, none, none⟩) = 0 := by
  have hnone : (ns.map fun n => (⟨n, cfgPumpFlow c n, .off, none, none⟩ : Pump)).filter
      (fun p => p.st == .running) = [] :=
    List.filter_eq_nil_iff.mpr fun p hp => by
      obtain ⟨n, -, rfl⟩ := List.mem_map.mp hp
      exact Bool.false_ne_true
  rw [qRun, hnone]
  rfl

/-- The reach of a line resolved in a configuration, as R116 writes it out. -/
theorem resolveReach_some (c : Items) (ln : Line) : resolveReach (some c) ln =
    if ln.link = .active then
      (match ln.cls with
      | .none => 0
      | .deck => ln.annReach.getD 0 &&& getItem c 20 ln.num &&& reachUpTo (itemNat c 1 0)
      | .console | .bridge => reachUpTo (itemNat c 1 0))
    else 0 := by
  simp only [resolveReach]
  split
  · cases ln.cls <;> rfl
  · rfl

/-- The records of a build, before what is derived from them. -/
def State.blank (s : State) (c : Items) : State :=
  { s with
    inForce := some c
    nodes := (cfgNodes c).map (buildNode c)
    points := cfgPoints c
    scan := ⟨0, s.now, none, false, false, []⟩
    hatches := (upTo (cfgHatches c)).map (buildHatch c (cfgPoints c))
    ops := (upTo (cfgHatches c)).map Op.idle
    claims := (upTo (cfgHatches c)).map fun h => ⟨h, none, none⟩
    queue := []
    granted := []
    pumps := (upTo (cfgPumps c)).map fun n => ⟨n, cfgPumpFlow c n, .off, none, none⟩
    pumpIdle := some s.now }

theorem clearAlarms_buildCodes (s : State) :
    s.clearAlarms buildCodes = { s with alarms := s.alarms.rebuilt } := by
  rw [State.clearAlarms, buildCodes, AlarmList.rebuilt]

theorem build_eq (s : State) (c : Items) : s.build c =
    { s.blank c with
      band := (s.blank c).deriveBand
      budget := State.computeB { s.blank c with band := (s.blank c).deriveBand }
      maxB := State.computeMaxB { s.blank c with band := (s.blank c).deriveBand }
      att := State.deriveFractions { s with inForce := some c }
      alarms := s.alarms.rebuilt
      lines := s.lines.map fun ln => { ln with reach := resolveReach (some c) ln } } := by
  unfold State.build
  simp only [clearAlarms_buildCodes, State.resolveAll]
  rfl

theorem deriveBand_blank (s : State) (c : Items) : (s.blank c).deriveBand =
    if (cfgPoints c).any (fun p => p.role.isThermostat) = true then .cold else .normal :=
  deriveBand_of_stale (s := s.blank c) fun _ hp => stale_of_mem_cfgPoints hp

theorem computeB_blank (s : State) (c : Items) (b : Band) :
    State.computeB { s.blank c with band := b } = 0 := by
  have hq : qRun (s.blank c).pumps = 0 := qRun_built c _
  simp only [State.computeB, hq, Nat.zero_mul, Nat.zero_div, Nat.zero_sub]

theorem computeMaxB_blank (s : State) (c : Items) (b : Band) :
    State.computeMaxB { s.blank c with band := b } =
      ((upTo (itemNat c 9 0)).map fun n => itemNat c 10 n).sum * b.factor / 100 -
        itemNat c 11 0 := by
  have hq : qAll (s.blank c).pumps = ((upTo (itemNat c 9 0)).map fun n => itemNat c 10 n).sum :=
    qAll_built c _
  simp only [State.computeMaxB, hq]
  rfl

/-- What a build leaves is what the tables of its blocks give. -/
theorem builtFrom_build (s : State) (c : Items) : BuiltFrom s c (s.build c) where
  rest := by
    have hfactor : (if (cfgPoints c).any (fun p => p.role.isThermostat) = true then Band.cold
        else .normal).factor =
          if (cfgPoints c).any (fun p => p.role.isThermostat) = true then 60 else 100 := by
      split <;> rfl
    have hnodes : (cfgNodes c).map (buildNode c) =
        ((upTo 48).filter fun a => (getItem c 8 a).getLsbD 15).map fun a =>
          ⟨a, byte (itemNat c 8 a), .absent, 0, 0, none, List.replicate 8 0⟩ := by
      rw [cfgNodes_eq]
      rfl
    have hlines : (s.lines.map fun ln => { ln with reach := resolveReach (some c) ln }) = _ :=
      List.map_congr_left fun ln _ => congrArg (fun r => { ln with reach := r })
        (resolveReach_some c ln)
    rw [build_eq, computeB_blank, computeMaxB_blank, deriveBand_blank, hfactor, hlines]
    simp only [State.blank, hnodes]
    rfl
  hatchNums := by
    have hnums : ((upTo (cfgHatches c)).map (buildHatch c (cfgPoints c))).map Hatch.num =
        upTo (cfgHatches c) := by
      rw [List.map_map]
      exact List.map_id _
    exact hnums
  hatches hr hhr := by
    obtain ⟨h, -, rfl⟩ := List.mem_map.mp hhr
    exact hatchBuilt_buildHatch c (cfgPoints c) h
  points := mem_cfgPoints_iff c
  order := rfl

theorem discard_eq (s : State) : s.discard =
    { s with
      inForce := none
      nodes := []
      points := []
      scan := Scan.stopped
      hatches := []
      ops := []
      claims := []
      queue := []
      granted := []
      pumps := []
      pumpIdle := none
      band := .normal
      budget := 0
      maxB := 0
      att := { s.att with heel := none, trim := none }
      alarms := s.alarms.rebuilt
      lines := s.lines.map fun ln => { ln with reach := 0 } } := by
  unfold State.discard
  simp only [clearAlarms_buildCodes, State.resolveAll, resolveReach]

theorem unbuilt_enterUnconfigured (s : State) : Unbuilt s s.enterUnconfigured := by
  unfold Unbuilt
  simp only [State.enterUnconfigured, discard_eq, State.raiseAlarm, State.runningTime,
    Scan.stopped]

theorem harbour_build (s : State) (c : Items) :
    ((s.build c).setMode .harbour).clearAlarm .configInvalid .part =
      { s.build c with
        mode := .harbour
        retained := { s.retained with mode := .harbour }
        alarms := s.alarms.rebuilt.clear .configInvalid .part } := by
  simp only [State.clearAlarm, State.setMode, ShipMode.part, build_eq, State.blank]

/-! ### COMMISSION (R137, R138) -/

section
variable {s : State} {l : Nat}

theorem enterCommission_of_class (hm : s.mode ≠ .loading)
    (hc : s.classOf l ≠ .console ∨ s.commissionEnable = false) :
    s.enterCommission l = (s, .class) := by
  by_cases hcls : s.classOf l = .console
  · have hen := hc.resolve_left (not_not.mpr hcls)
    simp only [State.enterCommission, if_neg hm, hcls, ne_eq, not_true, if_false, if_pos hen]
  · simp only [State.enterCommission, if_neg hm, ne_eq, hcls, not_false_iff, if_true]

theorem leaveCommission_of_class (hg : s.modeGate = none) (hc : s.classOf l ≠ .console) :
    s.leaveCommission l = (s, .class) := by
  simp only [State.leaveCommission, hg, if_pos hc]

theorem underWay_iff (s : State) :
    s.underWay = true ↔ ∃ o ∈ s.ops, o.st ≠ .idle ∧ o.st ≠ .faulted := by
  simp [State.underWay]

section
variable (hc : s.classOf l = .console) (hen : s.commissionEnable = true)
include hc hen

theorem enterCommission_of_startable
    (h : s.mode = .unconfigured ∨ (s.mode = .harbour ∧ s.underWay = false)) :
    s.enterCommission l = (s.setMode .commission, .done) := by
  obtain hm | ⟨hm, hu⟩ := h <;> simp [State.enterCommission, *]

theorem enterCommission_in_commission (hm : s.mode = .commission) :
    s.enterCommission l = (s, .done) := by
  simp [State.enterCommission, *]

theorem enterCommission_at_sea (hm : s.mode = .sea) : s.enterCommission l = (s, .mode) := by
  simp [State.enterCommission, *]

theorem enterCommission_of_underWay (hm : s.mode = .harbour) (hu : s.underWay = true) :
    s.enterCommission l = (s, .busy) := by
  simp [State.enterCommission, *]

end

section
variable (hc : s.classOf l = .console)
include hc

theorem leaveCommission_of_mode (hm : s.mode = .sea ∨ s.mode = .harbour) :
    s.leaveCommission l = (s, .mode) := by
  obtain hm | hm := hm <;> simp [State.leaveCommission, State.modeGate, *]

variable (hm : s.mode = .commission)
include hm

theorem leaveCommission_of_storing (hst : s.storing.isSome = true) :
    s.leaveCommission l = (s, .busy) := by
  simp [State.leaveCommission, State.modeGate, *]

variable (hst : s.storing = none)
include hst

theorem leaveCommission_of_valid (hv : validConfig s.working = true) : s.leaveCommission l =
    ({ s.build s.working with
        mode := .harbour
        retained := { s.retained with mode := .harbour }
        alarms := s.alarms.rebuilt.clear .configInvalid .part }, .done) := by
  rw [← harbour_build]
  simp [State.leaveCommission, State.modeGate, *]

theorem leaveCommission_of_invalid (hv : validConfig s.working = false) :
    s.leaveCommission l = (s.enterUnconfigured, .invalid) := by
  simp [State.leaveCommission, State.modeGate, *]

end

end

/-- Settles O46, row by row. -/
theorem commissionIsEnteredAndLeft : Obligations.CommissionIsEnteredAndLeft := by
  unfold Obligations.CommissionIsEnteredAndLeft
  intro s dt l seq hs
  have hcls := classOf_taken s dt l l
  have enter : ∀ {u : State} {r : Result}, (s.taken dt l).enterCommission l = (u, r) →
      exec (.modeCommission dt l seq []) s =
        .next (u.answer l seq kindMode (some r) [4, byte u.mode.code]) := fun h =>
    served_to hs (by simp) (modeReply_of_result h _)
  have leave : ∀ {u : State} {r : Result}, (s.taken dt l).leaveCommission l = (u, r) →
      exec (.leaveCommission dt l seq []) s =
        .next (u.answer l seq kindMode (some r) [5, byte u.mode.code]) := fun h =>
    served_to hs (by simp) (modeReply_of_result h _)
  have code_of_mode : ∀ {m : PartMode}, s.mode = m → byte (s.taken dt l).mode.code = byte m.code :=
    fun h => congrArg (fun m => byte (PartMode.code m)) h
  refine ⟨fun hm hc => ?_, fun hc hm => ?_, fun hc hen => ⟨fun h => ?_, fun hm => ?_, fun hm => ?_,
    fun hm hun => ?_⟩, fun hc => ⟨fun hm => ?_, fun hm hst => ?_, fun hm hst hv => ?_,
      fun hm hst hv => ?_⟩⟩
  · exact enter (enterCommission_of_class (s := s.taken dt l) hm (by rwa [hcls]))
  · exact leave (leaveCommission_of_class (s := s.taken dt l) (modeGate_of_ship_mode hm)
      (by rwa [hcls]))
  · refine enter (enterCommission_of_startable (s := s.taken dt l) (hcls.trans hc) hen
      (h.imp_right fun ⟨hm, hidle⟩ => ⟨hm, ?_⟩))
    rw [Bool.eq_false_iff, ne_eq, underWay_iff]
    exact fun ⟨o, ho, h1, h2⟩ => (hidle o ho).elim h1 h2
  · rw [enter (enterCommission_in_commission (hcls.trans hc) hen hm), code_of_mode hm]
    rfl
  · rw [enter (enterCommission_at_sea (hcls.trans hc) hen hm), code_of_mode hm]
    rfl
  · rw [enter (enterCommission_of_underWay (hcls.trans hc) hen hm ((underWay_iff _).mpr hun)),
      code_of_mode hm]
    rfl
  · exact leave (leaveCommission_of_mode (s := s.taken dt l) (hcls.trans hc) hm)
  · rw [leave (leaveCommission_of_storing (hcls.trans hc) hm hst), code_of_mode hm]
    rfl
  · exact ⟨_, builtFrom_build (s.taken dt l) s.working,
      leave (leaveCommission_of_valid (s := s.taken dt l) (hcls.trans hc) hm hst hv)⟩
  · exact ⟨_, unbuilt_enterUnconfigured (s.taken dt l),
      leave (leaveCommission_of_invalid (s := s.taken dt l) (hcls.trans hc) hm hst hv)⟩

end Sys2Proof.Machine

/-! The resets (R175 to R178, R143), the supply hold, and the outcomes of start-up and of the first scan. -/

namespace Sys2Proof.Machine

/-- A part without power, or in reset, lets the running time pass alone (R176, R177). -/
theorem advance_of_unpowered {s : State} (h : s.power ≠ .running) (dt : Nat) : s.advance dt =
    { s with retained := { s.retained with ranMs := s.retained.ranMs + dt } } := by
  simp [State.advance, h]

theorem dt_of_request {c : Instr} {r : Request} (hr : c.request? = some r) : r.dt = c.dt := by
  cases c
  all_goals first
    | cases hr; done
    | cases hr; rfl

/-- A command that is neither a reset source nor the supply nor a pin is processed by a running part
alone. -/
theorem exec_of_unpowered {c : Instr} {s : State} (hp : s.power ≠ .running)
    (hc : c.wellFormed = true) (ha : c.actsUnpowered = false) :
    exec c s = .next (s.advance c.dt) := by
  have line : ∀ {dt l : Nat} {f : State → State}, 1 ≤ l ∧ l ≤ 6 →
      s.onLine dt l f = .next (s.advance dt) := fun hl =>
    (onLine_of_line hl ..).trans (congrArg _ (live_of_unpowered hp ..))
  cases hr : c.request? with
  | some r =>
    obtain ⟨owner, -, hexec⟩ := exec_request hr
    rw [← dt_of_request hr]
    exact (hexec s).trans (line (line_of_wellFormed hr hc))
  | none =>
    cases c with
    | idle dt l seq p => exact line (lineOk_iff.mp (Bool.and_eq_true_iff.mp hc).1)
    | unknownKind dt l seq k p =>
      exact line (lineOk_iff.mp (Bool.and_eq_true_iff.mp (Bool.and_eq_true_iff.mp hc).1).1)
    | crcError dt l => exact line (lineOk_iff.mp hc)
    | framingError dt l b => exact line (lineOk_iff.mp hc)
    | silenceExpiry dt l => exact line (lineOk_iff.mp hc)
    | reportDue dt l => exact line (lineOk_iff.mp hc)
    | frameSent dt l => exact line (lineOk_iff.mp hc)
    | _ =>
      first
      | cases hr; done
      | cases ha; done
      | exact congrArg _ (live_of_unpowered hp ..)

/-- The alarms of a reset release with ESTOP_IN active (R143). -/
theorem releaseReset_of_inactive {s : State} (h : s.estopIn = false) : s.releaseReset = s := by
  simp [State.releaseReset, h]

theorem releaseReset_of_active {s : State} (h : s.estopIn = true) (hal : s.alarms = ⟨[], false⟩) :
    s.releaseReset = { s with
      latch := true
      alarms := ⟨[⟨.estopActive, .part, s.runningTime, .raisedUnack⟩], false⟩ } := by
  simp only [State.releaseReset, h, if_true, State.raiseAlarm, hal]
  rfl

theorem kept_eq (m : ShipMode) : m.kept = if m = .commission then .harbour else m := by
  cases m <;> rfl

/-- What reset release makes of the reset values. -/
theorem releaseReset_afterReset (s : State) (straps : Straps) (r : Retained) :
    (s.estopIn = false → (s.afterReset .running straps r).releaseReset =
      s.afterReset .running straps r) ∧
    (s.estopIn = true → (s.afterReset .running straps r).releaseReset =
      { s.afterReset .running straps r with
        latch := true
        alarms := ⟨[⟨.estopActive, .part, (s.afterReset .running straps r).runningTime,
          .raisedUnack⟩], false⟩ }) :=
  ⟨fun h => releaseReset_of_inactive h, fun h => releaseReset_of_active h rfl⟩

/-! ### The sources -/

section
variable (s : State) (dt : Nat) (straps : Straps)

theorem exec_powerOn : exec (.powerOn dt straps) s =
    .next (s.afterReset .running straps Retained.powerOn).releaseReset := rfl

variable {s}

theorem exec_external_of_running (hp : s.power = .running) : exec (.external dt) s =
    .next (State.afterReset { s.advance dt with resetIn := true } .inReset s.straps
      (s.advance dt).retained.external) := by
  simp only [exec, execExternal, hp]
  rfl

theorem exec_external_of_unpowered (hp : s.power ≠ .running) : exec (.external dt) s =
    .next { s.advance dt with resetIn := true } := by
  simp only [exec, execExternal]
  cases h : s.power with
  | running => exact absurd h hp
  | inReset => rfl
  | supplyHold => rfl

theorem exec_resetRelease_of_inReset (hp : s.power = .inReset) : exec (.resetRelease dt straps) s =
    .next (State.afterReset { s.advance dt with resetIn := false } .running straps
      (s.advance dt).retained).releaseReset := by
  simp only [exec, execResetRelease, hp]

theorem exec_resetRelease_of_released (hp : s.power = .running ∨ s.power = .supplyHold) :
    exec (.resetRelease dt straps) s = .next { s.advance dt with resetIn := false } := by
  obtain hp | hp := hp <;> simp only [exec, execResetRelease, hp]

theorem exec_supply_of_hold (hp : s.power = .supplyHold) : exec (.supply dt straps) s =
    .next (State.afterReset (s.advance dt) .running straps (s.advance dt).retained.supply).releaseReset := by
  simp only [exec, execSupply, hp]

theorem exec_supply_of_supplied (hp : s.power ≠ .supplyHold) :
    exec (.supply dt straps) s = .next (s.advance dt) := by
  simp only [exec, execSupply]
  cases h : s.power with
  | running => rfl
  | inReset => rfl
  | supplyHold => exact absurd h hp

end

theorem external_eq (r : Retained) : r.external =
    ⟨if r.mode = .commission then .harbour else r.mode, .external, min (r.externals + 1) 255,
      r.supplies, r.ranMs⟩ := by
  rw [Retained.external, kept_eq, satInc]

theorem supply_eq (r : Retained) : r.supply =
    ⟨if r.mode = .commission then .harbour else r.mode, .supply, r.externals,
      min (r.supplies + 1) 255, r.ranMs⟩ := by
  rw [Retained.supply, kept_eq, satInc]

/-! ### The end of the first scan (R23, R178, R133) -/

theorem foldl_raiseAlarm (c : AlarmCode) (hs : List Hatch) (s : State) :
    hs.foldl (fun x hr => x.raiseAlarm c (.hatch hr.num)) s =
      { s with alarms := hs.foldl (fun x hr => x.raise c (.hatch hr.num) s.runningTime) s.alarms } := by
  induction hs generalizing s with
  | nil => rfl
  | cons hr hs ih =>
    rw [List.foldl_cons, ih]
    rfl

theorem becomeReady_eq (s : State) : s.becomeReady = { s with
    mode := s.retained.mode.part
    alarms :=
      let al := if s.retained.mode = .sea then
          (s.hatches.filter fun hr => hr.position ≠ .secured).foldl (fun x hr =>
            x.raise .hatchUnsecuredAtSea (.hatch hr.num) s.runningTime) s.alarms
        else s.alarms
      if s.retained.cause = .supply then al.raise .supplyDip .part s.runningTime else al } := by
  have hsea : s.retained.mode.part = .sea ↔ s.retained.mode = .sea := by
    cases s.retained.mode <;> decide
  have hfilter : (s.hatches.filter fun hr => hr.position != .secured) =
      s.hatches.filter fun hr => hr.position ≠ .secured := by
    refine List.filter_congr fun hr _ => ?_
    cases hr.position <;> rfl
  simp only [State.becomeReady, foldl_raiseAlarm, hsea, hfilter]
  by_cases hm : s.retained.mode = .sea <;> by_cases hcause : s.retained.cause = .supply <;>
    simp only [hm, hcause, if_true, if_false, State.raiseAlarm] <;> rfl

section
variable {s : State} {k : Nat}

theorem endTurn_of_more (h : k + 1 < s.nodes.length) : s.endTurn k = s :=
  if_neg (Nat.not_le.mpr h)

theorem endTurn_of_last (h : s.nodes.length ≤ k + 1)
    (hm : s.mode ≠ .loading ∨ s.scan.firstOver = true) : s.endTurn k =
      { s with scan := { s.scan with place := none, replied := false, firstOver := true } } := by
  have hn : ¬(s.mode = .loading ∧ s.scan.firstOver = false) := fun ⟨hl, hf⟩ =>
    hm.elim (· hl) fun ht => Bool.false_ne_true (hf.symm.trans ht)
  rw [State.endTurn, if_pos h]
  exact if_neg hn

theorem endTurn_of_first (h : s.nodes.length ≤ k + 1) (hm : s.mode = .loading)
    (hf : s.scan.firstOver = false) : s.endTurn k = State.becomeReady
      { s with scan := { s.scan with place := none, replied := false, firstOver := true } } := by
  rw [State.endTurn, if_pos h]
  exact if_pos ⟨hm, hf⟩

end

/-- Settles O53. -/
theorem resetsLeaveTheResetValues : Obligations.ResetsLeaveTheResetValues := by
  unfold Obligations.ResetsLeaveTheResetValues
  refine ⟨fun s dt straps => ⟨?_, fun hp => ?_, fun hp => ?_, ?_, fun hp => ?_, fun hp => ?_,
    fun hp => ?_, fun hp => ?_, fun hp => ⟨fun c hc ha => ?_, ?_, ?_⟩⟩,
    fun u => ⟨fun c hi hv => ?_, fun c hi hv => ?_, fun hi => ?_⟩,
    fun s k => ⟨endTurn_of_more, endTurn_of_last, fun al hk hm hf hal => ?_⟩⟩
  · obtain ⟨hno, hyes⟩ := releaseReset_afterReset s straps Retained.powerOn
    have hzero : (s.afterReset .running straps Retained.powerOn).runningTime = 0 := by
      simp [State.runningTime, State.afterReset, Retained.powerOn]
    rw [hzero] at hyes
    exact ⟨s.afterReset .running straps Retained.powerOn, atReset_afterReset .., rfl, rfl, rfl, rfl,
      rfl, fun h => congrArg Host.Outcome.next (hno h), fun h => congrArg Host.Outcome.next (hyes h)⟩
  · exact ⟨_, exec_external_of_running dt hp, atReset_afterReset .., rfl, rfl, rfl, rfl,
      external_eq _⟩
  · obtain ⟨hno, hyes⟩ := releaseReset_afterReset { s.advance dt with resetIn := false } straps
      (s.advance dt).retained
    rw [exec_resetRelease_of_inReset dt straps hp]
    exact ⟨State.afterReset { s.advance dt with resetIn := false } .running straps
      (s.advance dt).retained, atReset_afterReset .., rfl, rfl, rfl, rfl, rfl, rfl, fun h => congrArg Host.Outcome.next (hno h),
      fun h => congrArg Host.Outcome.next (hyes h)⟩
  · exact ⟨_, rfl, rfl, rfl, rfl, List.map_congr_left fun _ _ => rfl⟩
  · have hn : s.power ≠ .running := by
      obtain hp | hp := hp <;> simp [hp]
    rw [exec_external_of_unpowered dt hn, advance_of_unpowered hn]
  · exact exec_resetRelease_of_released dt straps hp
  · exact exec_supply_of_supplied dt straps hp
  · obtain ⟨hno, hyes⟩ := releaseReset_afterReset (s.advance dt) straps (s.advance dt).retained.supply
    rw [exec_supply_of_hold dt straps hp]
    exact ⟨State.afterReset (s.advance dt) .running straps (s.advance dt).retained.supply,
      atReset_afterReset .., rfl, rfl, rfl, rfl, supply_eq _, fun h => congrArg Host.Outcome.next (hno h),
      fun h => congrArg Host.Outcome.next (hyes h)⟩
  · rw [exec_of_unpowered hp hc ha, advance_of_unpowered hp]
  · exact congrArg _ ((live_of_unpowered (s := { s with estopIn := true }) hp ..).trans
      (advance_of_unpowered (s := { s with estopIn := true }) hp dt))
  · exact congrArg _ ((live_of_unpowered (s := { s with estopIn := false }) hp ..).trans
      (advance_of_unpowered (s := { s with estopIn := false }) hp dt))
  · have hstart : u.startUp = State.build { u with started := true, working := c } c := by
      simp only [State.startUp, hi, hv, if_true]
    rw [hstart]
    exact builtFrom_build ..
  · have hstart : u.startUp = State.enterUnconfigured { u with started := true, working := c } := by
      simp only [State.startUp, hi, hv, Bool.false_eq_true, if_false]
    rw [hstart]
    exact unbuilt_enterUnconfigured _
  · have hstart : u.startUp = State.enterUnconfigured { u with started := true, working := [] } := by
      simp only [State.startUp, hi]
    rw [hstart]
    exact unbuilt_enterUnconfigured _
  · rw [endTurn_of_first hk hm hf, becomeReady_eq, hal]
    have hmode : s.retained.mode.part = match s.retained.mode with
        | .sea => .sea
        | .harbour => .harbour
        | .commission => .commission := by
      cases s.retained.mode <;> rfl
    simp only [hmode]
    rfl

end Sys2Proof.Machine

/-! The power pack stopped (R75, R97, R99) and its idle stop (R97). -/

namespace Sys2Proof.Machine

/-! ### A pump output -/

section
variable (s : State) (n : Nat) {a k : Nat}

theorem outAt_drivePump_bound {q : Point} (hq : s.pumpPoint? .pumpRun n = some q) :
    (s.drivePump n 0).outAt q.node q.point = 0 := by
  rw [State.drivePump, hq]
  exact outAt_setOut_zero ..

theorem outAt_drivePump_other (v : Nat)
    (h : ∀ q, s.pumpPoint? .pumpRun n = some q → ¬(a = q.node ∧ k = q.point)) :
    (s.drivePump n v).outAt a k = s.outAt a k := by
  rw [State.drivePump]
  cases hq : s.pumpPoint? .pumpRun n with
  | none => rfl
  | some q => exact outAt_setOut_ne s v (h q hq)

theorem outAt_drivePump_zero (h : s.outAt a k = 0) : (s.drivePump n 0).outAt a k = 0 := by
  by_cases hb : ∃ q, s.pumpPoint? .pumpRun n = some q ∧ (a = q.node ∧ k = q.point)
  · obtain ⟨q, hq, rfl, rfl⟩ := hb
    exact outAt_drivePump_bound s n hq
  · exact (outAt_drivePump_other s n 0 fun q hq hk => hb ⟨q, hq, hk⟩).trans h

end

/-! ### One pump stopped -/

/-- A pump as a stop leaves it (R97, R99). -/
def Pump.stopped (p : Pump) : Pump :=
  if p.st = .failed then p else { p with st := .off, deadline := none, settle := none }

theorem Pump.stopped_num (p : Pump) : p.stopped.num = p.num := by
  unfold Pump.stopped
  split <;> rfl

theorem Pump.stopped_flow (p : Pump) : p.stopped.flow = p.flow := by
  unfold Pump.stopped
  split <;> rfl

theorem Pump.failed_stopped {p : Pump} : p.stopped.st = .failed ↔ p.st = .failed := by
  unfold Pump.stopped
  split
  · rfl
  · next h => exact ⟨fun h' => (nomatch h'), fun h' => absurd h' h⟩

theorem Pump.running_stopped (p : Pump) : p.stopped.st ≠ .running := by
  unfold Pump.stopped
  split
  · next h => exact fun h' => (nomatch h.symm.trans h')
  · exact fun h' => (nomatch h')

section
variable {s : State} (hnd : (s.pumps.map Pump.num).Nodup) (n : Nat)

theorem stopPump_nodes (s : State) (n : Nat) : s.stopPump n =
    { s with pumps := (s.stopPump n).pumps, nodes := (s.stopPump n).nodes } := by
  unfold State.stopPump
  split
  · rfl
  · split
    · rfl
    · rw [drivePump_eq]
      rfl

theorem stopPump_of_failed {p : Pump} (hp : s.pump? n = some p) (hf : p.st = .failed) :
    s.stopPump n = s := by
  simp only [State.stopPump, hp, if_pos hf]

theorem stopPump_of_serving {p : Pump} (hp : s.pump? n = some p) (hf : p.st ≠ .failed) :
    s.stopPump n = (s.updPump n fun x =>
      { x with st := .off, deadline := none, settle := none }).drivePump n 0 := by
  simp only [State.stopPump, hp, if_neg hf]

include hnd

theorem pump?_of_mem {p : Pump} (hp : p ∈ s.pumps) : s.pump? p.num = some p :=
  findKey_of_mem (key := Pump.num) hnd hp

theorem pumps_stopPump : (s.stopPump n).pumps =
    s.pumps.map fun p => if p.num = n then p.stopped else p := by
  have hfound : ∀ p ∈ s.pumps, p.num = n → s.pump? n = some p := fun p hm hn =>
    hn ▸ pump?_of_mem hnd hm
  have unchanged : (∀ p ∈ s.pumps, p.num = n → p.stopped = p) →
      s.pumps = s.pumps.map fun p => if p.num = n then p.stopped else p := fun h => by
    refine (List.map_id _).symm.trans (List.map_congr_left fun p hm => ?_)
    split_ifs with hn
    · exact (h p hm hn).symm
    · rfl
  cases hp : s.pump? n with
  | none =>
    have hs : s.stopPump n = s := by simp only [State.stopPump, hp]
    rw [hs]
    exact unchanged fun p hm hn => nomatch (hfound p hm hn).symm.trans hp
  | some p =>
    by_cases hf : p.st = .failed
    · rw [stopPump_of_failed n hp hf]
      refine unchanged fun x hm hn => ?_
      obtain rfl : x = p := Option.some.inj ((hfound x hm hn).symm.trans hp)
      exact if_pos hf
    · rw [stopPump_of_serving n hp hf, drivePump_eq]
      refine (updateKey_eq Pump.num n _ s.pumps).trans (List.map_congr_left fun x hm => ?_)
      split_ifs with hn
      · obtain rfl : x = p := Option.some.inj ((hfound x hm hn).symm.trans hp)
        exact (if_neg hf).symm
      · rfl

theorem nodup_stopPump : ((s.stopPump n).pumps.map Pump.num).Nodup := by
  rw [(onlyMotion_stopPump s n).pumps]
  exact hnd

/-- A stop writes the PUMP_RUN output of its pump alone, and that with 0. -/
theorem outAt_stopPump_bound {p : Pump} (hp : p ∈ s.pumps) (hf : p.st ≠ .failed) {q : Point}
    (hq : s.pumpPoint? .pumpRun p.num = some q) : (s.stopPump p.num).outAt q.node q.point = 0 := by
  rw [stopPump_of_serving _ (pump?_of_mem hnd hp) hf]
  exact outAt_drivePump_bound _ _ hq

omit hnd

theorem outAt_stopPump_zero {a k : Nat} (h : s.outAt a k = 0) : (s.stopPump n).outAt a k = 0 := by
  unfold State.stopPump
  split
  · exact h
  · split
    · exact h
    · exact outAt_drivePump_zero (s.updPump n _) n h

theorem outAt_stopPump_other {a k : Nat} (h : ∀ p ∈ s.pumps, p.st ≠ .failed →
    ∀ q, s.pumpPoint? .pumpRun p.num = some q → ¬(a = q.node ∧ k = q.point)) :
    (s.stopPump n).outAt a k = s.outAt a k := by
  cases hp : s.pump? n with
  | none => simp only [State.stopPump, hp]
  | some p =>
    by_cases hf : p.st = .failed
    · rw [stopPump_of_failed n hp hf]
    · rw [stopPump_of_serving n hp hf]
      have hnum : p.num = n := findKey_key (key := Pump.num) hp
      exact outAt_drivePump_other _ n 0 fun q hq => h p (findKey_mem hp) hf q (hnum ▸ hq)

end

/-! ### Every pump stopped -/

theorem pumpPoint?_stopPump (s : State) (n : Nat) (r : Role) (k : Nat) :
    (s.stopPump n).pumpPoint? r k = s.pumpPoint? r k := by
  rw [stopPump_nodes]
  rfl

/-- The pumps of a list of numbers stopped. -/
def State.stopEach (s : State) (ns : List Nat) : State := ns.foldl State.stopPump s

theorem stopEach_nodes (ns : List Nat) (s : State) :
    ∃ ps nodes, s.stopEach ns = { s with pumps := ps, nodes := nodes } := by
  induction ns generalizing s with
  | nil => exact ⟨_, _, rfl⟩
  | cons n ns ih =>
    obtain ⟨ps, nodes, h⟩ := ih (s.stopPump n)
    rw [stopPump_nodes s n] at h
    exact ⟨ps, nodes, (congrArg (State.stopEach · ns) (stopPump_nodes s n)).trans h⟩

theorem pumps_stopEach (ns : List Nat) {s : State} (hnd : (s.pumps.map Pump.num).Nodup) :
    (s.stopEach ns).pumps = s.pumps.map fun p => if p.num ∈ ns then p.stopped else p := by
  induction ns generalizing s with
  | nil => simp [State.stopEach]
  | cons n ns ih =>
    have hstep : ∀ p : Pump, (if (if p.num = n then p.stopped else p).num ∈ ns then
        (if p.num = n then p.stopped else p).stopped else if p.num = n then p.stopped else p) =
          if p.num ∈ n :: ns then p.stopped else p := by
      intro p
      have htwice : p.stopped.stopped = p.stopped := by
        unfold Pump.stopped
        split_ifs <;> rfl
      by_cases hn : p.num = n <;> by_cases hm : p.num ∈ ns <;>
        simp [hn, hm, p.stopped_num, htwice]
    refine (ih (s := s.stopPump n) (nodup_stopPump hnd n)).trans ?_
    rw [pumps_stopPump hnd, List.map_map]
    exact List.map_congr_left fun p _ => hstep p

theorem outAt_stopEach_zero (ns : List Nat) {s : State} {a k : Nat} (h : s.outAt a k = 0) :
    (s.stopEach ns).outAt a k = 0 := by
  induction ns generalizing s with
  | nil => exact h
  | cons n ns ih => exact ih (outAt_stopPump_zero n h)

theorem outAt_stopEach_bound (ns : List Nat) {s : State} (hnd : (s.pumps.map Pump.num).Nodup)
    {p : Pump} (hp : p ∈ s.pumps) (hf : p.st ≠ .failed) (hn : p.num ∈ ns) {q : Point}
    (hq : s.pumpPoint? .pumpRun p.num = some q) : (s.stopEach ns).outAt q.node q.point = 0 := by
  induction ns generalizing s with
  | nil => cases hn
  | cons n ns ih =>
    by_cases hpn : p.num = n
    · subst hpn
      exact outAt_stopEach_zero ns (outAt_stopPump_bound hnd hp hf hq)
    · have hmem : p ∈ (s.stopPump n).pumps := by
        rw [pumps_stopPump hnd]
        exact List.mem_map.mpr ⟨p, hp, if_neg hpn⟩
      exact ih (nodup_stopPump hnd n) hmem ((List.mem_cons.mp hn).resolve_left hpn)
        ((pumpPoint?_stopPump ..).trans hq)

theorem outAt_stopEach_other (ns : List Nat) {s : State} (hnd : (s.pumps.map Pump.num).Nodup)
    {a k : Nat} (h : ∀ p ∈ s.pumps, p.st ≠ .failed →
      ∀ q, s.pumpPoint? .pumpRun p.num = some q → ¬(a = q.node ∧ k = q.point)) :
    (s.stopEach ns).outAt a k = s.outAt a k := by
  induction ns generalizing s with
  | nil => rfl
  | cons n ns ih =>
    refine (ih (s := s.stopPump n) (nodup_stopPump hnd n) fun p hp hf q hq => ?_).trans
      (outAt_stopPump_other n h)
    rw [pumps_stopPump hnd] at hp
    rw [pumpPoint?_stopPump] at hq
    obtain ⟨x, hx, rfl⟩ := List.mem_map.mp hp
    split_ifs at hf hq with hxn
    · exact h x hx (hf ∘ Pump.failed_stopped.mpr) q (x.stopped_num ▸ hq)
    · exact h x hx hf q hq

/-- No pump runs, and the pumps that are not FAILED are as they were: B is 0 and MaxB is kept (R75). -/
theorem qRun_stopped (ps : List Pump) : qRun (ps.map Pump.stopped) = 0 := by
  have hnone : (ps.map Pump.stopped).filter (fun p => p.st == .running) = [] :=
    List.filter_eq_nil_iff.mpr fun p hp => by
      obtain ⟨x, -, rfl⟩ := List.mem_map.mp hp
      simpa using x.running_stopped
  rw [qRun, hnone]
  rfl

theorem qAll_stopped (ps : List Pump) : qAll (ps.map Pump.stopped) = qAll ps := by
  have hst : ((fun p : Pump => p.st != .failed) ∘ Pump.stopped) = fun p => p.st != .failed :=
    funext fun p => by
      rw [Function.comp, Bool.eq_iff_iff, bne_iff_ne, bne_iff_ne, ne_eq, Pump.failed_stopped]
  have hflow : Pump.flow ∘ Pump.stopped = Pump.flow := funext Pump.stopped_flow
  rw [qAll, qAll, List.filter_map, hst, List.map_map, hflow]

section
variable {s : State} (hnd : (s.pumps.map Pump.num).Nodup)
include hnd

theorem pumps_stopPumps : s.stopPumps.pumps = s.pumps.map Pump.stopped := by
  refine (pumps_stopEach _ hnd).trans (List.map_congr_left fun p hp => ?_)
  exact if_pos (List.mem_map_of_mem hp)

theorem stopPumps_eq : s.stopPumps =
    { s with
      pumps := s.pumps.map Pump.stopped
      nodes := s.stopPumps.nodes
      budget := 0
      maxB := s.computeMaxB } := by
  have hp := pumps_stopPumps hnd
  obtain ⟨ps, nodes, heach⟩ := stopEach_nodes (s.pumps.map Pump.num) s
  have hs : s.stopPumps = { s with
      pumps := s.stopPumps.pumps
      nodes := s.stopPumps.nodes
      budget := qRun s.stopPumps.pumps * s.band.factor / 100 - s.reserve
      maxB := qAll s.stopPumps.pumps * s.band.factor / 100 - s.reserve } := by
    have hunfold : s.stopPumps = { s.stopEach (s.pumps.map Pump.num) with
        budget := (s.stopEach (s.pumps.map Pump.num)).computeB
        maxB := (s.stopEach (s.pumps.map Pump.num)).computeMaxB } := rfl
    rw [hunfold, heach]
    rfl
  rw [hp, qRun_stopped, qAll_stopped, Nat.zero_mul, Nat.zero_div, Nat.zero_sub] at hs
  exact hs

theorem outAt_stopPumps_bound {p : Pump} (hp : p ∈ s.pumps) (hf : p.st ≠ .failed) {q : Point}
    (hq : s.pumpPoint? .pumpRun p.num = some q) : s.stopPumps.outAt q.node q.point = 0 :=
  outAt_stopEach_bound _ hnd hp hf (List.mem_map_of_mem hp) hq

theorem outAt_stopPumps_other {a k : Nat} (h : ∀ p ∈ s.pumps, p.st ≠ .failed →
    ∀ q, s.pumpPoint? .pumpRun p.num = some q → ¬(a = q.node ∧ k = q.point)) :
    s.stopPumps.outAt a k = s.outAt a k :=
  outAt_stopEach_other _ hnd h

end

/-! ### The idle stop -/

theorem exec_pumpIdleStop {s : State} (hp : s.power = .running) (dt : Nat) :
    exec (.pumpIdleStop dt) s = .next (s.advance dt).idleStop :=
  congrArg _ (live_of_running hp ..)

theorem idleStop_of_due {s : State} {t0 : Nat} (ht : s.pumpIdle = some t0) (hdue : t0 + 60000 ≤ s.now) :
    s.idleStop = State.stopPumps { s with pumpIdle := none } := by
  simp only [State.idleStop, ht, elapsed, decide_eq_true hdue, if_true]

theorem idleStop_of_early {s : State} (h : ∀ t ∈ s.pumpIdle, s.now < t + 60000) :
    s.idleStop = s := by
  have hnot : elapsed s.pumpIdle 60000 s.now = false := by
    cases ht : s.pumpIdle with
    | none => rfl
    | some t => exact decide_eq_false (Nat.not_le.mpr (h t ht))
  simp only [State.idleStop, hnot, Bool.false_eq_true, if_false]

theorem computeMaxB_eq (s : State) : s.computeMaxB =
    ((s.pumps.filter fun p => p.st ≠ .failed).map Pump.flow).sum *
      (match s.band with | .cold => 60 | .normal => 100 | .warm => 85 | .hot => 0) / 100 -
      (match s.inForce with | some c => itemNat c 11 0 | none => 0) := by
  have hfilter : s.pumps.filter (fun p => p.st != .failed) =
      s.pumps.filter fun p => p.st ≠ .failed := by
    refine List.filter_congr fun p _ => ?_
    cases p.st <;> rfl
  rw [State.computeMaxB, qAll, hfilter, State.reserve, Band.factor.eq_def]
  rfl

/-- Settles O35: the timer stops, then every pump. -/
theorem pumpIdleStop : Obligations.PumpIdleStop := by
  unfold Obligations.PumpIdleStop
  refine ⟨fun s dt t0 hp ht hdue hnd => ?_, fun s dt hp hearly => ?_⟩
  · have hdue' : t0 + 60000 ≤ (s.advance dt).now := by
      rw [advance_now hp]
      exact hdue
    rw [exec_pumpIdleStop hp, idleStop_of_due (s := s.advance dt) ht hdue']
    have hnd' : (({ s.advance dt with pumpIdle := none } : State).pumps.map Pump.num).Nodup := hnd
    refine ⟨_, rfl, ?_, (onlyMotion_stopPumps _).nodes, pumps_stopPumps hnd', ?_, ?_⟩
    · have h := stopPumps_eq hnd'
      rw [← pumps_stopPumps hnd', computeMaxB_eq] at h
      exact h
    · exact fun p hp hf q hq => outAt_stopPumps_bound hnd' hp hf hq
    · exact fun a k h => outAt_stopPumps_other hnd' h
  · rw [exec_pumpIdleStop hp]
    refine congrArg _ (idleStop_of_early (s := s.advance dt) ?_)
    rw [advance_now hp]
    exact hearly

end Sys2Proof.Machine

/-! The attitude line (R102 to R111): the window, the hand-ons of the axes, and a granted record at a new
fraction (R88). -/

namespace Sys2Proof.Machine

/-! ### The valves of a step as a list of writes (R45, R53, R54) -/

theorem writeDriven_eq_writeValves (s : State) (hr : Hatch) (st : Step) (v : Nat) :
    s.writeDriven hr st v = s.writeValves hr.num (hr.drivenWrites st v) := by
  cases st <;> rfl

theorem zeroOpposed_eq_writeValves (s : State) (h : Nat) (st : Step) :
    s.zeroRole st.opposed h st.valveIndexes = s.writeValves h st.opposedWrites := by
  cases st <;> rfl

theorem openValves_eq_writeValves (s : State) (hr : Hatch) (st : Step) (v : Nat) :
    s.openValves hr st v = s.writeValves hr.num (st.opposedWrites ++ hr.drivenWrites st v) := by
  rw [State.openValves, zeroOpposed_eq_writeValves, writeDriven_eq_writeValves, State.writeValves,
    State.writeValves, State.writeValves, List.foldl_append]

theorem writeValves_eq (h : Nat) (ws : List ValveWrite) (s : State) :
    s.writeValves h ws = { s with nodes := (s.writeValves h ws).nodes } := by
  suffices hex : ∃ ns, s.writeValves h ws = { s with nodes := ns } by
    obtain ⟨ns, hns⟩ := hex
    rw [hns]
  induction ws generalizing s with
  | nil => exact ⟨_, rfl⟩
  | cons w ws ih =>
    obtain ⟨ns, hns⟩ := ih (s.drive w.1 h w.2.1 w.2.2)
    refine ⟨ns, hns.trans ?_⟩
    rw [drive_eq]

theorem nodes_drive {s t : State} (hn : t.nodes = s.nodes) (hp : t.points = s.points) (r : Role)
    (h i v : Nat) : (t.drive r h i v).nodes = (s.drive r h i v).nodes := by
  simp only [State.drive, State.point?, hp]
  split
  · simp only [State.setOut, updNode_nodes, hn]
  · exact hn

/-- What is written into the valves depends on the node records and the bindings alone. -/
theorem nodes_writeValves (h : Nat) (ws : List ValveWrite) {s t : State} (hn : t.nodes = s.nodes)
    (hp : t.points = s.points) : (t.writeValves h ws).nodes = (s.writeValves h ws).nodes := by
  induction ws generalizing s t with
  | nil => exact hn
  | cons w ws ih =>
    refine ih (nodes_drive hn hp ..) ?_
    rw [points_drive, points_drive, hp]

/-! ### A new fraction (R88) -/

theorem followOne_eq {s : State} {h p : Nat} {g : Grant} {hr : Hatch} (hg : s.grant? h = some g)
    (hh : s.hatch? h = some hr) : s.followOne p h = { s with
      granted := s.granted.map fun x =>
        if x.hatch = h then g.follow s.maxB s.freeFlow p else x
      nodes := if (g.follow s.maxB s.freeFlow p).setpoint = g.setpoint then s.nodes
        else (s.writeValves h (hr.drivenWrites g.step (g.follow s.maxB s.freeFlow p).setpoint)).nodes } := by
  have hnum : hr.num = h := findKey_key (key := Hatch.num) hh
  have hupd : (s.updGrant h fun _ => g.follow s.maxB s.freeFlow p) = { s with
      granted := s.granted.map fun x =>
        if x.hatch = h then g.follow s.maxB s.freeFlow p else x } := by
    rw [State.updGrant, updateKey_eq]
  simp only [State.followOne, hg, hh]
  split
  · exact hupd
  · rw [writeDriven_eq_writeValves, writeValves_eq, hnum, hupd]
    have hnodes := nodes_writeValves h
      (hr.drivenWrites g.step (g.follow s.maxB s.freeFlow p).setpoint) (s := s)
      (t := { s with granted := s.granted.map fun x =>
        if x.hatch = h then g.follow s.maxB s.freeFlow p else x }) rfl rfl
    rw [hnodes]

section
variable {g : Grant} {maxB free p d c : Nat} {clamped : Bool}

theorem follow_of_less (ht : g.target maxB p = (d, c, clamped)) (h : d < g.demand ∨ c < g.speed) :
    g.follow maxB free p = { g with demand := d, speed := c, setpoint := c, clamped := clamped } := by
  simp only [Grant.follow, ht, if_pos h]

theorem follow_of_more (ht : g.target maxB p = (d, c, clamped)) (hd : g.demand ≤ d)
    (hc : g.speed ≤ c) : g.follow maxB free p =
      { g with
        demand := min d (g.demand + free)
        speed := min c (min d (g.demand + free) * 100 / g.q)
        setpoint := min c (min d (g.demand + free) * 100 / g.q)
        clamped := clamped } := by
  simp only [Grant.follow, ht, if_neg (not_or.mpr ⟨Nat.not_lt.mpr hd, Nat.not_lt.mpr hc⟩)]

end

/-! ### The hand-on of an axis -/

theorem grantedOn_eq (s : State) (axis : Cover) : s.grantedOn axis =
    (s.granted.filter fun g => match axis with
      | .roll => g.step = .travelOpen ∨ g.step = .travelClose
      | .fold => g.step = .foldOpen ∨ g.step = .foldClose).map Grant.hatch := by
  rw [State.grantedOn]
  refine congrArg _ (List.filter_congr fun g _ => ?_)
  cases axis <;> cases g.step <;> simp [Step.axis]

section
variable {s : State}

theorem deriveFractions_window (s : State) : s.deriveFractions =
    { s.att with heel := s.deriveFractions.heel, trim := s.deriveFractions.trim } := by
  unfold State.deriveFractions
  split <;> rfl

/-- Below a fill of four no permit exists (R108). -/
theorem deriveFractions_of_short (h : s.att.window.length < 4) :
    s.deriveFractions.heel = none ∧ s.deriveFractions.trim = none := by
  have hnone : ∀ pk fl sl mn, axisFraction s.att.window.length pk fl sl mn = none := by
    intro pk fl sl mn
    cases pk with
    | none => rfl
    | some a => exact if_neg (Nat.not_le.mpr h)
  cases hc : s.inForce with
  | none => simp only [State.deriveFractions, hc, and_self]
  | some c => exact ⟨(deriveFractions_heel hc).trans (hnone ..), (deriveFractions_trim hc).trans (hnone ..)⟩

theorem attitudeHandOn_eq (s : State) (order : Bool) : s.attitudeHandOn order =
    if order = true then
      (({ s with att := s.deriveFractions } : State).axisHandOn .fold s.att.trim
        s.deriveFractions.trim).axisHandOn .roll s.att.heel s.deriveFractions.heel
    else (({ s with att := s.deriveFractions } : State).axisHandOn .roll s.att.heel
        s.deriveFractions.heel).axisHandOn .fold s.att.trim s.deriveFractions.trim := rfl

theorem onlyMotion_bothAxes (x : State) (order : Bool) (h h' f f' : Option Nat) :
    OnlyMotion x (if order = true then (x.axisHandOn .fold f f').axisHandOn .roll h h'
      else (x.axisHandOn .roll h h').axisHandOn .fold f f') := by
  split
  · exact (onlyMotion_axisHandOn ..).trans (onlyMotion_axisHandOn ..)
  · exact (onlyMotion_axisHandOn ..).trans (onlyMotion_axisHandOn ..)

theorem clampAngle_eq_iff (v : Int) : clampAngle v = v ↔ ¬(v < -450 ∨ 450 < v) := by
  unfold clampAngle
  omega

end

section
variable {s : State} (hp : s.power = .running) (dt : Nat)
include hp

theorem exec_attitudeTelegram (heel trim : Word) (flags crc : Byte) (order : Bool) :
    exec (.attitudeTelegram dt heel trim flags crc order) s =
      .next ((s.advance dt).attitudeFrame heel trim flags crc order) :=
  congrArg _ (live_of_running hp ..)

theorem exec_attitudeSilence (order : Bool) : exec (.attitudeSilence dt order) s =
    .next ((s.advance dt).attitudeSilent order) :=
  congrArg _ (live_of_running hp ..)

theorem exec_attitudeFramingError : exec (.attitudeFramingError dt) s =
    .next (s.advance dt).attitudeBreak :=
  congrArg _ (live_of_running hp ..)

end

section
variable {s : State} {heel trim : Word} {flags crc : Byte} {order : Bool}

theorem attitudeFrame_of_badCrc (h : crc8 (be16 heel.toNat ++ be16 trim.toNat ++ [flags]) ≠ crc) :
    s.attitudeFrame heel trim flags crc order =
      { s with att := { s.att with rx := .hunting, crc := inc16 s.att.crc } } :=
  if_pos h

variable (hc : crc8 (be16 heel.toNat ++ be16 trim.toNat ++ [flags]) = crc)
include hc

theorem attitudeFrame_of_invalid (hf : flags.getLsbD 0 = false) :
    s.attitudeFrame heel trim flags crc order =
      { s with att := { s.att with rx := .hunting, invalid := inc16 s.att.invalid } } :=
  (if_neg (not_not.mpr hc)).trans (if_pos hf)

theorem attitudeFrame_of_accepted (hf : flags.getLsbD 0 = true) :
    s.attitudeFrame heel trim flags crc order =
      State.acceptReading { s with att := { s.att with rx := .hunting } } heel.toInt trim.toInt order :=
  (if_neg (not_not.mpr hc)).trans (if_neg (by simp [hf]))

end

/-- The state in which an accepted reading is handed on (R103 to R105). -/
theorem acceptReading_eq (s : State) (heel trim : Int) (order : Bool) : s.acceptReading heel trim order =
    State.attitudeHandOn { s with
      att := { s.att with
        window := pushReading s.att.window (clampAngle heel, clampAngle trim)
        silence := some s.now
        accepted := inc16 s.att.accepted
        clamped := if heel < -450 ∨ 450 < heel ∨ trim < -450 ∨ 450 < trim then
            inc16 s.att.clamped
          else s.att.clamped }
      alarms := if s.att.window.length = 3 then s.alarms.clear .attitudeInvalid .attitude
        else s.alarms } order := by
  have hclamped : (if (clampAngle heel, clampAngle trim) = (heel, trim) then s.att.clamped
      else inc16 s.att.clamped) = if heel < -450 ∨ 450 < heel ∨ trim < -450 ∨ 450 < trim then
        inc16 s.att.clamped else s.att.clamped := by
    have hiff : (clampAngle heel, clampAngle trim) = (heel, trim) ↔
        ¬(heel < -450 ∨ 450 < heel ∨ trim < -450 ∨ 450 < trim) := by
      rw [Prod.mk.injEq, clampAngle_eq_iff, clampAngle_eq_iff]
      tauto
    simp only [hiff, ite_not]
  unfold State.acceptReading
  simp only [hclamped]
  split <;> rfl

theorem attitudeSilent_of_early {s : State} (order : Bool)
    (h : ∀ t ∈ s.att.silence, s.now < t + 1000) : s.attitudeSilent order = s := by
  have hnot : elapsed s.att.silence 1000 s.now = false := by
    cases ht : s.att.silence with
    | none => rfl
    | some t => exact decide_eq_false (Nat.not_le.mpr (h t ht))
  simp only [State.attitudeSilent, hnot, Bool.false_eq_true, if_false]

theorem attitudeSilent_of_due {s : State} {t0 : Nat} (ht : s.att.silence = some t0)
    (hdue : t0 + 1000 ≤ s.now) (order : Bool) : s.attitudeSilent order =
      State.attitudeHandOn { s with
        att := { s.att with window := [], silence := none }
        alarms := s.alarms.raise .attitudeInvalid .attitude s.runningTime } order := by
  simp only [State.attitudeSilent, ht, elapsed, decide_eq_true hdue, if_true, State.raiseAlarm,
    State.runningTime]

/-- Where neither axis has or had a permit, nothing is handed on. -/
theorem bothAxes_none (x : State) (order : Bool) :
    (if order = true then (x.axisHandOn .fold none none).axisHandOn .roll none none
      else (x.axisHandOn .roll none none).axisHandOn .fold none none) = x := by
  cases order <;> rfl

theorem att_of_onlyMotion {s t : State} (h : OnlyMotion s t) : t.att = s.att := by
  rw [h.rest]

/-- The axes are handed on from the state `x` in which the fractions are derived from the new readings. -/
theorem attitudeHandOn_from {y x : State} {a : Attitude} {al : AlarmList} (order : Bool)
    (hx : x = { y with att := State.deriveFractions { y with att := a }, alarms := al }) :
    State.attitudeHandOn { y with att := a, alarms := al } order =
      (if order = true then
        (x.axisHandOn .fold a.trim x.att.trim).axisHandOn .roll a.heel x.att.heel
      else (x.axisHandOn .roll a.heel x.att.heel).axisHandOn .fold a.trim x.att.trim) ∧
    OnlyMotion { y with att := x.att }
      (State.attitudeHandOn { y with att := a, alarms := al } order) ∧
    x.att = { a with heel := x.att.heel, trim := x.att.trim } ∧
    (State.attitudeHandOn { y with att := a, alarms := al } order).att = x.att ∧
    (a.window.length < 4 → (x.att.heel = none ∧ x.att.trim = none) ∧
      (a.heel = none → a.trim = none →
        State.attitudeHandOn { y with att := a, alarms := al } order = x)) := by
  have heq : State.attitudeHandOn { y with att := a, alarms := al } order =
      (if order = true then
        (x.axisHandOn .fold a.trim x.att.trim).axisHandOn .roll a.heel x.att.heel
      else (x.axisHandOn .roll a.heel x.att.heel).axisHandOn .fold a.trim x.att.trim) := by
    subst hx
    exact attitudeHandOn_eq _ order
  have hmotion := onlyMotion_bothAxes x order a.heel x.att.heel a.trim x.att.trim
  rw [← heq] at hmotion
  refine ⟨heq, ?_, ?_, att_of_onlyMotion hmotion, fun hshort => ?_⟩
  · have hstart : OnlyMotion { y with att := x.att } x := by
      subst hx
      exact ⟨rfl, rfl, rfl, rfl, rfl⟩
    exact hstart.trans hmotion
  · subst hx
    exact deriveFractions_window _
  · have hnone : x.att.heel = none ∧ x.att.trim = none := by
      subst hx
      exact deriveFractions_of_short (s := { y with att := a }) hshort
    refine ⟨hnone, fun hheel htrim => ?_⟩
    rw [heq, hheel, htrim, hnone.1, hnone.2]
    exact bothAxes_none x order

/-- Settles O37. -/
theorem acceptedReadingJoinsTheWindow : Obligations.AcceptedReadingJoinsTheWindow := by
  unfold Obligations.AcceptedReadingJoinsTheWindow
  refine ⟨?_, ?_, ?_, ?_⟩
  · intro s dt heel trim flags crc order a x hp hcrc hflag ha hx
    have hframe : (s.advance dt).attitudeFrame heel trim flags crc order =
        State.attitudeHandOn { s.advance dt with
          att := a
          alarms := if s.att.window.length = 3 then s.alarms.clear .attitudeInvalid .attitude
            else s.alarms } order := by
      have hnow : some (s.advance dt).now = some (s.now + dt) := congrArg some (advance_now hp dt)
      rw [attitudeFrame_of_accepted hcrc hflag, acceptReading_eq]
      dsimp only
      rw [hnow, ha]
      rfl
    have hheel : a.heel = s.att.heel := by rw [ha]
    have htrim : a.trim = s.att.trim := by rw [ha]
    obtain ⟨heq, hmotion, hatt, hkept, hshort⟩ := attitudeHandOn_from order hx
    rw [hheel, htrim] at heq hshort
    refine ⟨_, (exec_attitudeTelegram hp ..).trans (congrArg _ hframe), heq, hatt, hmotion,
      fun hlt => ?_⟩
    obtain ⟨⟨hh, ht⟩, hid⟩ := hshort hlt
    exact ⟨(congrArg Attitude.heel hkept).trans hh, (congrArg Attitude.trim hkept).trans ht, hid⟩
  · rintro s axis on hon
    obtain rfl : s.grantedOn axis = on := by
      subst hon
      cases axis
      · exact grantedOn_eq s .roll
      · exact grantedOn_eq s .fold
    refine ⟨rfl, fun _ => rfl, fun _ => rfl, fun p p' u hu => ?_⟩
    subst hu
    rfl
  · rintro s h p g new hr hg hh - rfl
    exact followOne_eq hg hh
  · intro g maxB free p d c clamped ht
    have htarget : g.target maxB p = (d, c, clamped) := ht.symm
    exact ⟨follow_of_less htarget, follow_of_more htarget⟩

/-- Settles O38. -/
theorem theAttitudeLineWithoutAReading : Obligations.TheAttitudeLineWithoutAReading := by
  unfold Obligations.TheAttitudeLineWithoutAReading
  intro s dt hp
  refine ⟨fun heel trim flags crc order hcrc => ?_, fun heel trim flags crc order hcrc hflag => ?_, ?_,
    fun order h => ?_, fun t0 order x ht hdue hx => ?_⟩
  · rw [exec_attitudeTelegram hp, attitudeFrame_of_badCrc hcrc]
    rfl
  · rw [exec_attitudeTelegram hp, attitudeFrame_of_invalid hcrc hflag]
    rfl
  · rw [exec_attitudeFramingError hp]
    rfl
  · rw [exec_attitudeSilence hp, attitudeSilent_of_early]
    rw [advance_now hp]
    exact h
  · have hsilent := attitudeSilent_of_due (s := s.advance dt) ht (by rw [advance_now hp]; exact hdue)
      order
    have hx' : x = { s.advance dt with
        att := State.deriveFractions { s.advance dt with
          att := { s.att with window := [], silence := none } }
        alarms := s.alarms.raise .attitudeInvalid .attitude (s.advance dt).runningTime } := by
      obtain ⟨hheel, htrim⟩ := deriveFractions_of_short
        (s := { s.advance dt with att := { s.att with window := [], silence := none } }) (by simp)
      rw [deriveFractions_window, hheel, htrim]
      exact hx
    have hatt : x.att = { s.att with window := [], silence := none, heel := none, trim := none } := by
      rw [hx]
    obtain ⟨heq, hmotion, -, hkept, hshort⟩ := attitudeHandOn_from order hx'
    obtain ⟨⟨hh, ht⟩, hid⟩ := hshort (by simp)
    rw [hh, ht] at heq
    rw [← hkept] at hmotion
    exact ⟨_, (exec_attitudeSilence hp ..).trans (congrArg _ hsilent), heq, hmotion,
      hkept.trans hatt, hid⟩

end Sys2Proof.Machine

/-! The pumps (R91 to R96): a start at a blocked head, the feedback, the ends of a start and a failure. -/

namespace Sys2Proof.Machine

theorem reached_iff {t : Option Nat} {now : Nat} : reached t now = true ↔ ∃ t0, t = some t0 ∧ t0 ≤ now := by
  cases t <;> simp [reached]

theorem updateKey_split {α : Type} {key : α → Nat} {l before after : List α} {p : α} (f : α → α)
    (hnd : (l.map key).Nodup) (hl : l = before ++ p :: after) :
    updateKey key (key p) f l = before ++ f p :: after := by
  subst hl
  rw [List.map_append, List.map_cons, List.nodup_middle, List.nodup_cons] at hnd
  obtain ⟨hnot, -⟩ := hnd
  have hkeep : ∀ l : List α, key p ∉ l.map key →
      (l.map fun x => if key x = key p then f x else x) = l := by
    intro l hl
    refine (List.map_congr_left fun x hx => if_neg fun he => hl ?_).trans (List.map_id' l)
    exact he ▸ List.mem_map_of_mem hx
  rw [List.mem_append, not_or] at hnot
  rw [updateKey_eq, List.map_append, List.map_cons, if_pos rfl, hkeep _ hnot.1, hkeep _ hnot.2]

/-! ### A failure (R94, R95) -/

theorem trips_failPump {s : State} {n : Nat} {p : Pump} (hp : s.pump? n = some p) :
    Trips s n p (s.failPump n) := by
  let failed := s.updPump n fun p => { p with st := .failed, deadline := none, settle := none }
  have hdrive := drivePump_eq failed n 0
  have hpump : ∀ k, (failed.drivePump n 0).pump? k = failed.pump? k := fun k => by
    rw [hdrive]
    rfl
  refine ⟨(failed.drivePump n 0).raiseAlarm .pumpFailed (.pump n), rfl, ?_, fun k hk => ?_, ?_, ?_,
    fun q hq => ⟨?_, fun a k hak => ?_⟩⟩
  · rw [hdrive]
    rfl
  · exact (hpump k).trans (pump?_updPump_ne s n k hk _ (by intro; rfl))
  · refine (hpump n).trans ((pump?_updPump_same s n _ (by intro; rfl)).trans ?_)
    rw [hp]
    rfl
  · exact (onlyMotion_drivePump failed n 0).nodes
  · exact outAt_drivePump_bound failed n hq
  · refine outAt_drivePump_other failed n 0 fun q' hq' => ?_
    obtain rfl : q = q' := Option.some.inj (hq.symm.trans hq')
    exact hak

section
variable {s : State} {n : Nat} {p : Pump} (hp : s.pump? n = some p)
include hp

theorem pumpFeedback_on_of_starting (hst : p.st = .starting) (hs : p.settle = none) :
    s.pumpFeedback n true =
      s.updPump n fun x => { x with deadline := none, settle := some (s.now + 3000) } := by
  simp only [State.pumpFeedback, hp, hst, hs, Option.isNone_none, if_true]

theorem pumpFeedback_off_of_starting (hst : p.st = .starting) (hs : p.settle = none) :
    s.pumpFeedback n false = s := by
  simp only [State.pumpFeedback, hp, hst, hs, Option.isSome_none, Bool.false_eq_true, if_false]

theorem pumpFeedback_of_settling (hst : p.st = .starting) (hs : p.settle ≠ none) :
    s.pumpFeedback n true = s ∧ s.pumpFeedback n false = s.failPump n := by
  obtain ⟨t, ht⟩ := Option.ne_none_iff_exists'.mp hs
  simp [State.pumpFeedback, hp, hst, ht]

theorem pumpFeedback_of_running (hst : p.st = .running) :
    s.pumpFeedback n true = s ∧ s.pumpFeedback n false = s.failPump n := by
  simp only [State.pumpFeedback, hp, hst, and_self]

theorem pumpFeedback_of_stopped (hst : p.st = .off ∨ p.st = .failed) (on : Bool) :
    s.pumpFeedback n on = s := by
  obtain hst | hst := hst <;> simp only [State.pumpFeedback, hp, hst]

theorem pumpNodeLost_of_stopped (hst : p.st = .off ∨ p.st = .failed) : s.pumpNodeLost n = s := by
  obtain hst | hst := hst <;> simp only [State.pumpNodeLost, hp, hst]

theorem pumpNodeLost_of_serving (hst : p.st = .starting ∨ p.st = .running) :
    s.pumpNodeLost n = s.failPump n := by
  obtain hst | hst := hst <;> simp only [State.pumpNodeLost, hp, hst]

theorem feedbackDeadline_of_due (hst : p.st = .starting) {t0 : Nat} (ht : p.deadline = some t0)
    (hdue : t0 ≤ s.now) : s.feedbackDeadline n = s.failPump n := by
  simp only [State.feedbackDeadline, hp]
  exact if_pos ⟨hst, reached_iff.mpr ⟨t0, ht, hdue⟩⟩

theorem feedbackDeadline_of_early (h : (∀ t ∈ p.deadline, s.now < t) ∨ p.st ≠ .starting) :
    s.feedbackDeadline n = s := by
  simp only [State.feedbackDeadline, hp]
  refine if_neg fun ⟨hst, hr⟩ => ?_
  obtain ⟨t0, ht, hdue⟩ := reached_iff.mp hr
  exact h.elim (fun h => Nat.not_lt.mpr hdue (h t0 ht)) (· hst)

theorem settleEnd_of_due (hst : p.st = .starting) {t0 : Nat} (ht : p.settle = some t0)
    (hdue : t0 ≤ s.now) : s.settleEnd n =
      (s.updPump n fun x => { x with st := .running, settle := none }).takeBudget := by
  simp only [State.settleEnd, hp]
  exact if_pos ⟨hst, reached_iff.mpr ⟨t0, ht, hdue⟩⟩

theorem settleEnd_of_early (h : (∀ t ∈ p.settle, s.now < t) ∨ p.st ≠ .starting) :
    s.settleEnd n = s := by
  simp only [State.settleEnd, hp]
  refine if_neg fun ⟨hst, hr⟩ => ?_
  obtain ⟨t0, ht, hdue⟩ := reached_iff.mp hr
  exact h.elim (fun h => Nat.not_lt.mpr hdue (h t0 ht)) (· hst)

end

section
variable {s : State} (hp : s.power = .running) (dt n : Nat)
include hp

theorem exec_feedbackDeadline : exec (.feedbackDeadline dt n) s =
    .next ((s.advance dt).feedbackDeadline n) :=
  congrArg _ (live_of_running hp ..)

theorem exec_settleEnd : exec (.settleEnd dt n) s = .next ((s.advance dt).settleEnd n) :=
  congrArg _ (live_of_running hp ..)

end

/-! ### A start (R91 to R93) -/

theorem startable_iff (s : State) (p : Pump) : s.startable p = true ↔ p.st = .off ∧
    ∃ o i, s.pumpPoint? .pumpRun p.num = some o ∧ s.pumpPoint? .pumpRunning p.num = some i ∧
      s.nodeOnline o.node = true ∧ s.nodeOnline i.node = true ∧ i.qual ≠ none := by
  unfold State.startable
  cases s.pumpPoint? .pumpRun p.num with
  | none => simp
  | some o =>
    cases s.pumpPoint? .pumpRunning p.num with
    | none => simp
    | some i =>
      simp only [Bool.and_eq_true, beq_iff_eq, Option.isSome_iff_ne_none, Option.some.injEq,
        exists_eq_left', exists_and_left, and_assoc]

theorem startPump_of_starting {s : State} (h : ∃ p ∈ s.pumps, p.st = .starting) :
    s.startPump = s := by
  refine if_pos (List.any_eq_true.mpr ?_)
  obtain ⟨p, hp, hst⟩ := h
  exact ⟨p, hp, beq_iff_eq.mpr hst⟩

theorem startPump_of_none_startable {s : State} (h : ∀ p ∈ s.pumps, s.startable p = false) :
    s.startPump = s := by
  have hnone : s.pumps.find? s.startable = none :=
    List.find?_eq_none.mpr fun p hp => Bool.eq_false_iff.mp (h p hp)
  unfold State.startPump
  split
  · rfl
  · rw [hnone]

theorem startPump_of_first {s : State} {before after : List Pump} {p : Pump} {o i : Point}
    (hnd : (s.pumps.map Pump.num).Nodup) (hidle : ∀ q ∈ s.pumps, q.st ≠ .starting)
    (hl : s.pumps = before ++ p :: after) (hbefore : ∀ q ∈ before, s.startable q = false)
    (hp : s.startable p = true) (hi : s.pumpPoint? .pumpRunning p.num = some i)
    (ho : s.pumpPoint? .pumpRun p.num = some o) :
    s.startPump = { s with
      pumps := before ++ { p with
        st := .starting
        deadline := if i.qual = some true then none else some (s.now + 10000)
        settle := if i.qual = some true then some (s.now + 3000) else none } :: after
      nodes := s.nodes.map fun n =>
        if n.addr = o.node then { n with outs := n.outs.set o.point 100 } else n } := by
  have hany : ¬(s.pumps.any fun p => p.st == .starting) = true := fun h => by
    obtain ⟨q, hq, hst⟩ := List.any_eq_true.mp h
    exact hidle q hq (beq_iff_eq.mp hst)
  have hfirst : s.pumps.find? s.startable = some p := by
    rw [hl, List.find?_append, List.find?_eq_none.mpr fun q hq => Bool.eq_false_iff.mp (hbefore q hq),
      List.find?_cons, hp]
    rfl
  have hrun : (s.pumpRunning p.num == some true) = true ↔ i.qual = some true := by
    simp only [State.pumpRunning, hi, beq_iff_eq]
  rw [State.startPump, if_neg hany, hfirst]
  simp only [hrun, State.drivePump, State.pumpPoint?, State.updPump] at ho ⊢
  simp only [ho, State.setOut, State.updNode]
  rw [updateKey_split _ hnd hl, updateKey_eq]

/-- Settles O34. -/
theorem pumpStartEnds : Obligations.PumpStartEnds := by
  unfold Obligations.PumpStartEnds
  refine ⟨fun s dt n t0 p hp hpump hst hdue => ?_, fun s dt n p hp hpump => ?_, startable_iff,
    fun s hnd => ⟨?_, fun before p after i hidle hl hbefore hstart hi => ?_⟩,
    fun s n p hp => ⟨fun hst hs => ?_, ?_, fun hst => ?_, fun hst => ?_⟩⟩
  · have hnow := advance_now hp dt
    refine ⟨fun hd => ?_, fun hd => ?_⟩
    · obtain ⟨u, hu, hrest⟩ := trips_failPump (s := s.advance dt) hpump
      rw [exec_feedbackDeadline hp,
        feedbackDeadline_of_due (s := s.advance dt) hpump hst hd (hnow ▸ hdue), hu]
      exact ⟨u, rfl, hrest⟩
    · rw [exec_settleEnd hp, settleEnd_of_due (s := s.advance dt) hpump hst hd (hnow ▸ hdue)]
      refine ⟨_, rfl, rfl, fun k hk => ?_, ?_⟩
      · exact pump?_updPump_ne (s.advance dt) n k hk _ (by intro; rfl)
      · refine (pump?_updPump_same (s.advance dt) n _ (by intro; rfl)).trans ?_
        exact congrArg (Option.map _) hpump
  · have hnow := advance_now hp dt
    refine ⟨fun h => ?_, fun h => ?_⟩
    · rw [exec_feedbackDeadline hp, feedbackDeadline_of_early (s := s.advance dt) hpump (hnow ▸ h)]
    · rw [exec_settleEnd hp, settleEnd_of_early (s := s.advance dt) hpump (hnow ▸ h)]
  · exact fun h => h.elim startPump_of_starting startPump_of_none_startable
  · obtain ⟨-, o, -, ho, -⟩ := (startable_iff s p).mp hstart
    rw [startPump_of_first hnd hidle hl hbefore hstart hi ho]
    simp only [ho]
  · refine ⟨pumpFeedback_off_of_starting hp hst hs, _, pumpFeedback_on_of_starting hp hst hs, rfl,
      fun k hk => ?_, ?_⟩
    · exact pump?_updPump_ne s n k hk _ (by intro; rfl)
    · exact (pump?_updPump_same s n _ (by intro; rfl)).trans (congrArg (Option.map _) hp)
  · rintro (⟨hst, hs⟩ | hst)
    · obtain ⟨hon, hoff⟩ := pumpFeedback_of_settling hp hst hs
      exact ⟨hon, hoff ▸ trips_failPump hp⟩
    · obtain ⟨hon, hoff⟩ := pumpFeedback_of_running hp hst
      exact ⟨hon, hoff ▸ trips_failPump hp⟩
  · exact ⟨pumpFeedback_of_stopped hp hst, pumpNodeLost_of_stopped hp hst⟩
  · exact pumpNodeLost_of_serving hp hst ▸ trips_failPump hp

end Sys2Proof.Machine

/-! The Qualifier: the debounce (R32 to R36). -/

namespace Sys2Proof.Machine

/-- The panel and cleat inputs are the roles up to code 7 (R31). -/
theorem panelOrCleat_iff (r : Role) : (r.isPanelInput || r.isCleatInput) = true ↔ r.code ≤ 7 := by
  rw [Bool.or_eq_true, Role.isPanelInput, Role.isCleatInput, Bool.and_eq_true, decide_eq_true_iff,
    decide_eq_true_iff, decide_eq_true_iff]
  omega

theorem isInput_iff (r : Role) : r.isInput = true ↔ r.code ≤ 12 := decide_eq_true_iff

theorem cfgScans_eq (c : Items) (r : Role) : cfgScans c r = (itemNat c 18
    (if 3 ≤ r.code ∧ r.code ≤ 7 then 1 else if r.code ≤ 2 then 2 else 3) + 19) / 20 := by
  simp only [cfgScans, Role.isPanelInput, Role.isCleatInput, Bool.and_eq_true, decide_eq_true_iff]

theorem scansFor_eq {s : State} {r : Role} {ms : Nat}
    (hsome : ∀ c, s.inForce = some c → ms = itemNat c 18
      (if 3 ≤ r.code ∧ r.code ≤ 7 then 1 else if r.code ≤ 2 then 2 else 3))
    (hnone : s.inForce = none → ms = 20) : s.scansFor r = (ms + 19) / 20 := by
  unfold State.scansFor
  cases hc : s.inForce with
  | none => rw [hnone hc]
  | some c =>
    rw [hsome c hc]
    exact cfgScans_eq c r

theorem updInput_eq (s : State) (a k : Nat) (f : Point → Point) : s.updInput a k f =
    { s with points := s.points.map fun r =>
      if r.node = a ∧ r.point = k ∧ r.role.code ≤ 12 then f r else r } := by
  simp only [State.updInput, isInput_iff]

/-- A qualified change goes to the block that owns the role (R36). -/
theorem handOn_eq (s : State) (p : Point) (v : Bool) : s.handOn p v =
    if p.role.code ≤ 7 then s.hatchEvent p.subject
    else if p.role = .pumpRunning then s.pumpFeedback p.subject v
    else s.rederiveBand := by
  simp only [State.handOn, panelOrCleat_iff]

theorem chatterSubject_eq (p : Point) : p.chatterSubject =
    if p.role.code ≤ 7 then .hatch p.subject else .powerPack := by
  simp only [Point.chatterSubject, panelOrCleat_iff]

theorem chatterReached_eq_false_iff (s : State) (sub : Subject) : s.chatterReached sub = false ↔
    ∀ r ∈ s.points, r.role.code ≤ 12 → r.role ≠ .hatchPressure → r.chatterSubject = sub →
      r.chatter < 50 := by
  simp only [State.chatterReached, List.any_eq_false, Bool.and_eq_true, isInput_iff, bne_iff_ne,
    beq_iff_eq, decide_eq_true_iff, not_and, not_le, and_imp]

/-- The chatter alarm of a point (R35). -/
theorem noteChatter_eq (s : State) (p : Point) : s.noteChatter p =
    if p.chatter = 49 ∧ ∀ r ∈ s.points, r.role.code ≤ 12 → r.role ≠ .hatchPressure →
        r.chatterSubject = p.chatterSubject → r.chatter < 50 then
      s.raiseAlarm .sensorChatter p.chatterSubject
    else s := by
  simp only [State.noteChatter, chatterReached_eq_false_iff]

section
variable {s : State} {p q : Point} {v qualified chattered : Bool}
  (hq : p.debounce (s.scansFor p.role) s.scan.no v = (q, qualified, chattered))
include hq

theorem sampleDebounced_of_qualified (h : qualified = true) : s.sampleDebounced p v =
    (s.updInput p.node p.point fun _ => q).handOn q v := by
  simp only [State.sampleDebounced, hq, h, if_true]

theorem sampleDebounced_of_chattered (h : qualified = false) (hc : chattered = true) :
    s.sampleDebounced p v = (s.noteChatter p).updInput p.node p.point fun _ => q := by
  simp only [State.sampleDebounced, hq, h, hc, Bool.false_eq_true, if_false, if_true]

theorem sampleDebounced_of_quiet (h : qualified = false) (hc : chattered = false) :
    s.sampleDebounced p v = s.updInput p.node p.point fun _ => q := by
  simp only [State.sampleDebounced, hq, h, hc, Bool.false_eq_true, if_false]

theorem role_of_debounce : q.role = p.role ∧ q.subject = p.subject := by
  have hcore := debounce_core p (s.scansFor p.role) s.scan.no v
  rw [hq] at hcore
  exact ⟨congrArg Prod.fst hcore, congrArg (fun c => c.2.1) hcore⟩

end

/-- Settles O43. -/
theorem debounceFollowsTheTables : Obligations.DebounceFollowsTheTables := by
  unfold Obligations.DebounceFollowsTheTables
  refine ⟨fun s x p q v qualified chattered ms hsome hnone hq hx => ?_, fun p n no first v => ?_⟩
  · rw [← scansFor_eq hsome hnone] at hq
    have hput := updInput_eq s p.node p.point fun _ => q
    rw [← hx] at hput
    obtain ⟨hrole, hsubject⟩ := role_of_debounce hq.symm
    refine ⟨fun h => ?_, fun h hc => ?_, fun h hc => ?_⟩
    · rw [sampleDebounced_of_qualified hq.symm h, hput, handOn_eq, hrole, hsubject]
    · rw [sampleDebounced_of_chattered hq.symm h hc, noteChatter_eq]
      simp only [chatterSubject_eq]
      by_cases h49 : p.chatter = 49 ∧ ∀ r ∈ s.points, r.role.code ≤ 12 → r.role ≠ .hatchPressure →
          (if r.role.code ≤ 7 then Subject.hatch r.subject else .powerPack) =
            (if p.role.code ≤ 7 then .hatch p.subject else .powerPack) → r.chatter < 50
      · rw [if_pos h49, if_pos h49, updInput_eq, hx]
        rfl
      · rw [if_neg h49, if_neg h49]
        exact hput
    · exact (sampleDebounced_of_quiet hq.symm h hc).trans hput
  · have hne : v ≠ !v := by cases v <;> decide
    refine ⟨fun hq hp => ?_, fun hq hp => ?_, fun hq hp h => ?_, fun hq hp h => ?_, fun hq hp => ?_,
      fun hq hp => ?_, fun hq hp h => ?_, fun hq hp h => ?_, fun hq hp => ?_⟩
    · simp only [Point.debounce, hq, hp, if_true]
    · simp only [Point.debounce, hq, hp, if_neg hne]
    · simp only [Point.debounce, hq, hp, if_neg hne, if_neg (Nat.not_le.mpr h)]
    · simp only [Point.debounce, hq, hp, if_neg hne, if_pos h]
    · simp only [Point.debounce, hq, hp, if_true]
    · simp only [Point.debounce, hq, hp]
    · simp only [Point.debounce, hq, hp, if_true, if_pos h]
    · simp only [Point.debounce, hq, hp, if_true, if_neg (Nat.not_le.mpr h)]
    · simp only [Point.debounce, hq, hp, if_neg hne]

end Sys2Proof.Machine

/-! The hatch pressure: the classifier (R39, R40), a STALL (R60) and the pressure watch (R61). -/

namespace Sys2Proof.Machine

/-! ### A STALL of a MOVING step (R60) -/

/-- What the Engine has done at the `n`-th stall of a step, counted from 0, before it evaluates. -/
def State.stalledOp (s : State) (h n : Nat) : State :=
  ((s.haltOp h (if n < 2 then .paused else .faulted) (some (if n < 2 then .stall else .fault))
      (if n < 2 then none else some .jammed)).updOp h fun x =>
    { x with stalls := n + 1, watch := some s.now }).raiseAlarm
      (if n < 2 then .stall else .jammed) (.hatch h)

section
variable {s : State} {h : Nat} {o : Op} (ho : s.op? h = some o) (hst : o.st = .moving)
include ho hst

theorem takeStall_of_moving : s.takeStall h = (s.stalledOp h o.stalls).evaluate := by
  simp only [State.takeStall, ho, if_pos hst, State.stalledOp, State.pauseOp, State.faultOp]
  have hiff : o.stalls + 1 < 3 ↔ o.stalls < 2 := by omega
  by_cases hlt : o.stalls < 2
  · simp only [hiff.mpr hlt, hlt, if_true]
  · simp only [hiff.not.mpr hlt, hlt, if_false]

theorem op?_stalledOp (n : Nat) : (s.stalledOp h n).op? h = some { o with
    st := if n < 2 then .paused else .faulted
    start := none
    halt := some (if n < 2 then .stall else .fault)
    fault := if n < 2 then none else some .jammed
    hold := none
    stalls := n + 1
    watch := some s.now } := by
  refine (op?_updOp_same _ h _ (by intro; rfl)).trans ?_
  rw [op?_haltOp_same ho _ _ _ (.inr hst)]
  rfl

theorem grant?_stalledOp (n : Nat) : (s.stalledOp h n).grant? h = none :=
  grant?_haltOp ho _ _ _ hst

theorem haltShut_stalledOp (n : Nat) : HaltShut s (s.stalledOp h n) h o :=
  (haltShut_haltOp ho _ _ _ (.inr hst)).of_nodes rfl

end

section
variable (s : State) (h n : Nat)

theorem alarms_stalledOp : (s.stalledOp h n).alarms =
    s.alarms.raise (if n < 2 then .stall else .jammed) (.hatch h) s.runningTime := by
  rw [State.stalledOp, State.raiseAlarm, haltOp_keeps]
  rfl

theorem onlyMotion_stalledOp : OnlyMotion s (s.stalledOp h n) :=
  ((onlyMotion_haltOp ..).updOp _ _ (by intros; rfl)).trans (onlyMotion_raiseAlarm ..)

theorem sameOther_stalledOp : SameOtherHatches s h (s.stalledOp h n) :=
  ((sameOther_haltOp ..).trans (sameOther_updOp _ _ _ (by intros; rfl))).trans
    (sameOther_raiseAlarm ..)

end

/-! ### A sample of the hatch pressure (R38 to R40) -/

theorem rejectsSpikes_eq (s : State) (h : Nat) : s.rejectsSpikes h =
    match s.inForce with | some i => decide (itemNat i 4 h = 1) | none => true := by
  unfold State.rejectsSpikes
  cases s.inForce <;> rfl

/-- The state after a sample has become the level of its point and a low level has stopped the watch. -/
theorem sampled_eq {s x : State} {p : Point} {high : Bool} (hx : x = { s with
      points := s.points.map fun q =>
        if q.node = p.node ∧ q.point = p.point ∧ q.role.code ≤ 12 then
          { q with qual := some high, stale := false }
        else q
      ops := s.ops.map fun o =>
        if o.hatch = p.subject ∧ high = false then { o with watch := none } else o }) :
    (if high then s.updInput p.node p.point fun q => { q with qual := some high, stale := false }
      else (s.updInput p.node p.point fun q => { q with qual := some high, stale := false }).updOp
        p.subject fun o => { o with watch := none }) = x := by
  cases high with
  | true => simp [hx, updInput_eq]
  | false => simp [hx, updInput_eq, State.updOp, updateKey_eq]

section
variable {s x : State} {p : Point} {high : Bool}
  (hx : (if high then s.updInput p.node p.point fun q => { q with qual := some high, stale := false }
      else (s.updInput p.node p.point fun q => { q with qual := some high, stale := false }).updOp
        p.subject fun o => { o with watch := none }) = x)
  (hhatches : x.hatches = s.hatches)
include hx hhatches

theorem samplePressure_of_none (hh : s.hatch? p.subject = none) : s.samplePressure p high = x := by
  have hh' : x.hatch? p.subject = none := by
    rw [State.hatch?, hhatches]
    exact hh
  simp only [State.samplePressure, hx, hh']

theorem samplePressure_of_hatch {hr : Hatch} {c : Classifier} {heavy stall : Bool}
    (hh : s.hatch? p.subject = some hr)
    (hsample : hr.classifier.sample s.scan.no (s.rejectsSpikes p.subject) high = (c, heavy, stall)) :
    s.samplePressure p high =
      let y := x.updHatch p.subject fun r =>
        { r with classifier := c, heavy := if heavy then inc16 r.heavy else r.heavy }
      if stall then y.takeStall p.subject else y := by
  have hh' : x.hatch? p.subject = some hr := by
    rw [State.hatch?, hhatches]
    exact hh
  simp only [State.samplePressure, hx, hh', hsample]

end

/-- Settles O29. -/
theorem pressureSamplesFollowTheTables : Obligations.PressureSamplesFollowTheTables := by
  unfold Obligations.PressureSamplesFollowTheTables
  refine ⟨fun no first reject high => ⟨rfl, rfl, rfl, rfl, ?_⟩, fun s x p high hx => ?_,
    fun s h o ho hst => ⟨_, takeStall_of_moving ho hst, onlyMotion_stalledOp .., sameOther_stalledOp ..,
      grant?_stalledOp ho hst _, haltShut_stalledOp ho hst _, alarms_stalledOp ..,
      op?_stalledOp ho hst _⟩⟩
  · simp only [Classifier.sample]
    cases high with
    | true =>
      by_cases hlt : 20 * (no - first) < 1200
      · simp [hlt, Nat.not_le.mpr hlt]
      · simp [hlt, Nat.not_lt.mp hlt]
    | false =>
      by_cases hlt : 20 * (no - first) < 200 <;> simp [hlt]
  · have hsampled := sampled_eq hx
    have hhatches : x.hatches = s.hatches := by rw [hx]
    refine ⟨samplePressure_of_none hsampled hhatches, fun hr c heavy stall y hh hc hy => ?_⟩
    have hc' : hr.classifier.sample s.scan.no (s.rejectsSpikes p.subject) high = (c, heavy, stall) := by
      rw [rejectsSpikes_eq]
      exact hc.symm
    rw [samplePressure_of_hatch hsampled hhatches hh hc']
    have hput : (x.updHatch p.subject fun r =>
        { r with classifier := c, heavy := if heavy then inc16 r.heavy else r.heavy }) = y := by
      rw [State.updHatch, updateKey_eq, hhatches, hy]
    simp only [hput]

/-! ### The pressure watch (R61) -/

/-- The watch of a hatch has stopped with PRESSURE_STUCK raised. -/
def State.watchEnded (s : State) (h : Nat) : State :=
  (s.raiseAlarm .pressureStuck (.hatch h)).updOp h fun x => { x with watch := none }

section
variable {s : State} {h : Nat} {o : Op} (ho : s.op? h = some o)
include ho

theorem watchExpiry_of_early (he : ∀ t ∈ o.watch, s.now < t + 5000) : s.watchExpiry h = s := by
  have hnot : elapsed o.watch 5000 s.now = false := by
    cases ht : o.watch with
    | none => rfl
    | some t => exact decide_eq_false (Nat.not_le.mpr (he t ht))
  simp only [State.watchExpiry, ho, hnot, Bool.false_eq_true, if_false]

variable {t0 : Nat} (ht : o.watch = some t0) (hdue : t0 + 5000 ≤ s.now)
include ht hdue

theorem watchExpiry_of_resting (hst : o.st = .idle ∨ o.st = .paused) :
    s.watchExpiry h = (s.watchEnded h).updOp h fun y =>
      { y with st := .faulted, halt := some .fault, fault := some .pressureStuck, hold := none } := by
  obtain hst | hst := hst <;>
    simp only [State.watchExpiry, ho, ht, elapsed, decide_eq_true hdue, if_true, hst,
      State.watchEnded]

theorem watchExpiry_of_faulted (hst : o.st = .faulted) : s.watchExpiry h = s.watchEnded h := by
  simp only [State.watchExpiry, ho, ht, elapsed, decide_eq_true hdue, if_true, hst,
    State.watchEnded]

theorem watchExpiry_of_queued (hst : o.st = .queued) : s.watchExpiry h =
    ((s.watchEnded h).faultOp h .pressureStuck).evaluate := by
  simp only [State.watchExpiry, ho, ht, elapsed, decide_eq_true hdue, if_true, hst,
    State.watchEnded]

end

theorem op?_watchEnded {s : State} {h : Nat} {o : Op} (ho : s.op? h = some o) :
    (s.watchEnded h).op? h = some { o with watch := none } :=
  (op?_updOp_same (s.raiseAlarm .pressureStuck (.hatch h)) h _ (by intro; rfl)).trans
    (congrArg (Option.map _) ho)

theorem sameOther_watchEnded (s : State) (h : Nat) : SameOtherHatches s h (s.watchEnded h) :=
  (sameOther_raiseAlarm ..).trans (sameOther_updOp _ _ _ (by intros; rfl))

theorem exec_pressureWatchExpiry {s : State} (hp : s.power = .running) (dt h : Nat) :
    exec (.pressureWatchExpiry dt h) s = .next ((s.advance dt).watchExpiry h) :=
  congrArg _ (live_of_running hp ..)

/-- Settles O30. -/
theorem pressureWatchExpiry : Obligations.PressureWatchExpiry := by
  unfold Obligations.PressureWatchExpiry
  refine ⟨fun s dt h t0 o hp ho ht hdue => ⟨fun hst => ?_, fun hst => ?_⟩,
    fun s dt h o hp ho hearly => ?_⟩
  · have hdue' : t0 + 5000 ≤ (s.advance dt).now := (advance_now hp dt).symm ▸ hdue
    have hended := op?_watchEnded (s := s.advance dt) ho
    have hother := sameOther_watchEnded (s.advance dt) h
    by_cases hf : o.st = .faulted
    · refine ⟨_, (exec_pressureWatchExpiry hp dt h).trans (congrArg _
        (watchExpiry_of_faulted (s := s.advance dt) ho ht hdue' hf)), rfl, hother.of_advance.op, ?_⟩
      rw [hended, if_pos hf]
    · have hrest : o.st = .idle ∨ o.st = .paused := by tauto
      refine ⟨_, (exec_pressureWatchExpiry hp dt h).trans (congrArg _
        (watchExpiry_of_resting (s := s.advance dt) ho ht hdue' hrest)), rfl, ?_, ?_⟩
      · exact (hother.trans (sameOther_updOp _ _ _ (by intros; rfl))).of_advance.op
      · refine (op?_updOp_same _ h _ (by intro; rfl)).trans ?_
        rw [hended, if_neg hf]
        rfl
  · have hdue' : t0 + 5000 ≤ (s.advance dt).now := (advance_now hp dt).symm ▸ hdue
    have hended := op?_watchEnded (s := s.advance dt) ho
    refine ⟨_, (exec_pressureWatchExpiry hp dt h).trans (congrArg _
      (watchExpiry_of_queued (s := s.advance dt) ho ht hdue' hst)), ?_, ?_, ?_, ?_, ?_⟩
    · exact ((onlyMotion_raiseAlarm ..).updOp _ _ (by intros; rfl)).trans (onlyMotion_faultOp ..)
    · exact ((sameOther_watchEnded ..).trans (sameOther_faultOp ..)).of_advance
    · exact alarms_haltOp ..
    · exact entry?_haltOp hended _ _ _ hst
    · exact op?_haltOp_same hended _ _ _ (.inl hst)
  · rw [exec_pressureWatchExpiry hp]
    refine congrArg _ (watchExpiry_of_early (s := s.advance dt) ho ?_)
    rw [advance_now hp]
    exact hearly

end Sys2Proof.Machine

/-! The evaluation leaves a hatch without an entry as it is, and B and MaxB as they are (R82 to R84). -/

namespace Sys2Proof.Machine

/-! ### B and MaxB -/

/-- B and MaxB of `s` stand in `t`. -/
structure SameBudget (s t : State) : Prop where
  budget : t.budget = s.budget
  maxB : t.maxB = s.maxB

theorem SameBudget.refl (s : State) : SameBudget s s := ⟨rfl, rfl⟩

theorem SameBudget.trans {s t u : State} (h : SameBudget s t) (k : SameBudget t u) :
    SameBudget s u :=
  ⟨k.budget.trans h.budget, k.maxB.trans h.maxB⟩

theorem sameBudget_setAlarm (s : State) (b : Bool) (c : AlarmCode) (sub : Subject) :
    SameBudget s (s.setAlarm b c sub) := by
  cases b
  · exact ⟨rfl, rfl⟩
  · exact ⟨rfl, rfl⟩

theorem sameBudget_refresh (s : State) (h : Nat) : SameBudget s (s.refresh h) := by
  unfold State.refresh
  split
  · exact .refl s
  · next old hold =>
    dsimp only
    have hrecord : SameBudget s (s.updHatch h fun _ => s.deriveHatch old) := ⟨rfl, rfl⟩
    split <;> split
    · exact hrecord.trans (sameBudget_setAlarm ..)
    · exact (hrecord.trans (sameBudget_setAlarm ..)).trans (sameBudget_setAlarm ..)
    · exact hrecord
    · exact hrecord.trans (sameBudget_setAlarm ..)

theorem sameBudget_haltOp (s : State) (h : Nat) (st : OpState) (r : Option HaltReason)
    (f : Option FaultKind) : SameBudget s (s.haltOp h st r f) := by
  rw [haltOp_keeps]
  exact ⟨rfl, rfl⟩

theorem sameBudget_offerFrom (s : State) (hr : Hatch) (closing : Bool) (prog : List Step) :
    SameBudget s (s.offerFrom hr closing prog) := by
  induction prog with
  | nil => exact ⟨rfl, rfl⟩
  | cons st rest ih =>
    unfold State.offerFrom
    split
    · exact ih
    · dsimp only
      split
      · exact ⟨rfl, rfl⟩
      · split
        · exact ⟨rfl, rfl⟩
        · exact ⟨rfl, rfl⟩

theorem sameBudget_testTarget (s : State) (h : Nat) : SameBudget s (s.testTarget h) := by
  have hcomplete : SameBudget s (s.complete h) := by
    unfold State.complete
    split
    · next o hr ho hh =>
      have hend : SameBudget s (s.endMotion o) := by
        rw [endMotion_keeps]
        exact ⟨rfl, rfl⟩
      exact hend.trans (sameBudget_offerFrom ..)
    · exact .refl s
  unfold State.testTarget
  split
  · split
    · split
      · exact hcomplete
      · exact .refl s
    · exact .refl s
  · exact .refl s

theorem sameBudget_recordDirection (s : State) (h : Nat) (st : Step) :
    SameBudget s (s.recordDirection h st) := by
  unfold State.recordDirection
  split
  · exact .refl s
  · refine SameBudget.trans ?_ (sameBudget_refresh ..)
    exact ⟨rfl, rfl⟩

theorem sameBudget_openValves (s : State) (hr : Hatch) (st : Step) (v : Nat) :
    SameBudget s (s.openValves hr st v) := by
  rw [openValves_eq]
  exact ⟨rfl, rfl⟩

theorem sameBudget_takeGrant (s : State) (g : Grant) : SameBudget s (s.takeGrant g) := by
  unfold State.takeGrant
  split
  · exact .refl s
  · next hr hh =>
    dsimp only
    let begun := (s.updOp g.hatch fun o =>
      { o with st := .moving, start := some s.now, watch := none }).clearAlarm .stall (.hatch g.hatch)
    have hbegun : SameBudget s begun := ⟨rfl, rfl⟩
    have hdirected := (hbegun.trans (sameBudget_openValves begun hr g.step g.setpoint)).trans
      (sameBudget_recordDirection _ g.hatch g.step)
    have hclass : SameBudget s (((begun.openValves hr g.step g.setpoint).recordDirection g.hatch
        g.step).classifierStart g.hatch) := hdirected.trans ⟨rfl, rfl⟩
    exact hclass.trans (sameBudget_testTarget ..)

/-! ### A hatch that nothing touches -/

/-- All records of hatch `h` are as they were, and so are B and MaxB. -/
structure Untouched (s : State) (h : Nat) (t : State) : Prop where
  op : t.op? h = s.op? h
  hatch : t.hatch? h = s.hatch? h
  claim : t.claim? h = s.claim? h
  grant : t.grant? h = s.grant? h
  entry : t.entry? h = s.entry? h
  flow : SameBudget s t

theorem Untouched.refl (s : State) (h : Nat) : Untouched s h s :=
  ⟨rfl, rfl, rfl, rfl, rfl, .refl s⟩

theorem Untouched.trans {s t u : State} {h : Nat} (a : Untouched s h t) (b : Untouched t h u) :
    Untouched s h u :=
  ⟨b.op.trans a.op, b.hatch.trans a.hatch, b.claim.trans a.claim, b.grant.trans a.grant,
    b.entry.trans a.entry, a.flow.trans b.flow⟩

theorem SameOtherHatches.untouched {s t : State} {k h : Nat} (hs : SameOtherHatches s k t)
    (hk : k ≠ h) (hb : SameBudget s t) : Untouched s h t :=
  ⟨hs.op h hk.symm, hs.hatch h hk.symm, hs.claim h hk.symm, hs.grant h hk.symm, hs.entry h hk.symm, hb⟩

theorem entry?_eq_none_iff {s : State} {h : Nat} :
    s.entry? h = none ↔ ∀ e ∈ s.queue, e.hatch ≠ h := by
  simp [State.entry?, findKey, List.find?_eq_none]

section
variable {s : State} {h : Nat}

theorem untouched_visitEntry {e : Entry} (he : e.hatch ≠ h) : Untouched s h (s.visitEntry e) := by
  unfold State.visitEntry
  split
  · exact (sameOther_pauseOp ..).untouched he (sameBudget_haltOp ..)
  · exact (sameOther_pauseOp ..).untouched he (sameBudget_haltOp ..)
  · exact (sameOther_noteEntry ..).untouched he ⟨rfl, rfl⟩

theorem untouched_removalPass (hh : s.entry? h = none) : Untouched s h s.removalPass := by
  suffices hall : ∀ (q : List Entry) (x : State), (∀ e ∈ q, e.hatch ≠ h) →
      Untouched x h (q.foldl State.visitEntry x) from hall s.queue s (entry?_eq_none_iff.mp hh)
  intro q
  induction q with
  | nil => exact fun x _ => .refl x h
  | cons e q ih =>
    intro x hq
    exact (untouched_visitEntry (hq e List.mem_cons_self)).trans
      (ih _ fun e' he' => hq e' (List.mem_cons_of_mem e he'))

/-- The step from the queue into the granted set. -/
theorem untouched_regrant {g : Grant} (hg : g.hatch ≠ h) : Untouched s h { s with
    queue := s.queue.filter fun x => x.hatch != g.hatch, granted := s.granted ++ [g] } where
  op := rfl
  hatch := rfl
  claim := rfl
  flow := ⟨rfl, rfl⟩
  grant := by
    have hnot : findKey Grant.hatch h [g] = none := by simp [findKey, hg]
    simp only [State.grant?, findKey, List.find?_append] at hnot ⊢
    rw [hnot, Option.or_none]
  entry := find_filter_ne Entry.hatch g.hatch h hg.symm s.queue

theorem untouched_grantHead {e : Entry} (he : e.hatch ≠ h) (d speed : Nat) (clamped : Bool) :
    Untouched s h (s.grantHead e d speed clamped) :=
  (untouched_regrant (g := ⟨e.hatch, e.step, e.closing, e.time, s.qStep e.hatch e.step, d, speed,
    speed, clamped⟩) he).trans
    ((sameOther_takeGrant ..).untouched he (sameBudget_takeGrant ..))

theorem untouched_startPump : Untouched s h s.startPump := by
  have hs := sameOther_startPump s (h + 1)
  refine hs.untouched (Nat.succ_ne_self h) ?_
  rw [startPump_eq]
  exact ⟨rfl, rfl⟩

theorem untouched_evalLoop (n : Nat) (hh : s.entry? h = none) : Untouched s h (State.evalLoop n s) := by
  induction n generalizing s with
  | zero => exact .refl s h
  | succ n ih =>
    have hpass := untouched_removalPass hh
    have hnone : s.removalPass.entry? h = none := hpass.entry.trans hh
    unfold State.evalLoop
    dsimp only
    split
    · exact hpass
    · next e rest hq =>
      have he : e.hatch ≠ h := entry?_eq_none_iff.mp hnone e (by simp [hq])
      split
      · next d speed clamped hoffer =>
        split
        · have hgrant := hpass.trans (untouched_grantHead he d speed clamped)
          exact hgrant.trans (ih (hgrant.entry.trans hh))
        · exact (hpass.trans ((sameOther_noteEntry ..).untouched he ⟨rfl, rfl⟩)).trans
            untouched_startPump
      · exact hpass

end

/-- Settles O26, by induction on the rounds of the evaluation. -/
theorem evaluationLeavesUnqueuedHatches : Obligations.EvaluationLeavesUnqueuedHatches := by
  unfold Obligations.EvaluationLeavesUnqueuedHatches
  intro s h hh
  have hall := untouched_evalLoop s.evalRounds hh
  exact ⟨hall.op, hall.hatch, hall.claim, hall.grant, hall.entry.trans hh, hall.flow.budget,
    hall.flow.maxB, onlyMotion_evaluate s⟩

end Sys2Proof.Machine

/-! The emergency stop (R68, R90, R99, R140, R141): what the abort of a list of hatches makes of the records,
and the stop as a whole. -/

namespace Sys2Proof.Machine

/-! ### The abort of one hatch -/

/-- The record of an operation after its abort (R68). -/
def Op.aborted (o : Op) : Op :=
  if o.st = .faulted then { o with prog := [] } else if o.st = .idle then o else o.cleared

/-- A claim record after the abort of an operation at work: the idle timer of a held hatch begins. -/
def Claim.run (c : Claim) (now : Nat) : Claim :=
  if c.holder.isSome then { c with idle := some now } else c

/-- The operation of the hatch is at work. -/
def State.worksAt (s : State) (h : Nat) : Bool :=
  s.opState h == .queued || s.opState h == .moving || s.opState h == .paused

theorem updateKey_updateKey {α : Type} {key : α → Nat} {n : Nat} {f g : α → α}
    (hg : ∀ x, key (g x) = key x) (l : List α) :
    updateKey key n f (updateKey key n g l) = updateKey key n (f ∘ g) l := by
  simp only [updateKey_eq, List.map_map]
  refine List.map_congr_left fun x _ => ?_
  by_cases hx : key x = n <;> simp [hx, hg]

theorem Op.aborted_hatch (o : Op) : o.aborted.hatch = o.hatch := by
  unfold Op.aborted
  split_ifs <;> rfl

theorem Op.aborted_aborted (o : Op) : o.aborted.aborted = o.aborted := by
  by_cases hf : o.st = .faulted
  · simp [Op.aborted, hf]
  · by_cases hi : o.st = .idle
    · simp [Op.aborted, hi]
    · simp [Op.aborted, hf, hi, Op.cleared]

theorem Claim.run_hatch (c : Claim) (now : Nat) : (c.run now).hatch = c.hatch := by
  unfold Claim.run
  split <;> rfl

theorem Claim.run_holder (c : Claim) (now : Nat) : (c.run now).holder = c.holder := by
  unfold Claim.run
  split <;> rfl

theorem Claim.run_run (c : Claim) (now : Nat) : (c.run now).run now = c.run now := by
  unfold Claim.run
  split_ifs <;> rfl

/-- An operation at work cleared to IDLE, with its STALL (R44, R68). -/
def State.wiped (s : State) (h : Nat) : State :=
  { s with
    ops := updateKey Op.hatch h Op.cleared s.ops
    claims := updateKey Claim.hatch h (fun c => c.run s.now) s.claims
    alarms := s.alarms.clear .stall (.hatch h) }

theorem clearIdle_eq_wiped (s : State) (h : Nat) : s.clearIdle h = s.wiped h := rfl

theorem clearIdle_of_halted (s : State) (h : Nat) (st : OpState) (r : Option HaltReason)
    (f : Option FaultKind) :
    ((s.updOp h fun x => x.halted st r f).claimRun h).clearIdle h = s.wiped h := by
  have hops : updateKey Op.hatch h Op.cleared (updateKey Op.hatch h (fun x => x.halted st r f) s.ops) =
      updateKey Op.hatch h Op.cleared s.ops :=
    updateKey_updateKey (by intro; rfl) s.ops
  have hclaims : updateKey Claim.hatch h (fun c => c.run s.now)
      (updateKey Claim.hatch h (fun c => c.run s.now) s.claims) =
        updateKey Claim.hatch h (fun c => c.run s.now) s.claims := by
    rw [updateKey_updateKey fun c => c.run_hatch s.now]
    exact congrArg (updateKey Claim.hatch h · s.claims) (funext fun c => c.run_run s.now)
  have hhalted : (s.updOp h fun x => x.halted st r f).claimRun h = { s with
      ops := updateKey Op.hatch h (fun x => x.halted st r f) s.ops
      claims := updateKey Claim.hatch h (fun c => c.run s.now) s.claims } := rfl
  rw [clearIdle_eq_wiped, hhalted, State.wiped, State.wiped, hops, hclaims]

section
variable {s : State} {h : Nat} {o : Op} (ho : s.op? h = some o)
include ho

theorem abortOp_of_idle (hst : o.st = .idle) : s.abortOp h = s := by
  simp only [State.abortOp, opState_of_op? ho, hst]

theorem abortOp_of_faulted (hst : o.st = .faulted) :
    s.abortOp h = s.updOp h fun o => { o with prog := [] } := by
  simp only [State.abortOp, opState_of_op? ho, hst]

theorem abortOp_of_paused (hst : o.st = .paused) : s.abortOp h = s.wiped h := by
  simp only [State.abortOp, opState_of_op? ho, hst, clearIdle_eq_wiped]

theorem abortOp_of_queued (hst : o.st = .queued) : s.abortOp h = (s.dropEntry h).wiped h := by
  simp only [State.abortOp, opState_of_op? ho, hst]
  rw [haltOp_of_queued ho _ _ _ hst]
  exact clearIdle_of_halted ..

theorem abortOp_of_moving (hst : o.st = .moving) : s.abortOp h = (s.endMotion o).wiped h := by
  simp only [State.abortOp, opState_of_op? ho, hst]
  rw [haltOp_of_moving ho _ _ _ hst]
  exact clearIdle_of_halted ..

end

/-! ### The abort of a list of hatches -/

/-- `t` is `s` after the abort of the hatches `hs`, up to the outputs. -/
structure AbortedBy (s : State) (hs : List Nat) (t : State) : Prop where
  rest : t = { s with
    nodes := t.nodes
    hatches := t.hatches
    ops := t.ops
    claims := t.claims
    queue := t.queue
    granted := t.granted
    pumpIdle := t.pumpIdle
    alarms := t.alarms }
  hatches : t.hatches = s.hatches.map fun hr =>
    if hr.num ∈ hs ∧ s.opState hr.num = .moving then { hr with classifier := .idle } else hr
  ops : t.ops = s.ops.map fun o => if o.hatch ∈ hs then o.aborted else o
  claims : t.claims = s.claims.map fun c =>
    if c.hatch ∈ hs ∧ s.worksAt c.hatch = true then c.run s.now else c
  queue : t.queue = s.queue.filter fun e => e.hatch ∉ hs
  granted : t.granted = s.granted.filter fun g => g.hatch ∉ hs
  pumpIdle : t.pumpIdle = if s.queue = [] ∧ s.granted = [] then s.pumpIdle
    else if t.queue = [] ∧ t.granted = [] then some s.now else s.pumpIdle
  alarms : t.alarms =
    (hs.filter s.worksAt).foldl (fun al h => al.clear .stall (.hatch h)) s.alarms

theorem AbortedBy.nil (s : State) : AbortedBy s [] s where
  rest := rfl
  hatches := by simp
  ops := by simp
  claims := by simp
  queue := by simp
  granted := by simp
  pumpIdle := by split_ifs <;> rfl
  alarms := rfl

theorem opState_of_sameOther {s t : State} {h k : Nat} (hst : SameOtherHatches s h t) (hk : k ≠ h) :
    t.opState k = s.opState k := by
  simp only [State.opState, hst.op k hk]

theorem AbortedBy.cons {s t u : State} {h : Nat} {hs : List Nat} (a : AbortedBy s [h] t)
    (b : AbortedBy t hs u) (hother : SameOtherHatches s h t) (hh : h ∉ hs) :
    AbortedBy s (h :: hs) u := by
  have hstate : ∀ k, k ∈ hs → t.opState k = s.opState k := fun k hk =>
    opState_of_sameOther hother fun e => hh (e ▸ hk)
  have hworks : ∀ k, k ∈ hs → t.worksAt k = s.worksAt k := fun k hk => by
    simp only [State.worksAt, hstate k hk]
  have hnow : t.now = s.now := by rw [a.rest]
  refine ⟨?_, ?_, ?_, ?_, ?_, ?_, ?_, ?_⟩
  · refine b.rest.trans ?_
    rw [a.rest]
  · rw [b.hatches, a.hatches, List.map_map]
    refine List.map_congr_left fun hr _ => ?_
    by_cases hk : hr.num = h
    · by_cases hm : s.opState h = .moving <;> simp [hk, hh, hm]
    · by_cases hmem : hr.num ∈ hs <;> simp [hk, hmem, hstate]
  · rw [b.ops, a.ops, List.map_map]
    refine List.map_congr_left fun o _ => ?_
    by_cases ho : o.hatch = h
    · simp [ho, hh, o.aborted_hatch]
    · simp [ho]
  · rw [b.claims, a.claims, List.map_map]
    refine List.map_congr_left fun c _ => ?_
    by_cases hk : c.hatch = h
    · by_cases hm : s.worksAt h = true <;> simp [hk, hh, hm, c.run_hatch]
    · by_cases hmem : c.hatch ∈ hs <;> simp [hk, hmem, hworks, hnow]
  · rw [b.queue, a.queue, List.filter_filter]
    exact List.filter_congr fun e _ => by simp [Bool.and_comm]
  · rw [b.granted, a.granted, List.filter_filter]
    exact List.filter_congr fun e _ => by simp [Bool.and_comm]
  · have hempty : s.queue = [] ∧ s.granted = [] → t.queue = [] ∧ t.granted = [] := by
      rintro ⟨hq, hg⟩
      rw [a.queue, a.granted, hq, hg]
      exact ⟨rfl, rfl⟩
    have hempty' : t.queue = [] ∧ t.granted = [] → u.queue = [] ∧ u.granted = [] := by
      rintro ⟨hq, hg⟩
      rw [b.queue, b.granted, hq, hg]
      exact ⟨rfl, rfl⟩
    rw [b.pumpIdle, a.pumpIdle, hnow]
    split_ifs <;> tauto
  · rw [b.alarms, a.alarms, List.filter_congr hworks, ← List.foldl_append, ← List.filter_append]
    rfl

/-! ### The abort of one hatch, field by field -/

/-- A hatch whose operation record is `o` alone, with an entry exactly while it is QUEUED and a grant
exactly while it is MOVING. -/
structure Settled (s : State) (h : Nat) (o : Op) : Prop where
  op : s.op? h = some o
  only : ∀ x ∈ s.ops, x.hatch = h → x = o
  queued : o.st ≠ .queued → ∀ e ∈ s.queue, e.hatch ≠ h
  moving : o.st ≠ .moving → ∀ g ∈ s.granted, g.hatch ≠ h

section
variable {s : State} {h : Nat} {o : Op}

theorem Settled.map_ops (hs : Settled s h o) {f : Op → Op} (hf : f o = o.aborted) :
    updateKey Op.hatch h f s.ops = s.ops.map fun x => if x.hatch ∈ [h] then x.aborted else x := by
  rw [updateKey_eq]
  refine List.map_congr_left fun x hx => ?_
  by_cases hk : x.hatch = h
  · rw [if_pos hk, if_pos (List.mem_singleton.mpr hk), hs.only x hx hk, hf]
  · rw [if_neg hk, if_neg (hk ∘ List.mem_singleton.mp)]

theorem filter_singleton_of_ne {α : Type} {key : α → Nat} {l : List α} (hl : ∀ x ∈ l, key x ≠ h) :
    l = l.filter fun x => key x ∉ [h] :=
  (List.filter_eq_self.mpr fun x hx => by simpa using hl x hx).symm

theorem filter_bne_eq {α : Type} (key : α → Nat) (l : List α) :
    (l.filter fun x => key x != h) = l.filter fun x => key x ∉ [h] :=
  List.filter_congr fun x _ => by rw [Bool.eq_iff_iff]; simp

theorem pumpIdle_noteEmpty_eq (s : State) : s.noteEmpty.pumpIdle =
    if s.queue = [] ∧ s.granted = [] then some s.now else s.pumpIdle := by
  simp only [State.noteEmpty, Bool.and_eq_true, List.isEmpty_iff]
  split_ifs <;> rfl

/-- The pump idle timer begins as the last entry or grant leaves (R97). -/
theorem pumpIdle_dropEntry (s : State) (h : Nat) : (s.dropEntry h).pumpIdle =
    if s.queue = [] ∧ s.granted = [] then s.pumpIdle
    else if (s.dropEntry h).queue = [] ∧ (s.dropEntry h).granted = [] then some s.now
    else s.pumpIdle := by
  rw [queue_dropEntry, granted_dropEntry]
  unfold State.dropEntry
  split
  · next hsome =>
    have hne : s.queue ≠ [] := fun hnil => by simp [State.entry?, findKey, hnil] at hsome
    rw [pumpIdle_noteEmpty_eq, if_neg (c := s.queue = [] ∧ s.granted = [])
      fun hn => hne hn.1]
  · next hnone =>
    rw [filter_of_find_none hnone]
    split_ifs <;> rfl

theorem pumpIdle_dropGrant (s : State) (h : Nat) : (s.dropGrant h).pumpIdle =
    if s.queue = [] ∧ s.granted = [] then s.pumpIdle
    else if (s.dropGrant h).queue = [] ∧ (s.dropGrant h).granted = [] then some s.now
    else s.pumpIdle := by
  rw [granted_dropGrant, queue_dropGrant]
  unfold State.dropGrant
  split
  · next hsome =>
    have hne : s.granted ≠ [] := fun hnil => by simp [State.grant?, findKey, hnil] at hsome
    rw [pumpIdle_noteEmpty_eq, if_neg (c := s.queue = [] ∧ s.granted = [])
      fun hn => hne hn.2]
  · next hnone =>
    rw [filter_of_find_none hnone]
    split_ifs <;> rfl

theorem hatches_endMotion (s : State) (o : Op) : (s.endMotion o).hatches = s.hatches.map fun hr =>
    if hr.num = o.hatch then { hr with classifier := .idle } else hr := by
  have hkept : ((s.motionShut o).dropGrant o.hatch).hatches = s.hatches := by
    rw [dropGrant_eq, motionShut_eq]
  rw [endMotion_eq, State.classifierIdle, State.updHatch, updateKey_eq, hkept]

theorem pumpIdle_endMotion (s : State) (o : Op) : (s.endMotion o).pumpIdle =
    if s.queue = [] ∧ s.granted = [] then s.pumpIdle
    else if (s.endMotion o).queue = [] ∧ (s.endMotion o).granted = [] then some s.now
    else s.pumpIdle := by
  have h := pumpIdle_dropGrant (s.motionShut o) o.hatch
  have hqueue : (s.motionShut o).queue = s.queue := by rw [motionShut_eq]
  have hgranted : (s.motionShut o).granted = s.granted := by rw [motionShut_eq]
  have hidle : (s.motionShut o).pumpIdle = s.pumpIdle := by rw [motionShut_eq]
  have hnow : (s.motionShut o).now = s.now := by rw [motionShut_eq]
  rw [hqueue, hgranted, hidle, hnow] at h
  exact h

section
variable (hs : Settled s h o)
include hs

theorem Settled.opState : s.opState h = o.st := opState_of_op? hs.op

/-- An operation at work is wiped in a state in which its entry and its grant have gone. -/
theorem abortedBy_wiped {x : State} (hst : o.st = .queued ∨ o.st = .moving ∨ o.st = .paused)
    (hrest : x = { s with
      nodes := x.nodes, hatches := x.hatches, queue := x.queue, granted := x.granted
      pumpIdle := x.pumpIdle })
    (hhatches : x.hatches = s.hatches.map fun hr =>
      if hr.num = h ∧ o.st = .moving then { hr with classifier := .idle } else hr)
    (hqueue : x.queue = s.queue.filter fun e => e.hatch ∉ [h])
    (hgranted : x.granted = s.granted.filter fun g => g.hatch ∉ [h])
    (hidle : x.pumpIdle = if s.queue = [] ∧ s.granted = [] then s.pumpIdle
      else if x.queue = [] ∧ x.granted = [] then some s.now else s.pumpIdle) :
    AbortedBy s [h] (x.wiped h) := by
  have hworks : s.worksAt h = true := by
    rw [State.worksAt, hs.opState]
    obtain hst | hst | hst := hst <;> simp [hst]
  have haborted : o.cleared = o.aborted := by
    rw [Op.aborted]
    obtain hst | hst | hst := hst <;> simp [hst]
  have hops : x.ops = s.ops := by rw [hrest]
  have hclaims : x.claims = s.claims := by rw [hrest]
  have halarms : x.alarms = s.alarms := by rw [hrest]
  have hnow : x.now = s.now := by rw [hrest]
  refine ⟨?_, ?_, ?_, ?_, hqueue, hgranted, hidle, ?_⟩
  · rw [State.wiped, hrest]
  · refine hhatches.trans (List.map_congr_left fun hr _ => ?_)
    by_cases hk : hr.num = h
    · simp [hk, hs.opState]
    · simp [hk]
  · rw [State.wiped, hops]
    exact hs.map_ops haborted
  · rw [State.wiped, hclaims, hnow]
    refine (updateKey_eq Claim.hatch h _ s.claims).trans (List.map_congr_left fun c _ => ?_)
    by_cases hk : c.hatch = h
    · simp [hk, hworks]
    · simp [hk]
  · rw [State.wiped, halarms, List.filter_cons_of_pos hworks]
    rfl

theorem abortedBy_abortOp : AbortedBy s [h] (s.abortOp h) := by
  have hstate := hs.opState
  have hh : o.hatch = h := findKey_key (key := Op.hatch) hs.op
  have hatches_kept : o.st ≠ .moving → s.hatches = s.hatches.map fun hr =>
      if hr.num = h ∧ o.st = .moving then { hr with classifier := .idle } else hr := fun hm => by
    simp [hm]
  have resting : ∀ f : Op → Op, f o = o.aborted → s.worksAt h = false → o.st ≠ .queued →
      o.st ≠ .moving → AbortedBy s [h] (s.updOp h f) := fun f hf hw hq hm => by
    refine ⟨rfl, ?_, hs.map_ops hf, ?_, ?_, ?_, ?_, ?_⟩
    · refine (List.map_id' _).symm.trans (List.map_congr_left fun hr _ => ?_)
      rw [if_neg]
      rintro ⟨hk, hmv⟩
      exact hm (hstate ▸ List.mem_singleton.mp hk ▸ hmv)
    · refine (List.map_id' _).symm.trans (List.map_congr_left fun c _ => ?_)
      rw [if_neg]
      rintro ⟨hk, hworks⟩
      exact Bool.false_ne_true (hw.symm.trans (List.mem_singleton.mp hk ▸ hworks))
    · exact filter_singleton_of_ne (hs.queued hq)
    · exact filter_singleton_of_ne (hs.moving hm)
    · split_ifs with hnone hnone'
      · rfl
      · exact absurd hnone' hnone
      · rfl
    · rw [List.filter_cons_of_neg (by simp [hw])]
      rfl
  cases hst : o.st with
  | idle =>
    rw [abortOp_of_idle hs.op hst]
    have hid : s.updOp h id = s := by
      have hmap : s.ops.map (fun x => if x.hatch = h then id x else x) = s.ops := by simp
      rw [State.updOp, updateKey_eq, hmap]
    have hrest := resting id (by simp [Op.aborted, hst]) (by simp [State.worksAt, hstate, hst])
      (by simp [hst]) (by simp [hst])
    rwa [hid] at hrest
  | faulted =>
    rw [abortOp_of_faulted hs.op hst]
    exact resting _ (by simp [Op.aborted, hst]) (by simp [State.worksAt, hstate, hst])
      (by simp [hst]) (by simp [hst])
  | paused =>
    rw [abortOp_of_paused hs.op hst]
    exact abortedBy_wiped hs (.inr (.inr hst)) rfl (hatches_kept (by simp [hst]))
      (filter_singleton_of_ne (hs.queued (by simp [hst])))
      (filter_singleton_of_ne (hs.moving (by simp [hst]))) (by split_ifs <;> rfl)
  | queued =>
    rw [abortOp_of_queued hs.op hst]
    refine abortedBy_wiped hs (.inl hst) ?_ ?_ ?_ ?_ (pumpIdle_dropEntry s h)
    · rw [dropEntry_eq]
    · rw [dropEntry_eq]
      exact hatches_kept (by simp [hst])
    · exact (queue_dropEntry s h).trans (filter_bne_eq Entry.hatch s.queue)
    · exact (granted_dropEntry s h).trans
        (filter_singleton_of_ne (hs.moving (by simp [hst])))
  | moving =>
    rw [abortOp_of_moving hs.op hst]
    refine abortedBy_wiped hs (.inr (.inl hst)) ?_ ?_ ?_ ?_ (pumpIdle_endMotion s o)
    · rw [endMotion_keeps]
    · simp only [hatches_endMotion, hh, hst, and_true]
    · exact (queue_endMotion s o).trans (filter_singleton_of_ne (hs.queued (by simp [hst])))
    · rw [granted_endMotion, hh]
      exact filter_bne_eq Grant.hatch s.granted

end

end

/-- With the laws of motion every hatch is settled. -/
theorem settled_of_motionOk {s : State} (hm : MotionOk s) {h : Nat} (hh : h ∈ s.hatches.map Hatch.num) :
    ∃ o, Settled s h o := by
  obtain ⟨hops, hnodup, -, -, -, -, hstates⟩ := hm
  rw [← hops] at hh hnodup
  obtain ⟨o, ho, rfl⟩ := List.mem_map.mp hh
  obtain ⟨hqueued, hmoving⟩ := hstates o ho
  exact ⟨o, findKey_of_mem (key := Op.hatch) hnodup ho,
    fun x hx hk => List.inj_on_of_nodup_map hnodup hx ho hk,
    fun hn e he hk => hn (hqueued.mpr (hk ▸ List.mem_map_of_mem he)),
    fun hn g hg hk => hn (hmoving.mpr (hk ▸ List.mem_map_of_mem hg))⟩

theorem motionOk_abortOp {s : State} (hm : MotionOk s) (h : Nat) : MotionOk (s.abortOp h) :=
  (motionOk_iff _).mpr ((moves_abortOp s h).motionIn ((motionOk_iff s).mp hm))

theorem abortedBy_foldl (hs : List Nat) {s : State} (hm : MotionOk s) (hnd : hs.Nodup)
    (hmem : ∀ h ∈ hs, h ∈ s.hatches.map Hatch.num) : AbortedBy s hs (hs.foldl State.abortOp s) := by
  induction hs generalizing s with
  | nil => exact .nil s
  | cons h hs ih =>
    obtain ⟨hnot, hnd⟩ := List.nodup_cons.mp hnd
    obtain ⟨o, ho⟩ := settled_of_motionOk hm (hmem h List.mem_cons_self)
    refine (abortedBy_abortOp ho).cons (ih (motionOk_abortOp hm h) hnd fun k hk => ?_)
      (sameOther_abortOp s h) hnot
    rw [(onlyMotion_abortOp s h).hatches]
    exact hmem k (List.mem_cons_of_mem h hk)

/-! ### Outputs that go to 0 -/

/-- No output changes but to 0. -/
structure OnlyToZero (s t : State) : Prop where
  outs : ∀ a k, t.outAt a k = 0 ∨ t.outAt a k = s.outAt a k

theorem OnlyToZero.refl (s : State) : OnlyToZero s s := ⟨fun _ _ => .inr rfl⟩

theorem OnlyToZero.trans {s t u : State} (a : OnlyToZero s t) (b : OnlyToZero t u) :
    OnlyToZero s u :=
  ⟨fun n k => (b.outs n k).elim .inl fun h => (a.outs n k).imp h.trans h.trans⟩

theorem OnlyToZero.of_nodes {s t : State} (hn : t.nodes = s.nodes) : OnlyToZero s t :=
  ⟨fun a k => .inr (outAt_of_nodes hn a k)⟩

theorem OnlyToZero.foldl {α : Type} {f : State → α → State} (hf : ∀ x a, OnlyToZero x (f x a))
    (l : List α) (s : State) : OnlyToZero s (l.foldl f s) := by
  induction l generalizing s with
  | nil => exact .refl s
  | cons a l ih => exact (hf s a).trans (ih _)

theorem onlyToZero_setOut (s : State) (a k : Nat) : OnlyToZero s (s.setOut a k 0) := by
  refine ⟨fun b j => ?_⟩
  by_cases e : b = a ∧ j = k
  · obtain ⟨rfl, rfl⟩ := e
    exact .inl (outAt_setOut_zero ..)
  · exact .inr (outAt_setOut_ne s 0 e)

theorem onlyToZero_zeroRole (s : State) (r : Role) (h : Nat) (is : List Nat) :
    OnlyToZero s (s.zeroRole r h is) := by
  refine OnlyToZero.foldl (fun x i => ?_) is s
  unfold State.drive
  split
  · exact onlyToZero_setOut ..
  · exact .refl x

theorem onlyToZero_endMotion (s : State) (o : Op) : OnlyToZero s (s.endMotion o) := by
  have hshut : OnlyToZero s (s.motionShut o) := by
    unfold State.motionShut
    split
    · exact (onlyToZero_zeroRole ..).trans (onlyToZero_zeroRole ..)
    · exact .refl s
  refine hshut.trans (.of_nodes ?_)
  rw [endMotion_keeps]

theorem onlyToZero_abortOp {s : State} {h : Nat} {o : Op} (ho : s.op? h = some o) :
    OnlyToZero s (s.abortOp h) := by
  cases hst : o.st with
  | idle =>
    rw [abortOp_of_idle ho hst]
    exact .refl s
  | faulted =>
    rw [abortOp_of_faulted ho hst]
    exact .of_nodes rfl
  | paused =>
    rw [abortOp_of_paused ho hst]
    exact .of_nodes rfl
  | queued =>
    rw [abortOp_of_queued ho hst]
    refine .of_nodes ?_
    rw [dropEntry_eq]
    rfl
  | moving =>
    rw [abortOp_of_moving ho hst]
    exact (onlyToZero_endMotion s o).trans (.of_nodes rfl)

theorem onlyToZero_foldl_abortOp (hs : List Nat) (s : State) :
    OnlyToZero s (hs.foldl State.abortOp s) := by
  refine OnlyToZero.foldl (fun x h => ?_) hs s
  cases ho : x.op? h with
  | none =>
    have hsame : x.abortOp h = x := by simp only [State.abortOp, opState_of_none ho]
    rw [hsame]
    exact .refl x
  | some o => exact onlyToZero_abortOp ho

theorem onlyToZero_shutAllValves (s : State) : OnlyToZero s s.shutAllValves :=
  OnlyToZero.foldl (f := fun x (p : Point) => x.setOut p.node p.point 0)
    (fun x p => onlyToZero_setOut x p.node p.point) _ s

theorem onlyToZero_stopPumps (s : State) : OnlyToZero s s.stopPumps := by
  have hstop : ∀ (x : State) (n : Nat), OnlyToZero x (x.stopPump n) := fun x n => by
    unfold State.stopPump
    split
    · exact .refl x
    · split
      · exact .refl x
      · have hdrive : ∀ y : State, OnlyToZero y (y.drivePump n 0) := fun y => by
          unfold State.drivePump
          split
          · exact onlyToZero_setOut ..
          · exact .refl y
        refine OnlyToZero.trans ?_ (hdrive _)
        exact .of_nodes rfl
  exact (OnlyToZero.foldl hstop _ s).trans (.of_nodes rfl)

theorem shutAllValves_eq (s : State) : s.shutAllValves = { s with nodes := s.shutAllValves.nodes } := by
  suffices hex : ∀ (l : List Point) (x : State), ∃ ns,
      l.foldl (fun x p => x.setOut p.node p.point 0) x = { x with nodes := ns } by
    obtain ⟨ns, hns⟩ := hex (s.points.filter fun p => p.role.isHatch && !p.role.isInput) s
    rw [State.shutAllValves, hns]
  intro l
  induction l with
  | nil => exact fun x => ⟨_, rfl⟩
  | cons p l ih =>
    intro x
    obtain ⟨ns, hns⟩ := ih (x.setOut p.node p.point 0)
    exact ⟨ns, hns.trans rfl⟩

/-! ### The stop -/

section
variable {s : State} (hm : MotionOk s)
include hm

theorem worksAt_of_mem {o : Op} (ho : o ∈ s.ops) : s.worksAt o.hatch = o.atWork := by
  obtain ⟨hops, hnodup, -⟩ := hm
  have hop : s.op? o.hatch = some o := findKey_of_mem (key := Op.hatch) (hops ▸ hnodup) ho
  rw [State.worksAt, opState_of_op? hop, Op.atWork]

theorem worksAt_iff (h : Nat) :
    s.worksAt h = true ↔ s.ops.any (fun o => o.hatch == h && o.atWork) = true := by
  simp only [List.any_eq_true, Bool.and_eq_true, beq_iff_eq]
  constructor
  · intro hw
    cases ho : s.op? h with
    | none => simp [State.worksAt, opState_of_none ho] at hw
    | some o =>
      have hmem : o ∈ s.ops := findKey_mem ho
      have hh : o.hatch = h := findKey_key (key := Op.hatch) ho
      exact ⟨o, hmem, hh, by rw [← worksAt_of_mem hm hmem, hh]; exact hw⟩
  · rintro ⟨o, ho, rfl, hw⟩
    rw [worksAt_of_mem hm ho]
    exact hw

theorem worksAt_eq (h : Nat) :
    s.worksAt h = s.ops.any fun o => o.hatch == h && o.atWork :=
  Bool.eq_iff_iff.mpr (worksAt_iff hm h)

/-- The abort of every hatch (R68). -/
theorem abortedBy_all :
    AbortedBy s (s.hatches.map Hatch.num) ((s.hatches.map Hatch.num).foldl State.abortOp s) :=
  abortedBy_foldl _ hm hm.2.1 fun _ h => h

theorem all_left : (s.queue.filter fun e => e.hatch ∉ s.hatches.map Hatch.num) = [] ∧
    (s.granted.filter fun g => g.hatch ∉ s.hatches.map Hatch.num) = [] := by
  obtain ⟨hops, -, -, -, hqueue, hgranted, -⟩ := hm
  rw [← hops]
  refine ⟨List.filter_eq_nil_iff.mpr fun e he => ?_, List.filter_eq_nil_iff.mpr fun g hg => ?_⟩
  · simpa using hqueue e he
  · simpa using hgranted g hg

/-- The records after the abort of every hatch, as `Stopped` writes them. -/
theorem abortAll_eq : s.abortAll = { s with
    nodes := s.abortAll.nodes
    alarms := (s.ops.filter Op.atWork).foldl (fun al o => al.clear .stall (.hatch o.hatch)) s.alarms
    ops := s.ops.map fun o =>
      if o.st = .faulted then { o with prog := [] } else if o.st = .idle then o else o.cleared
    claims := s.claims.map fun c =>
      if c.holder.isSome ∧ s.ops.any (fun o => o.hatch == c.hatch && o.atWork) = true then
        { c with idle := some s.now }
      else c
    hatches := s.hatches.map fun hr =>
      if s.opState hr.num = .moving then { hr with classifier := .idle } else hr
    queue := []
    granted := []
    pumpIdle := if s.queue = [] ∧ s.granted = [] then s.pumpIdle else some s.now } := by
  have hall := abortedBy_all hm
  obtain ⟨hq, hg⟩ := all_left hm
  have hmem : ∀ o ∈ s.ops, o.hatch ∈ s.hatches.map Hatch.num := fun o ho => by
    rw [← hm.1]
    exact List.mem_map_of_mem ho
  have hqueue := hall.queue.trans hq
  have hgranted := hall.granted.trans hg
  have hops := hall.ops.trans (List.map_congr_left (g := Op.aborted) fun o ho => if_pos (hmem o ho))
  have hhatches := hall.hatches.trans (List.map_congr_left
    (g := fun hr => if s.opState hr.num = .moving then { hr with classifier := .idle } else hr)
    fun hr hhr => by
      simp only [List.mem_map_of_mem (f := Hatch.num) hhr, true_and])
  have hclaims := hall.claims.trans (List.map_congr_left
    (g := fun c => if c.holder.isSome ∧
        s.ops.any (fun o => o.hatch == c.hatch && o.atWork) = true then
      { c with idle := some s.now } else c) fun c _ => by
      rw [← worksAt_eq hm]
      by_cases hw : s.worksAt c.hatch = true
      · obtain ⟨o, ho, hk⟩ := List.any_eq_true.mp ((worksAt_iff hm c.hatch).mp hw)
        simp only [Bool.and_eq_true, beq_iff_eq] at hk
        have hin : c.hatch ∈ s.hatches.map Hatch.num := hk.1 ▸ hmem o ho
        simp only [hin, hw, and_true, if_true, Claim.run]
      · simp only [hw, Bool.false_eq_true, and_false, if_false])
  have halarms : ((s.hatches.map Hatch.num).foldl State.abortOp s).alarms =
      (s.ops.filter Op.atWork).foldl (fun al o => al.clear .stall (.hatch o.hatch)) s.alarms := by
    rw [hall.alarms, ← hm.1, List.filter_map, List.foldl_map]
    exact congrArg (List.foldl _ s.alarms) (List.filter_congr fun o ho => worksAt_of_mem hm ho)
  have hidle := hall.pumpIdle
  rw [hqueue, hgranted, if_pos (c := ([] : List Entry) = [] ∧ ([] : List Grant) = []) ⟨rfl, rfl⟩] at hidle
  have hrest := hall.rest
  rw [hhatches, hops, hclaims, hqueue, hgranted, hidle, halarms] at hrest
  rw [State.abortAll, shutAllValves_eq, hrest]
  rfl

end

/-- What the setting of the latch leaves is the emergency stop. -/
theorem stopped_setLatch {s : State} (hm : MotionOk s) (hnd : (s.pumps.map Pump.num).Nodup)
    (hl : s.latch = false) : Stopped s s.setLatch := by
  let x := State.raiseAlarm { s with latch := true } .estopActive .part
  have habort := abortAll_eq (s := x) hm
  have hempty : x.abortAll.emptyGrants = x.abortAll := emptyGrants_of_empty (by
    rw [habort]
    exact ⟨rfl, rfl⟩)
  have hset : s.setLatch = x.abortAll.stopPumps := by
    rw [State.setLatch, if_neg (by simp [hl])]
    exact congrArg State.stopPumps hempty
  have hpumps : x.abortAll.pumps = s.pumps := by rw [habort]; rfl
  have hpoints : x.abortAll.points = s.points := by rw [habort]; rfl
  have hnd' : (x.abortAll.pumps.map Pump.num).Nodup := hpumps ▸ hnd
  have hpoint : ∀ n, x.abortAll.pumpPoint? .pumpRun n = s.pumpPoint? .pumpRun n := fun n => by
    rw [State.pumpPoint?, hpoints, State.pumpPoint?]
  have hzero := onlyToZero_stopPumps x.abortAll
  have houts : OnlyToZero s x.abortAll := by
    refine OnlyToZero.trans (t := x) (.of_nodes rfl) ?_
    exact (onlyToZero_foldl_abortOp _ x).trans (onlyToZero_shutAllValves _)
  rw [hset]
  refine ⟨?_, ?_, fun p hp hv => ?_, fun p hp hf q hq => ?_, (houts.trans hzero).outs⟩
  · have hmax : x.abortAll.computeMaxB = s.computeMaxB := by
      rw [habort]
      rfl
    have hstop := stopPumps_eq hnd'
    rw [hmax, hpumps] at hstop
    refine hstop.trans ?_
    generalize x.abortAll.stopPumps.nodes = ns
    rw [habort]
    rfl
  · exact (onlyMotion_stopPumps _).nodes.trans ((onlyMotion_abortAll x).nodes)
  · have hnot := not_energised_shutAllValves ((x.hatches.map Hatch.num).foldl State.abortOp x) p
    have hout : x.abortAll.outAt p.node p.point = 0 := by
      by_contra h0
      exact hnot ⟨hpoints.symm ▸ hp, hv, h0⟩
    exact (hzero.outs p.node p.point).elim id fun h => h.trans hout
  · exact outAt_stopPumps_bound hnd' (hpumps.symm ▸ hp) hf ((hpoint p.num).trans hq)

/-! ### ESTOP and the pin -/

theorem canEstop_iff (s : State) (l : Nat) :
    s.canEstop l = true ↔ (s.line? l).bind Line.estopAbility = some true := by
  unfold State.canEstop
  cases s.line? l <;> simp

section
variable {s : State} {l : Nat} (hm : s.mode ≠ .unconfigured)
include hm

theorem estopRequest_of_able (ha : s.canEstop l = true) : s.estopRequest l = (s.setLatch, .done) := by
  simp only [State.estopRequest, if_neg hm, ha, Bool.true_eq_false, if_false]

theorem estopRequest_of_unable (ha : s.canEstop l = false) : s.estopRequest l = (s, .class) := by
  simp only [State.estopRequest, if_neg hm, if_pos ha]

end

theorem setLatch_of_set {s : State} (h : s.latch = true) : s.setLatch = s := if_pos h

theorem exec_estop {s u : State} {l : Nat} (hs : Served s l) {dt : Nat} {seq : Byte} {r : Result}
    (h : (s.taken dt l).estopRequest l = (u, r)) :
    exec (.estop dt l seq []) s = .next (u.answer l seq kindEstop (some r) []) := by
  refine served_to hs (by simp) ?_
  simp only [requestEstop, noArgs, h]

/-- The abilities of a line stand when its telegram is taken. -/
theorem canEstop_taken (s : State) (dt l : Nat) : (s.taken dt l).canEstop l = s.canEstop l := by
  have hline : (s.taken dt l).line? l = (s.line? l).map fun ln =>
      { ln with
        good := inc16 ln.good, silence := some (s.advance dt).now, rx := .hunting
        link := if ln.link = .down then .awaiting else ln.link } :=
    line?_updLine_same (s.advance dt) l _ (by intro; rfl)
  unfold State.canEstop
  rw [hline]
  cases s.line? l <;> rfl

theorem exec_estopInActive {s : State} (hp : s.power = .running) (dt : Nat) :
    exec (.estopInActive dt) s = .next
      (if s.estopIn = true then { s.advance dt with estopIn := true }
      else State.setLatch { s.advance dt with estopIn := true }) :=
  congrArg Host.Outcome.next (live_of_running (s := { s with estopIn := true }) hp dt
    fun x => if s.estopIn = true then x else x.setLatch)

/-- Settles O47. -/
theorem emergencyStop : Obligations.EmergencyStop := by
  unfold Obligations.EmergencyStop
  refine ⟨fun s dt l seq hm hnd => ⟨fun hs hmode => ⟨fun ha hl => ?_, fun ha hl => ?_, fun ha => ?_⟩,
    fun hp => ⟨fun he hl => ?_, fun h => ?_, ?_⟩⟩, fun s t hst hfailed => ⟨?_, fun p hp q hq => ?_⟩⟩
  · refine ⟨_, exec_estop hs (estopRequest_of_able (s := s.taken dt l) hmode ?_),
      stopped_setLatch (s := s.taken dt l) hm hnd hl⟩
    rw [canEstop_taken, canEstop_iff]
    exact ha
  · rw [exec_estop hs (estopRequest_of_able (s := s.taken dt l) hmode
      ((canEstop_taken s dt l).trans ((canEstop_iff s l).mpr ha))),
      setLatch_of_set (s := s.taken dt l) hl]
  · refine exec_estop hs (estopRequest_of_unable (s := s.taken dt l) hmode ?_)
    rw [canEstop_taken, Bool.eq_false_iff, ne_eq, canEstop_iff]
    exact ha
  · rw [exec_estopInActive hp, if_neg (by simp [he])]
    exact ⟨_, rfl, stopped_setLatch (s := { s.advance dt with estopIn := true }) hm hnd hl⟩
  · rw [exec_estopInActive hp]
    split_ifs with he
    · rfl
    · rw [setLatch_of_set (s := { s.advance dt with estopIn := true })
        (h.resolve_left he)]
  · exact congrArg _ (live_of_running (s := { s with estopIn := false }) hp ..)
  · rw [hst.rest, State.holders, State.holders, List.map_map]
    refine List.map_congr_left fun c _ => ?_
    by_cases hrun : c.holder.isSome ∧
        s.ops.any (fun o => o.hatch == c.hatch && o.atWork) = true
    · rw [Function.comp, if_pos hrun]
    · rw [Function.comp, if_neg hrun]
  · have hpoint : ∀ n, t.pumpPoint? .pumpRun n = s.pumpPoint? .pumpRun n := fun n => by
      rw [hst.rest]
      rfl
    have hpumps : t.pumps = s.pumps.map Pump.stopped := by
      rw [hst.rest]
      rfl
    rw [hpoint] at hq
    rw [hpumps] at hp
    obtain ⟨x, hx, rfl⟩ := List.mem_map.mp hp
    rw [x.stopped_num] at hq
    by_cases hf : x.st = .failed
    · exact (hst.outs q.node q.point).elim id fun h => h.trans (hfailed x hx hf q hq)
    · exact hst.pumps x hx hf q hq

end Sys2Proof.Machine

/-! The silence of a line (R115, R123, R134, R156). -/

namespace Sys2Proof.Machine

section
variable {s : State} {l : Nat} {ln : Line} (hl : s.line? l = some ln)
include hl

theorem lineSilent_of_early (h : (∀ t ∈ ln.silence, s.now < t + 1500) ∨ ln.link = .down) :
    s.lineSilent l = s := by
  simp only [State.lineSilent, hl]
  refine if_neg fun ⟨hlink, helapsed⟩ => ?_
  obtain h | h := h
  · cases ht : ln.silence with
    | none => simp [elapsed, ht] at helapsed
    | some t =>
      rw [ht] at helapsed
      exact Nat.not_le.mpr (h t ht) (of_decide_eq_true helapsed)
  · simp [h] at hlink

variable {t0 : Nat} (ht : ln.silence = some t0) (hdue : t0 + 1500 ≤ s.now)
include ht hdue

theorem lineSilent_of_awaiting (hlink : ln.link = .awaiting) : s.lineSilent l =
    (s.updLine l Line.goDown).clearAlarm .classMismatch (.line l) := by
  simp [State.lineSilent, hl, ht, elapsed, hdue, hlink]

theorem lineSilent_of_active (hlink : ln.link = .active) : s.lineSilent l =
    ((s.updLine l Line.goDown).clearAlarm .classMismatch (.line l)).lineLost l := by
  simp [State.lineSilent, hl, ht, elapsed, hdue, hlink]

end

/-! ### A line leaves ACTIVE (R115, R123) -/

/-- The state of a lost line before its claims are released. -/
def State.lossRaised (s : State) (l : Nat) : State :=
  if (s.heldBy l).any s.busy = true then s.raiseAlarm .stationLost (.line l) else s

/-- The state of a lost line before the evaluation. -/
def State.lossTaken (s : State) (l : Nat) : State :=
  { ((s.heldBy l).foldl State.release (s.lossRaised l)).updLine l Line.forgotten with
    arm := match s.arm with
      | some a => if a.line = l then none else some a
      | none => none }

theorem onlyMotion_lossRaised (s : State) (l : Nat) : OnlyMotion s (s.lossRaised l) := by
  unfold State.lossRaised
  split
  · exact onlyMotion_raiseAlarm ..
  · exact .refl s

theorem onlyMotion_releases (s : State) (l : Nat) :
    OnlyMotion s ((s.heldBy l).foldl State.release (s.lossRaised l)) :=
  (onlyMotion_lossRaised s l).trans (OnlyMotion.foldl onlyMotion_release _ _)

theorem lineLost_eq (s : State) (l : Nat) : s.lineLost l =
    if (s.heldBy l).any s.busy = true then (s.lossTaken l).evaluate else s.lossTaken l := by
  have harm : ((s.heldBy l).foldl State.release (s.lossRaised l)).arm = s.arm := by
    rw [(onlyMotion_releases s l).rest]
  unfold State.lossTaken
  rw [← harm]
  rfl

theorem heldBy_eq_nil_iff {s : State} {l : Nat} :
    s.heldBy l = [] ↔ ∀ p ∈ s.holders, p.2 ≠ some l := by
  simp [State.heldBy, State.holders, List.filter_eq_nil_iff]

theorem heldBy_lineLost (s : State) (l : Nat) : (s.lineLost l).heldBy l = [] := by
  refine heldBy_eq_nil_iff.mpr fun p hp hl => ?_
  obtain ⟨-, hne⟩ := (lineGone_lineLost s l).holders p hp (by simp [hl])
  exact hne hl

theorem line?_lineLost_same (s : State) (l : Nat) :
    (s.lineLost l).line? l = (s.line? l).map Line.forgotten := by
  rw [State.line?, (lineGone_lineLost s l).lines]
  exact line?_updLine_same s l Line.forgotten (by intro; rfl)

theorem lineLost_others (s : State) (l : Nat) : SameOtherLines s l (s.lineLost l) := by
  refine ⟨fun k hk => ?_⟩
  rw [State.line?, (lineGone_lineLost s l).lines]
  exact line?_updLine_ne s l k hk Line.forgotten (by intro; rfl)

theorem lines_lineLost (s : State) (l : Nat) : (s.lineLost l).lines = (s.lossTaken l).lines := by
  rw [lineLost_eq]
  split
  · rw [(onlyMotion_evaluate _).rest]
  · rfl

theorem arm_lineLost (s : State) (l : Nat) : (s.lineLost l).arm = (s.lossTaken l).arm := by
  rw [lineLost_eq]
  split
  · rw [(onlyMotion_evaluate _).rest]
  · rfl

theorem lossTaken_eq (s : State) (l : Nat) : s.lossTaken l =
    { (s.heldBy l).foldl State.release (s.lossRaised l) with
      lines := (s.lineLost l).lines, arm := (s.lineLost l).arm } := by
  rw [lines_lineLost, arm_lineLost]
  rfl

theorem exec_silenceExpiry {s : State} {l : Nat} {ln : Line} (hs : Hears s l ln) (dt : Nat) :
    exec (.silenceExpiry dt l) s = .next ((s.advance dt).lineSilent l) :=
  onLine_of_hears hs dt fun x => x.lineSilent l

/-- Settles O11: the loss of the line is the model's `lineLost` on the line that has gone DOWN. -/
theorem silenceTakesTheLineDown : Obligations.SilenceTakesTheLineDown := by
  unfold Obligations.SilenceTakesTheLineDown
  refine ⟨fun s dt l t0 ln hs ht hdue => ?_, fun s dt l ln hs h => ?_, fun s h cl hcl => ?_⟩
  · have hline : (s.advance dt).line? l = some ln := hs.line? dt
    have hdue' : t0 + 1500 ≤ (s.advance dt).now := (advance_now hs.1 dt).symm ▸ hdue
    have hdown : ((s.advance dt).updLine l Line.goDown).line? l = some ln.goDown :=
      (line?_updLine_same (s.advance dt) l Line.goDown (by intro; rfl)).trans
        (congrArg (Option.map _) hline)
    have hothers := updLine_others (s.advance dt) l Line.goDown (by intro; rfl)
    refine ⟨fun hlink => ?_, fun hlink => ?_⟩
    · rw [exec_silenceExpiry hs, lineSilent_of_awaiting hline ht hdue' hlink]
      exact ⟨_, rfl, rfl, ⟨hothers.same⟩, hdown⟩
    · rw [exec_silenceExpiry hs, lineSilent_of_active hline ht hdue' hlink]
      let z := ((s.advance dt).updLine l Line.goDown).clearAlarm .classMismatch (.line l)
      have hy : z.lossRaised l = { s.advance dt with
          lines := s.lines.map fun x => if x.num = l then { x with
            link := .down, silence := none, queue := [], reportAt := none, reportIsDue := false }
            else x
          alarms := if (s.heldBy l).any s.busy = true then
              (s.alarms.clear .classMismatch (.line l)).raise .stationLost (.line l)
                (s.advance dt).runningTime
            else s.alarms.clear .classMismatch (.line l) } := by
        have hlines : (s.lines.map fun x => if x.num = l then { x with
            link := .down, silence := none, queue := [], reportAt := none, reportIsDue := false }
            else x) = updateKey Line.num l Line.goDown s.lines := (updateKey_eq ..).symm
        rw [hlines]
        unfold State.lossRaised
        by_cases hm : (s.heldBy l).any s.busy = true
        · rw [if_pos hm]
          exact if_pos hm
        · rw [if_neg hm]
          exact if_neg hm
      refine ⟨z.lineLost l, z.lossRaised l, z.lossTaken l, _, rfl, ?_, heldBy_lineLost z l, ?_,
        arm_lineLost z l, rfl, hy, lossTaken_eq z l, lineLost_eq z l⟩
      · exact ⟨fun k hk => ((lineLost_others z l).same k hk).trans (hothers.same k hk)⟩
      · rw [line?_lineLost_same]
        exact congrArg (Option.map _) hdown
  · rw [exec_silenceExpiry hs, lineSilent_of_early (s := s.advance dt) (hs.line? dt)]
    rw [advance_now hs.1]
    exact h
  · exact ⟨onlyMotion_release s h, sameOther_release s h, claim?_release_same hcl, op?_release_same s h,
      alarms_release s h, entry?_release, grant?_release, fun o ho => haltShut_release ho⟩

end Sys2Proof.Machine

/-! The REPORT and the transmitter of a line (R162, R163, R168). -/

namespace Sys2Proof.Machine

/-! ### The payload of a REPORT -/

theorem length_be16 (n : Nat) : (be16 n).length = 2 := rfl

theorem foldl_max_eq (vs : List Int) (m : Nat) :
    vs.foldl (fun m v => max m v.natAbs) m = max m ((vs.map Int.natAbs).foldr max 0) := by
  induction vs generalizing m with
  | nil => simp
  | cons v vs ih =>
    rw [List.foldl_cons, ih, List.map_cons, List.foldr_cons, max_assoc]

/-- The largest magnitude of the values of a window, 0 for an empty one (R106). -/
theorem peak_getD (vs : List Int) : (peak vs).getD 0 = (vs.map Int.natAbs).foldr max 0 := by
  cases vs with
  | nil => rfl
  | cons v vs => exact (foldl_max_eq (v :: vs) 0).trans (Nat.zero_max _)

theorem ready_iff (s : State) :
    s.ready = true ↔ s.mode = .sea ∨ s.mode = .harbour ∨ s.mode = .commission := by
  simp [State.ready, or_assoc]

theorem unacked_eq (al : AlarmList) :
    al.unacked = (al.recs.filter fun a => a.st ≠ .raisedAck).length := by
  rw [AlarmList.unacked]
  refine congrArg List.length (List.filter_congr fun a _ => ?_)
  rw [Bool.eq_iff_iff, bne_iff_ne, decide_eq_true_iff]

theorem reportHatch_eq (s : State) (hr : Hatch) : s.reportHatch hr =
    [byte hr.position.code, byte (s.opState hr.num).code,
      byte ((s.holder? hr.num).getD 0 + (if s.opState hr.num = .faulted then 8 else 0) +
        if hr.stale then 16 else 0)] := by
  simp only [State.reportHatch, bit, beq_iff_eq]
  rfl

theorem reportFlags_eq (s : State) : bit s.latch 0 + bit s.arm.isSome 1 + bit s.ready 2 +
    bit s.alarms.overflow 3 + bit s.att.valid 4 =
      (if s.latch then 1 else 0) + (if s.arm = none then 0 else 2) +
        (if s.mode = .sea ∨ s.mode = .harbour ∨ s.mode = .commission then 4 else 0) +
        (if s.alarms.overflow then 8 else 0) + if 4 ≤ s.att.window.length then 16 else 0 := by
  have harm : bit s.arm.isSome 1 = if s.arm = none then 0 else 2 := by
    cases s.arm <;> rfl
  rw [harm]
  simp only [bit, ready_iff, Attitude.valid, decide_eq_true_iff]
  rfl

theorem reportPayload_eq (s : State) : s.reportPayload = reportBytes s := by
  have hb : s.reportB = if s.inForce = none then 0 else s.budget := by
    unfold State.reportB
    cases s.inForce <;> rfl
  have hf : s.reportF = if s.inForce = none then 0 else s.budget - (s.granted.map Grant.demand).sum := by
    unfold State.reportF
    cases s.inForce <;> rfl
  have hheel : s.att.peakHeel.getD 0 = (s.att.window.map fun w => w.1.natAbs).foldr max 0 := by
    rw [Attitude.peakHeel, peak_getD, List.map_map]
    rfl
  have htrim : s.att.peakTrim.getD 0 = (s.att.window.map fun w => w.2.natAbs).foldr max 0 := by
    rw [Attitude.peakTrim, peak_getD, List.map_map]
    rfl
  have hpump : s.pumpBits = fun n => match s.pump? n with | some p => p.st.code | none => 0 :=
    funext fun n => by
      unfold State.pumpBits
      cases s.pump? n <;> rfl
  have hhatch : s.reportHatch = _ := funext (reportHatch_eq s)
  rw [State.reportPayload, reportBytes, reportFlags_eq, hb, hf, hheel, htrim, unacked_eq, hpump,
    hhatch] <;> rfl

theorem length_reportPayload (s : State) : s.reportPayload.length = 12 + 3 * s.hatches.length := by
  have hhatches : (s.hatches.flatMap s.reportHatch).length = 3 * s.hatches.length := by
    have hthree : (fun hr => (s.reportHatch hr).length) = fun _ => 3 := rfl
    rw [List.length_flatMap, hthree, List.map_const', List.sum_replicate, smul_eq_mul, mul_comm]
  simp only [State.reportPayload, List.length_append, hhatches, length_be16, List.length_cons,
    List.length_nil]

/-! ### The transmitter -/

/-- The transmitter after a change `f` of the line, which leaves the payload of a REPORT as it was. -/
theorem transmit_updLine {s : State} {l : Nat} {ln : Line} (hl : s.line? l = some ln) (f : Line → Line)
    (hf : ∀ x, (f x).num = x.num) :
    OnlyLines s ((s.updLine l f).transmit l) ∧ SameOtherLines s l ((s.updLine l f).transmit l) ∧
      ((s.updLine l f).transmit l).line? l = some ((f ln).nextFrame s.report) := by
  refine ⟨rfl, ⟨fun k hk => ?_⟩, ?_⟩
  · exact ((transmit_others (s.updLine l f) l).same k hk).trans (line?_updLine_ne s l k hk f hf)
  · rw [line?_transmit_same, line?_updLine_same s l f hf, hl]
    rfl

section
variable {r : Frame} {ln : Line}

theorem nextFrame_of_busy (h : ln.tx.isSome = true) : ln.nextFrame r = ln := if_pos h

theorem nextFrame_of_report (htx : ln.tx = none) (hlink : ln.link = .active)
    (hdue : ln.reportIsDue = true) : ln.nextFrame r = { ln with tx := some r, reportIsDue := false } := by
  simp [Line.nextFrame, htx, hlink, hdue]

theorem nextFrame_of_down (hlink : ln.link = .down) : ln.nextFrame r = ln := by
  simp [Line.nextFrame, hlink]

variable (htx : ln.tx = none) (hdue : ln.reportIsDue = false)
include htx hdue

theorem nextFrame_of_answer (hlink : ln.link ≠ .down) (hoff : ln.link ≠ .off) {a : Answer}
    {rest : List Answer} (hq : ln.queue = a :: rest) {x : Result} (ha : a.result = some x) :
    ln.nextFrame r = { ln with tx := some (a.frame x), queue := rest } := by
  have hopen : ln.link = .active ∨ ln.link = .awaiting := by
    cases h : ln.link <;> simp_all
  simp [Line.nextFrame, htx, hdue, hopen, hq, ha]

theorem nextFrame_of_held (h : ∀ a ∈ ln.queue.head?, a.result = none) : ln.nextFrame r = ln := by
  unfold Line.nextFrame
  cases hq : ln.queue with
  | nil => simp [htx, hdue]
  | cons a rest =>
    have ha : a.result = none := h a (by simp [hq])
    simp [htx, hdue, ha]

end

theorem reportDue_nextFrame (r : Frame) (ln : Line) : (ln.nextFrame r).reportIsDue = ln.reportIsDue ∨
    (ln.link = .active ∧ ln.reportIsDue = true) := by
  by_cases h : ln.link = .active ∧ ln.reportIsDue = true
  · exact .inr h
  · refine .inl ?_
    unfold Line.nextFrame
    rw [if_neg h]
    repeat' split
    all_goals rfl

/-! ### The REPORT timer and the end of a frame -/

section
variable {s : State} {l : Nat} {ln : Line} (hl : s.line? l = some ln)
include hl

theorem reportFallsDue_of_due {t0 : Nat} (hlink : ln.link = .active) (ht : ln.reportAt = some t0)
    (hdue : t0 ≤ s.now) : s.reportFallsDue l =
      (s.updLine l fun x => { x with reportAt := some (t0 + 500), reportIsDue := true }).transmit l := by
  simp only [State.reportFallsDue, hl, ht, hlink, hdue, and_self, if_true]

theorem reportFallsDue_of_early (h : (∀ t ∈ ln.reportAt, s.now < t) ∨ ln.link ≠ .active) :
    s.reportFallsDue l = s := by
  cases ht : ln.reportAt with
  | none => simp only [State.reportFallsDue, hl, ht]
  | some t =>
    have hno : ¬(ln.link = .active ∧ t ≤ s.now) := fun ⟨hlink, hle⟩ =>
      h.elim (fun h => Nat.not_le.mpr (h t ht) hle) (· hlink)
    simp only [State.reportFallsDue, hl, ht, if_neg hno]

end

section
variable {s : State} {l : Nat} {ln : Line} (hs : Hears s l ln) (dt : Nat)
include hs

theorem exec_reportDue : exec (.reportDue dt l) s = .next ((s.advance dt).reportFallsDue l) :=
  onLine_of_hears hs dt fun x => x.reportFallsDue l

theorem exec_frameSent : exec (.frameSent dt l) s = .next ((s.advance dt).frameEnds l) :=
  onLine_of_hears hs dt fun x => x.frameEnds l

end

/-- Settles O12, by the choice of the transmitter. -/
theorem reportsAndFrames : Obligations.ReportsAndFrames := by
  unfold Obligations.ReportsAndFrames
  refine ⟨reportPayload_eq, fun s dt l ln hs => ?_⟩
  have hline : (s.advance dt).line? l = some ln := hs.line? dt
  have hnow := advance_now hs.1 dt
  have hoff : ln.link ≠ .off := hs.2.2.2.2
  have hpayload : ∀ t : State, (∃ q, some t.report = some ⟨kindReport, q, t.reportPayload⟩) :=
    fun t => ⟨_, rfl⟩
  refine ⟨fun t0 hlink ht hdue => ?_, fun h => ?_, ?_, length_reportPayload _⟩
  · obtain ⟨honly, hothers, hm⟩ := transmit_updLine hline
      (fun x => { x with reportAt := some (t0 + 500), reportIsDue := true }) (by intro; rfl)
    rw [exec_reportDue hs, reportFallsDue_of_due hline hlink ht (hnow ▸ hdue)]
    cases htx : ln.tx with
    | some f =>
      have hbusy := hm.trans (congrArg some (nextFrame_of_busy (by simp [htx])))
      exact ⟨_, _, rfl, honly, ⟨hothers.same⟩, hbusy, rfl, fun _ => ⟨htx, rfl⟩, fun h => nomatch h⟩
    | none =>
      have hreport := hm.trans (congrArg some (nextFrame_of_report htx hlink rfl))
      exact ⟨_, _, rfl, honly, ⟨hothers.same⟩, hreport, rfl,
        fun h => absurd h Bool.false_ne_true, fun _ => ⟨rfl, hpayload _⟩⟩
  · rw [exec_reportDue hs, reportFallsDue_of_early hline (hnow ▸ h)]
  · obtain ⟨honly, hothers, hm⟩ := transmit_updLine hline (fun x => { x with tx := none })
      (by intro; rfl)
    refine ⟨_, _, exec_frameSent hs dt, honly, ⟨hothers.same⟩, hm, ?_, fun hlink hdue => ?_,
      fun h => ⟨?_, fun a rest hq r hr hd => ?_⟩, fun h => ?_⟩
    · exact nextFrame_rest _ _
    · rw [nextFrame_of_report (ln := { ln with tx := none }) rfl hlink hdue]
      exact ⟨rfl, rfl, hpayload _⟩
    · exact (reportDue_nextFrame _ _).elim id fun ⟨hlink, hdue⟩ =>
        (h.elim (fun hd => nomatch hd.symm.trans hlink) fun hn => nomatch hn.symm.trans hdue)
    · rw [nextFrame_of_answer (ln := { ln with tx := none }) rfl (h.resolve_left hd) hd hoff hq hr]
      exact ⟨rfl, rfl⟩
    · obtain hd | ⟨hdue, hheld⟩ := h
      · rw [nextFrame_of_down (ln := { ln with tx := none }) hd]
        exact ⟨rfl, rfl⟩
      · rw [nextFrame_of_held (ln := { ln with tx := none }) rfl hdue hheld]
        exact ⟨rfl, rfl⟩

end Sys2Proof.Machine

/-! A hatch record brought up to date (R6 to R16, R18) and the alarms that follow it (R11, R133). -/

namespace Sys2Proof.Machine

section
variable (s : State) (hr : Hatch)

theorem allQualified_iff (h : Nat) : s.allQualified h = true ↔ ∀ p ∈ s.points, p.subject = h →
    p.role.isPanelInput = true ∨ p.role.isCleatInput = true → p.qual ≠ none := by
  simp only [State.allQualified, List.all_eq_true, Bool.or_eq_true, Bool.not_eq_true',
    Bool.and_eq_false_iff, Option.isSome_iff_ne_none, Bool.or_eq_false_iff, beq_eq_false_iff_ne]
  refine forall₂_congr fun p _ => ?_
  cases p.role.isPanelInput <;> cases p.role.isCleatInput <;> by_cases hk : p.subject = h <;> simp [hk]

theorem allOnline_iff (h : Nat) : s.allOnline h = true ↔
    ∀ p ∈ s.points, p.role.isHatch = true → p.subject = h → s.nodeOnline p.node = true := by
  simp only [State.allOnline, List.all_eq_true, Bool.or_eq_true, Bool.not_eq_true',
    Bool.and_eq_false_iff, beq_eq_false_iff_ne]
  refine forall₂_congr fun p _ => ?_
  cases p.role.isHatch <;> by_cases hk : p.subject = h <;> simp [hk]

theorem stale_deriveHatch : (s.deriveHatch hr).stale = false ↔ s.allQualified hr.num = true ∧
    ∀ p ∈ s.points, p.role.isHatch = true → p.subject = hr.num → s.nodeOnline p.node = true := by
  rw [← allOnline_iff]
  simp [State.deriveHatch]

theorem engaged_deriveHatch : (s.deriveHatch hr).engaged =
    ((s.deriveHatch hr).cleats.filter fun c => c.st = .engaged).length := by
  refine congrArg List.length (List.filter_congr fun c _ => ?_)
  rw [Bool.eq_iff_iff, beq_iff_eq, decide_eq_true_iff]

theorem disagree_deriveHatch : (s.deriveHatch hr).disagree = true ↔
    ∃ c ∈ (s.deriveHatch hr).cleats, c.st = .disagree := by
  refine List.any_eq_true.trans (exists_congr fun c => and_congr_right fun _ => ?_)
  exact beq_iff_eq

/-! ### Panels (R12) -/

theorem travel_derivePanel (h : Nat) (cover : Cover) (i : Nat) :
    (s.derivePanel h cover i).travel = match s.qual .panelClosed h i,
        s.qual (if cover = .roll then .panelOpen else .panelFolded) h i with
      | some true, some false => .closed
      | some false, some true => if cover = .roll then .opened else .folded
      | some false, some false => .mid
      | some true, some true => .conflict
      | _, _ => .unknown := by
  cases cover <;> rfl

theorem lift_derivePanel (h i : Nat) : (s.derivePanel h .roll i).lift =
    match s.qual .panelLifted h i, s.qual .panelLowered h i with
      | some true, some false => .lifted
      | some false, some true => .lowered
      | some false, some false => .mid
      | some true, some true => .conflict
      | _, _ => .unknown := rfl

/-! ### Positions (R13, R14) -/

theorem allEngaged_iff : ((s.deriveHatch hr).cleats.all fun c => c.st == .engaged) = true ↔
    ∀ c ∈ (s.deriveHatch hr).cleats, c.st = .engaged := by
  simp only [List.all_eq_true, beq_iff_eq]

/-- A hatch closed on every side is SECURED or SEATED. -/
theorem secured_or_seated {A E : Prop} [Decidable A] [Decidable E] {q : Position} :
    (if A then (if E then Position.secured else .seated) else q) =
      if A ∧ E then .secured else if A then .seated else q := by
  by_cases hA : A <;> by_cases hE : E <;> simp [hA, hE]

theorem position_of_unqualified (hq : s.allQualified hr.num = false) :
    (s.deriveHatch hr).position = .unknown := by
  simp [State.deriveHatch, hq]

variable {s hr}

theorem position_of_roll (hq : s.allQualified hr.num = true) (hc : hr.cover = .roll) :
    (s.deriveHatch hr).position = rollPosition (s.deriveHatch hr).panel1.travel
      (s.deriveHatch hr).panel2.travel (s.deriveHatch hr).panel1.lift (s.deriveHatch hr).panel2.lift
      ((s.deriveHatch hr).cleats.all fun c => c.st == .engaged) (s.deriveHatch hr).stale := by
  simp only [State.deriveHatch, hq, hc, Bool.not_true, Bool.false_eq_true, if_false]

theorem position_of_fold (hq : s.allQualified hr.num = true) (hc : hr.cover = .fold) :
    (s.deriveHatch hr).position = foldPosition (s.deriveHatch hr).panel1.travel
      (s.deriveHatch hr).panel2.travel ((s.deriveHatch hr).cleats.all fun c => c.st == .engaged)
      (s.deriveHatch hr).stale := by
  simp only [State.deriveHatch, hq, hc, Bool.not_true, Bool.false_eq_true, if_false]

/-! ### Cleats (R6 to R9) -/

theorem dirOf_eq_release_iff (g : Nat) : hr.dirOf g = .release ↔
    (findKey Group.num g hr.groups).map Group.dir = some .release := by
  unfold Hatch.dirOf
  cases findKey Group.num g hr.groups <;> simp

theorem staleAt_eq_true_iff {r : Role} {h i : Nat} {v : Bool} (hq : s.qual r h i = some v) :
    s.staleAt r h i = true ↔ (s.point? r h i).map Point.stale = some true := by
  unfold State.qual at hq
  unfold State.staleAt
  cases hp : s.point? r h i with
  | none => simp [hp] at hq
  | some p => simp

theorem nextDwell_eq (now : Nat) (dir : Direction) (eng : Option Bool) (stale : Bool) (d : Dwell) :
    nextDwell now dir eng stale d =
      if eng = some false ∧ dir = .release then
        if d = .complete then .complete
        else if stale = true then .idle
        else if d = .idle then .running now else d
      else .idle := by
  unfold nextDwell
  cases d <;> cases stale <;> simp

theorem nextDwell_eq_complete_iff (now : Nat) (dir : Direction) (stale : Bool) (d : Dwell) :
    nextDwell now dir (some false) stale d = .complete ↔ d = .complete ∧ dir = .release := by
  rw [nextDwell_eq]
  cases d <;> cases stale <;> cases dir <;> simp

theorem deriveCleat_eq (c : Cleat) : s.deriveCleat hr c = { c with
    dwell :=
      if c.hasReleased = false ∧ s.qual .cleatEngaged hr.num c.num = some false ∧
          (findKey Group.num c.group hr.groups).map Group.dir = some .release then
        if c.dwell = .complete then .complete
        else if (s.point? .cleatEngaged hr.num c.num).map Point.stale = some true then .idle
        else if c.dwell = .idle then .running s.now else c.dwell
      else .idle
    st :=
      if c.hasReleased = true then
        match s.qual .cleatEngaged hr.num c.num, s.qual .cleatReleased hr.num c.num with
        | some true, some false => .engaged
        | some false, some true => .released
        | some false, some false => .between
        | some true, some true => .disagree
        | _, _ => .unknown
      else
        match s.qual .cleatEngaged hr.num c.num with
        | none => .unknown
        | some true => .engaged
        | some false =>
          if c.dwell = .complete ∧
            (findKey Group.num c.group hr.groups).map Group.dir = some .release then .released
          else .between } := by
  simp only [← dirOf_eq_release_iff]
  unfold State.deriveCleat
  cases hrel : c.hasReleased with
  | true => rfl
  | false =>
    cases heng : s.qual .cleatEngaged hr.num c.num with
    | none => simp [nextDwell_eq, cleatOneSensor]
    | some v =>
      cases v with
      | true => simp [nextDwell_eq, cleatOneSensor]
      | false =>
        simp only [Bool.false_eq_true, if_false, cleatOneSensor, nextDwell_eq_complete_iff]
        simp only [nextDwell_eq, staleAt_eq_true_iff heng, true_and]

end

/-! ### The record and the alarms that follow it (R11, R15, R133) -/

theorem setAlarm_eq (s : State) (b : Bool) (c : AlarmCode) (sub : Subject) : s.setAlarm b c sub =
    { s with alarms := if b = true then s.alarms.raise c sub s.runningTime
      else s.alarms.clear c sub } := by
  cases b <;> rfl

/-- SENSOR_DISAGREE follows the disagreement flag (R11). -/
def followDisagree (time : Nat) (old new : Hatch) (al : AlarmList) : AlarmList :=
  if old.disagree = new.disagree then al
  else if new.disagree = true then al.raise .sensorDisagree (.hatch old.num) time
  else al.clear .sensorDisagree (.hatch old.num)

theorem followAlarms_eq (sea : Prop) [Decidable sea] (time : Nat) (old new : Hatch) (al : AlarmList) :
    followAlarms sea time old new al =
      if sea ∧ (old.position == .secured) ≠ (new.position == .secured) then
        if (!(new.position == .secured)) = true then
          (followDisagree time old new al).raise .hatchUnsecuredAtSea (.hatch old.num) time
        else (followDisagree time old new al).clear .hatchUnsecuredAtSea (.hatch old.num)
      else followDisagree time old new al := by
  unfold followAlarms
  by_cases hs : sea <;> by_cases ho : old.position = .secured <;>
    by_cases hn : new.position = .secured <;> simp [hs, ho, hn, followDisagree]

theorem refresh_eq {s : State} {h : Nat} {hr : Hatch} (hh : s.hatch? h = some hr) : s.refresh h =
    { s with
      hatches := s.hatches.map fun x => if x.num = h then s.deriveHatch hr else x
      alarms := followAlarms (s.mode = .sea) s.runningTime hr (s.deriveHatch hr) s.alarms } := by
  obtain rfl : hr.num = h := findKey_key (key := Hatch.num) hh
  have hput : (s.updHatch hr.num fun _ => s.deriveHatch hr) = { s with
      hatches := s.hatches.map fun x => if x.num = hr.num then s.deriveHatch hr else x } := by
    rw [State.updHatch, updateKey_eq]
  have hdisagree : (if (s.deriveHatch hr).disagree = hr.disagree then
        (s.updHatch hr.num fun _ => s.deriveHatch hr)
      else (s.updHatch hr.num fun _ => s.deriveHatch hr).setAlarm (s.deriveHatch hr).disagree
        .sensorDisagree (.hatch hr.num)) = { s with
      hatches := s.hatches.map fun x => if x.num = hr.num then s.deriveHatch hr else x
      alarms := followDisagree s.runningTime hr (s.deriveHatch hr) s.alarms } := by
    unfold followDisagree
    by_cases hd : (s.deriveHatch hr).disagree = hr.disagree
    · rw [if_pos hd, if_pos hd.symm, hput]
    · rw [if_neg hd, if_neg (Ne.symm hd), hput, setAlarm_eq]
      rfl
  simp only [State.refresh, hh]
  rw [hdisagree, followAlarms_eq]
  split
  · rw [setAlarm_eq]
    rfl
  · rfl

/-- Settles O18, table by table. -/
theorem positionFollowsTheTables : Obligations.PositionFollowsTheTables := by
  unfold Obligations.PositionFollowsTheTables
  refine ⟨?_, fun s h hr hh => refresh_eq hh⟩
  rintro s hr t rfl
  refine ⟨allQualified_iff s hr.num, stale_deriveHatch s hr, engaged_deriveHatch s hr,
    disagree_deriveHatch s hr, rfl, ?_, ?_, ?_, List.map_congr_left fun c _ => deriveCleat_eq c⟩
  · intro q hq
    simp only [List.mem_cons, List.not_mem_nil, or_false] at hq
    have lift : hr.cover = .roll → ∀ i, (s.derivePanel hr.num hr.cover i).lift =
        (s.derivePanel hr.num .roll i).lift := fun hc i => by rw [hc]
    obtain rfl | rfl := hq
    · exact ⟨travel_derivePanel .., fun hc => (lift hc 1).trans (lift_derivePanel s hr.num 1)⟩
    · exact ⟨travel_derivePanel .., fun hc => (lift hc 2).trans (lift_derivePanel s hr.num 2)⟩
  · intro T1 T2 L1 L2 h1 h2 hc
    by_cases hq : s.allQualified hr.num = true
    · rw [position_of_roll hq hc, h1, h2, if_neg (by simp [hq]), rollPosition, secured_or_seated]
      simp only [allEngaged_iff, Bool.not_eq_true, and_assoc]
    · rw [Bool.not_eq_true] at hq
      rw [position_of_unqualified s hr hq, if_pos hq]
  · intro T1 T2 h1 h2 hc
    by_cases hq : s.allQualified hr.num = true
    · rw [position_of_fold hq hc, h1, h2, if_neg (by simp [hq]), foldPosition, secured_or_seated]
      simp only [allEngaged_iff, Bool.not_eq_true, and_assoc]
    · rw [Bool.not_eq_true] at hq
      rw [position_of_unqualified s hr hq, if_pos hq]

end Sys2Proof.Machine

/-! A new budget: what is shed, and that the granted demands stay within it (R57, R74, R75, R86). -/

namespace Sys2Proof.Machine

/-! ### Grants only go -/

/-- B and MaxB stand, and no grant comes or changes. -/
structure Frees (s t : State) : Prop extends SameBudget s t where
  granted : t.granted.Sublist s.granted

theorem Frees.refl (s : State) : Frees s s := ⟨.refl s, .refl _⟩

theorem Frees.trans {s t u : State} (h : Frees s t) (k : Frees t u) : Frees s u :=
  ⟨h.toSameBudget.trans k.toSameBudget, k.granted.trans h.granted⟩

/-- A change of fields that are neither B, MaxB nor the granted set. -/
theorem Frees.of_fields {s t : State} (hb : t.budget = s.budget := by rfl)
    (hm : t.maxB = s.maxB := by rfl) (hg : t.granted = s.granted := by rfl) : Frees s t :=
  ⟨⟨hb, hm⟩, hg ▸ .refl _⟩

theorem SameBudget.frees {s t : State} (h : SameBudget s t) (hg : t.granted = s.granted) :
    Frees s t :=
  ⟨h, hg ▸ .refl _⟩

theorem frees_endMotion (s : State) (o : Op) : Frees s (s.endMotion o) := by
  refine ⟨?_, granted_endMotion s o ▸ List.filter_sublist⟩
  rw [endMotion_keeps]
  exact ⟨rfl, rfl⟩

theorem frees_haltOp (s : State) (h : Nat) (st : OpState) (r : Option HaltReason)
    (f : Option FaultKind) : Frees s (s.haltOp h st r f) := by
  unfold State.haltOp
  split
  · exact .refl s
  · next o ho =>
    dsimp only
    split
    · exact (frees_endMotion s o).trans .of_fields
    · have hdrop : Frees s (s.dropEntry h) := by
        refine SameBudget.frees ?_ (granted_dropEntry s h)
        rw [dropEntry_eq]
        exact ⟨rfl, rfl⟩
      exact hdrop.trans .of_fields
    · exact .refl s

theorem frees_visitEntry (s : State) (e : Entry) : Frees s (s.visitEntry e) := by
  unfold State.visitEntry
  split
  · exact frees_haltOp ..
  · exact frees_haltOp ..
  · exact .of_fields

theorem frees_removalPass (s : State) : Frees s s.removalPass := by
  unfold State.removalPass
  generalize s.queue = q
  induction q generalizing s with
  | nil => exact .refl s
  | cons e q ih => exact (frees_visitEntry s e).trans (ih _)

theorem granted_offerFrom (s : State) (hr : Hatch) (closing : Bool) (prog : List Step) :
    (s.offerFrom hr closing prog).granted = s.granted := by
  induction prog with
  | nil => rfl
  | cons st rest ih =>
    unfold State.offerFrom
    split
    · exact ih
    · dsimp only
      split
      · rfl
      · split
        · rfl
        · rfl

theorem frees_testTarget (s : State) (h : Nat) : Frees s (s.testTarget h) := by
  refine ⟨sameBudget_testTarget s h, ?_⟩
  unfold State.testTarget
  split
  · split
    · split
      · unfold State.complete
        split
        · rw [granted_offerFrom]
          exact (frees_endMotion ..).granted
        · exact .refl _
      · exact .refl _
    · exact .refl _
  · exact .refl _

theorem granted_refresh (s : State) (h : Nat) : (s.refresh h).granted = s.granted := by
  cases hh : s.hatch? h with
  | none => simp [State.refresh, hh]
  | some hr => rw [refresh_eq hh]

theorem granted_recordDirection (s : State) (h : Nat) (st : Step) :
    (s.recordDirection h st).granted = s.granted := by
  unfold State.recordDirection
  split
  · rfl
  · rw [granted_refresh]
    rfl

theorem frees_takeGrant (s : State) (g : Grant) : Frees s (s.takeGrant g) := by
  unfold State.takeGrant
  split
  · exact .refl s
  · next hr hh =>
    dsimp only
    let begun := (s.updOp g.hatch fun o =>
      { o with st := .moving, start := some s.now, watch := none }).clearAlarm .stall (.hatch g.hatch)
    have hbegun : Frees s begun := .of_fields
    have hopen : Frees begun (begun.openValves hr g.step g.setpoint) :=
      (sameBudget_openValves ..).frees (by rw [openValves_eq])
    have hdirect := (hbegun.trans hopen).trans
      ((sameBudget_recordDirection _ g.hatch g.step).frees (granted_recordDirection ..))
    have hclass : Frees s (((begun.openValves hr g.step g.setpoint).recordDirection g.hatch
        g.step).classifierStart g.hatch) := hdirect.trans .of_fields
    exact hclass.trans (frees_testTarget ..)

/-! ### The granted demands stay within the budget -/

/-- The granted demands sum to no more than B (R86). -/
def State.Within (s : State) : Prop := grantedSum s.granted ≤ s.budget

theorem Frees.within {s t : State} (h : Frees s t) (hs : s.Within) : t.Within := by
  unfold State.Within grantedSum at *
  have hle := (h.granted.map Grant.demand).sum_le_sum fun _ _ => Nat.zero_le _
  rw [h.budget]
  exact hle.trans hs

theorem within_grantHead {s : State} (hs : s.Within) (e : Entry) {d : Nat} (hd : d ≤ s.freeFlow)
    (speed : Nat) (clamped : Bool) : (s.grantHead e d speed clamped).Within := by
  refine (frees_takeGrant ..).within ?_
  unfold State.Within State.freeFlow at *
  rw [grantedSum_append]
  exact Nat.add_le_of_le_sub' hs hd

theorem sameBudget_grantHead (s : State) (e : Entry) (d speed : Nat) (clamped : Bool) :
    SameBudget s (s.grantHead e d speed clamped) := by
  unfold State.grantHead
  refine SameBudget.trans ?_ (sameBudget_takeGrant ..)
  exact ⟨rfl, rfl⟩

theorem frees_startPump (s : State) : Frees s s.startPump := by
  rw [startPump_eq]
  exact .of_fields

theorem within_evalLoop (n : Nat) {s : State} (hs : s.Within) :
    SameBudget s (State.evalLoop n s) ∧ (State.evalLoop n s).Within := by
  induction n generalizing s with
  | zero => exact ⟨.refl s, hs⟩
  | succ n ih =>
    have hpass := frees_removalPass s
    have hwithin := hpass.within hs
    unfold State.evalLoop
    dsimp only
    split
    · exact ⟨hpass.toSameBudget, hwithin⟩
    · next e rest hq =>
      split
      · next d speed clamped hoffer =>
        split
        · next hd =>
          obtain ⟨hsame, hw⟩ := ih (within_grantHead hwithin e hd speed clamped)
          exact ⟨(hpass.toSameBudget.trans (sameBudget_grantHead ..)).trans hsame, hw⟩
        · have hnoted : Frees s (s.removalPass.noteEntry e.hatch d true).startPump := by
            refine (hpass.trans ?_).trans (frees_startPump _)
            exact .of_fields
          exact ⟨hnoted.toSameBudget, hnoted.within hs⟩
      · exact ⟨hpass.toSameBudget, hwithin⟩

theorem within_evaluate {s : State} (hs : s.Within) : SameBudget s s.evaluate ∧ s.evaluate.Within :=
  within_evalLoop _ hs

/-! ### Sheds -/

theorem sameBudget_shedLoop (gs : List Grant) (s : State) : SameBudget s (State.shedLoop gs s) := by
  induction gs generalizing s with
  | nil => exact .refl s
  | cons g gs ih =>
    unfold State.shedLoop
    split
    · exact .refl s
    · refine SameBudget.trans ⟨(shedOne_flow s g).1, ?_⟩ (ih _)
      rw [State.shedOne, State.takeShed, shutValves_eq]
      rfl

/-- Marking the records of one key and then those of others marks them all. -/
theorem map_mark {α : Type} (key : α → Nat) (f : α → α) (hkey : ∀ x, key (f x) = key x)
    (hf : ∀ x, f (f x) = f x) (n : Nat) (ns : List Nat) (l : List α) :
    (l.map fun x => if key x = n then f x else x).map (fun x => if key x ∈ ns then f x else x) =
      l.map fun x => if key x ∈ ns ++ [n] then f x else x := by
  rw [List.map_map]
  refine List.map_congr_left fun x _ => ?_
  simp only [Function.comp_apply, List.mem_append, List.mem_singleton]
  by_cases hn : key x = n
  · simp [hn, hkey, hf]
  · simp [hn]

/-- From `s` to `u` the grants `shed` are shed, the last one first (R57, R86). -/
structure Sheds (s : State) (shed : List Grant) (u : State) : Prop where
  rest : u = { s with
    granted := u.granted
    queue := shed.foldr (fun g q => insertEntry g.back q) s.queue
    ops := s.ops.map fun o =>
      if o.hatch ∈ shed.map Grant.hatch then { o with st := .queued, start := none } else o
    hatches := s.hatches.map fun hr =>
      if hr.num ∈ shed.map Grant.hatch then { hr with classifier := .idle } else hr
    nodes := u.nodes }
  still : u.nodes.map Node.still = s.nodes.map Node.still
  shut : ∀ g ∈ shed, ValvesShut s u g.hatch g.step
  other : ∀ a k, (∀ g ∈ shed, ¬s.IsValveOf g.hatch g.step a k) → u.outAt a k = s.outAt a k

theorem Sheds.nil (s : State) : Sheds s [] s := by
  refine ⟨?_, rfl, nofun, fun _ _ _ => rfl⟩
  simp

theorem sheds_shedOne (s : State) (g : Grant) : Sheds s [g] (s.shedOne g) := by
  have hnodes : (s.shedOne g).nodes = (State.shutValves { s with
      granted := s.granted.filter fun x => x.hatch != g.hatch
      queue := insertEntry g.back s.queue } g.hatch g.step).nodes := rfl
  obtain ⟨hshut, hother⟩ := stepShut_shutValves { s with
    granted := s.granted.filter fun x => x.hatch != g.hatch
    queue := insertEntry g.back s.queue } g.hatch g.step
  refine ⟨?_, (onlyMotion_shedOne s g).nodes, fun x hx i hi role hr p hp => ?_, fun a k hn => ?_⟩
  · obtain ⟨hq, -, ho, -⟩ := shedOne_lists s g
    have hkeeps : s.shedOne g = { s with
        granted := (s.shedOne g).granted
        queue := (s.shedOne g).queue
        ops := (s.shedOne g).ops
        hatches := (s.updHatch g.hatch fun x => { x with classifier := .idle }).hatches
        nodes := (s.shedOne g).nodes } := by
      rw [State.shedOne, State.takeShed, shutValves_eq]
      rfl
    rw [hkeeps, hq, ho]
    simp only [updOp_ops, updHatch_hatches, updateKey_eq, List.map_cons, List.map_nil,
      List.mem_singleton]
    rfl
  · obtain rfl := List.mem_singleton.mp hx
    exact (outAt_of_nodes hnodes ..).trans (hshut i hi role hr p hp)
  · exact (outAt_of_nodes hnodes a k).trans (hother a k (hn g (List.mem_singleton_self g)))

theorem Sheds.points {s u : State} {shed : List Grant} (h : Sheds s shed u) :
    u.points = s.points := by
  rw [h.rest]

/-- A shed before others, which raise no output. -/
theorem Sheds.append {s t u : State} {shed : List Grant} {g : Grant} (h : Sheds s [g] t)
    (k : Sheds t shed u) (hl : Lowers t u) : Sheds s (shed ++ [g]) u := by
  have hvalve : ∀ (x : Grant) a j,
      t.IsValveOf x.hatch x.step a j ↔ s.IsValveOf x.hatch x.step a j :=
    fun x a j => by simp only [State.IsValveOf, State.point?, h.points]
  have hq : t.queue = insertEntry g.back s.queue := by rw [h.rest]; rfl
  refine ⟨?_, k.still.trans h.still, fun x hx i hi role hr p hp => ?_, fun a j hn => ?_⟩
  · have ho : t.ops = s.ops.map fun o =>
        if o.hatch = g.hatch then { o with st := .queued, start := none } else o := by
      rw [h.rest]
      simp
    have hh : t.hatches = s.hatches.map fun hr =>
        if hr.num = g.hatch then { hr with classifier := .idle } else hr := by
      rw [h.rest]
      simp
    have hu := k.rest
    rw [hq, ho, hh, map_mark Op.hatch (fun o => { o with st := .queued, start := none }) (by intro; rfl)
        (by intro; rfl),
      map_mark Hatch.num (fun hr => { hr with classifier := .idle }) (by intro; rfl)
        (by intro; rfl)] at hu
    rw [hu, h.rest]
    simp only [List.foldr_append, List.map_append, List.foldr_cons, List.foldr_nil, List.map_cons,
      List.map_nil]
  · have hp' : t.point? role x.hatch i = some p := by
      rw [← hp, State.point?, State.point?, h.points]
    obtain hx | hx := List.mem_append.mp hx
    · exact k.shut x hx i hi role hr p hp'
    · exact hl.outs _ _ (h.shut x hx i hi role hr p hp)
  · refine (k.other a j fun x hx hv => ?_).trans (h.other a j fun x hx => ?_)
    · exact hn x (List.mem_append_left _ hx) ((hvalve x a j).mp hv)
    · exact hn x (List.mem_append_right _ hx)

/-- The sheds of a new budget take the newest grants, and no more than it takes (R57, R86). -/
theorem shedLoop_split (gs : List Grant) {s : State} (hg : s.granted = gs.reverse)
    (hn : (gs.map Grant.hatch).Nodup) : ∃ kept shed : List Grant, s.granted = kept ++ shed ∧
      grantedSum kept ≤ s.budget ∧ (∀ g ∈ shed.head?, s.budget < grantedSum (kept ++ [g])) ∧
      (State.shedLoop gs s).granted = kept ∧ Sheds s shed (State.shedLoop gs s) := by
  induction gs generalizing s with
  | nil => exact ⟨[], [], hg, Nat.zero_le _, nofun, hg, .nil s⟩
  | cons g gs ih =>
    rw [List.reverse_cons] at hg
    obtain ⟨hnew, hn⟩ := List.nodup_cons.mp hn
    by_cases hfit : grantedSum s.granted ≤ s.budget
    · simp only [State.shedLoop, if_pos hfit]
      exact ⟨s.granted, [], (List.append_nil _).symm, hfit, nofun, rfl, .nil s⟩
    · simp only [State.shedLoop, if_neg hfit]
      have hleft : (s.shedOne g).granted = gs.reverse := by
        rw [(shedOne_lists s g).2.1, hg, List.filter_append, List.filter_eq_self.mpr, List.filter_cons_of_neg,
          List.filter_nil, List.append_nil]
        · simp
        · exact fun x hx => bne_iff_ne.mpr fun e =>
            hnew (e ▸ List.mem_map_of_mem (List.mem_reverse.mp hx))
      obtain ⟨kept, shed, hsplit, hsum, hmin, hkept, hsheds⟩ := ih hleft hn
      have hb := (shedOne_flow s g).1
      rw [hb] at hsum hmin
      refine ⟨kept, shed ++ [g], ?_, hsum, ?_, hkept,
        (sheds_shedOne s g).append hsheds (lowers_shedLoop ..)⟩
      · rw [hg, ← hleft, hsplit, List.append_assoc]
      · cases shed with
        | nil =>
          intro x hx
          obtain rfl : g = x := Option.some.inj hx
          rw [List.append_nil, hleft] at hsplit
          rw [← hsplit, ← hg]
          exact Nat.lt_of_not_le hfit
        | cons y ys => exact hmin

theorem computeB_eq (s : State) : s.computeB =
    ((s.pumps.filter fun p => p.st = .running).map Pump.flow).sum *
      (match s.band with | .cold => 60 | .normal => 100 | .warm => 85 | .hot => 0) / 100 -
      (match s.inForce with | some c => itemNat c 11 0 | none => 0) := by
  have hfilter : s.pumps.filter (fun p => p.st == .running) =
      s.pumps.filter fun p => p.st = .running := by
    refine List.filter_congr fun p _ => ?_
    cases p.st <;> rfl
  rw [State.computeB, qRun, hfilter, State.reserve, Band.factor.eq_def]
  rfl

/-! ### The temperature band -/

theorem enterBand_eq (s : State) (b : Band) : s.enterBand b = { s with
    band := b
    alarms := if b = .hot then s.alarms.raise .oilHot .powerPack s.runningTime
      else if s.band = .hot then s.alarms.clear .oilHot .powerPack else s.alarms } := by
  unfold State.enterBand
  split
  · rfl
  · split
    · rfl
    · rfl

theorem isThermostat_iff {r : Role} :
    r.isThermostat = true ↔ r = .oilCold ∨ r = .oilWarm ∨ r = .oilHot := by
  cases r <;> decide

/-- The band with its conditions written out (R74). -/
theorem deriveBand_eq (s : State) : s.deriveBand =
    if ∀ p ∈ s.points, p.role ≠ .oilCold ∧ p.role ≠ .oilWarm ∧ p.role ≠ .oilHot then .normal
    else if ∃ p ∈ s.points,
      (p.role = .oilCold ∨ p.role = .oilWarm ∨ p.role = .oilHot) ∧ p.stale = true then .cold
    else if s.qual .oilHot 0 0 = some true then .hot
    else if s.qual .oilWarm 0 0 = some true then .warm
    else if s.qual .oilCold 0 0 = some true then .cold
    else .normal := by
  have hbound : (s.points.filter fun p => p.role.isThermostat).isEmpty = true ↔
      ∀ p ∈ s.points, p.role ≠ .oilCold ∧ p.role ≠ .oilWarm ∧ p.role ≠ .oilHot := by
    simp only [List.isEmpty_iff, List.filter_eq_nil_iff, isThermostat_iff, not_or, ne_eq]
  have hstale : (s.points.filter fun p => p.role.isThermostat).any Point.stale = true ↔
      ∃ p ∈ s.points,
        (p.role = .oilCold ∨ p.role = .oilWarm ∨ p.role = .oilHot) ∧ p.stale = true := by
    simp only [List.any_eq_true, List.mem_filter, isThermostat_iff, and_assoc]
  simp only [State.deriveBand, hbound, hstale, State.thermostatOn, beq_iff_eq]

/-- Settles O33, by the sheds of a new budget and an induction on the rounds of the evaluation. -/
theorem budgetIsComputedAndKept : Obligations.BudgetIsComputedAndKept := by
  unfold Obligations.BudgetIsComputedAndKept
  refine ⟨fun s => ?_, fun s hs => ?_, deriveBand_eq, fun s u hu => ⟨fun h => ?_, fun h => ?_⟩⟩
  · obtain ⟨hb, hm⟩ : SameBudget { s with budget := s.computeB, maxB := s.computeMaxB }
        (State.shedLoop s.granted.reverse { s with budget := s.computeB, maxB := s.computeMaxB }) :=
      sameBudget_shedLoop ..
    obtain ⟨⟨hb', hm'⟩, hwithin⟩ := within_evaluate (s := State.shedLoop s.granted.reverse
      { s with budget := s.computeB, maxB := s.computeMaxB })
      (sum_shedLoop _ fun _ hg => List.mem_reverse.mpr hg)
    exact ⟨(hb'.trans hb).trans (computeB_eq s), (hm'.trans hm).trans (computeMaxB_eq s), hwithin,
      onlyMotion_takeBudget s⟩
  · have hnodup : (s.granted.reverse.map Grant.hatch).Nodup := by
      rw [List.map_reverse, List.nodup_reverse]
      exact ((motionOk_iff s).mp hs).granted
    obtain ⟨kept, shed, hsplit, hsum, hmin, hkept, hsheds⟩ := shedLoop_split s.granted.reverse
      (s := { s with budget := s.computeB, maxB := s.computeMaxB })
      (List.reverse_reverse _).symm hnodup
    have hrest := hsheds.rest
    rw [hkept] at hrest
    exact ⟨kept, shed, _, rfl, hsplit, hsum, hmin, hrest, hsheds.still, hsheds.shut, hsheds.other⟩
  · exact if_pos h
  · rw [hu, ← enterBand_eq]
    exact if_neg h

end Sys2Proof.Machine

/-! The dwell of a cleat (R8) and the Engine at a changed hatch record (R54, R55, R62). -/

namespace Sys2Proof.Machine

/-! ### Targets and disagreement (R45, R51) -/

theorem targetHolds_iff (hr : Hatch) (st : Step) : hr.targetHolds st = true ↔ hr.AtTarget st := by
  cases st with
  | releaseGroup g => exact groupReleased_iff hr g
  | engageGroup g => exact groupEngaged_iff hr g
  | lift | lower | travelOpen | travelClose | foldOpen | foldClose =>
    simp [Hatch.targetHolds, Hatch.AtTarget, Step.travelTarget]

theorem groupDisagrees_iff (hr : Hatch) (g : Nat) :
    hr.groupDisagrees g = true ↔ ∃ c ∈ hr.cleats, c.group = g ∧ c.st = .disagree := by
  simp [Hatch.groupDisagrees, Hatch.members]

theorem stepDisagrees_iff (hr : Hatch) (st : Step) :
    hr.stepDisagrees st = true ↔ hr.InDisagreement st := by
  cases st with
  | releaseGroup g => exact groupDisagrees_iff hr g
  | engageGroup g => exact groupDisagrees_iff hr g
  | lift | lower | travelOpen | travelClose | foldOpen | foldClose =>
    simp [Hatch.stepDisagrees, Hatch.InDisagreement]

/-! ### The dwell (R8) -/

theorem dwellDue_iff {c : Cleat} {t0 : Nat} (hd : c.dwell = .running t0) (now : Nat) :
    c.dwellDue now = true ↔ t0 + 1500 ≤ now := by
  simp [Cleat.dwellDue, hd]

theorem dwellDue_of_early {c : Cleat} {now : Nat} (h : ∀ t, c.dwell = .running t → now < t + 1500) :
    c.dwellDue now = false := by
  unfold Cleat.dwellDue
  split
  · next t ht => exact decide_eq_false (Nat.not_le.mpr (h t ht))
  · rfl

theorem exec_dwellComplete {s : State} (hp : s.power = .running) (dt h n : Nat) :
    exec (.dwellComplete dt h n) s = .next ((s.advance dt).completeDwell h n) :=
  congrArg _ (live_of_running hp ..)

/-- The hatch records after the dwell of a cleat has completed. -/
def State.dwelt (s : State) (h n : Nat) : State :=
  s.updHatch h fun x =>
    { x with cleats := updateKey Cleat.num n (fun y => { y with dwell := .complete }) x.cleats }

theorem hatch?_dwelt {s : State} {h : Nat} {hr : Hatch} (hh : s.hatch? h = some hr) (n : Nat) :
    (s.dwelt h n).hatch? h = some { hr with cleats := hr.cleats.map fun x =>
      if x.num = n then { x with dwell := .complete } else x } := by
  rw [State.dwelt, hatch?_updHatch_same _ _ _ (by intro; rfl), hh, Option.map_some, updateKey_eq]

theorem completeDwell_of_due {s : State} {h n : Nat} {hr : Hatch} {c : Cleat}
    (hh : s.hatch? h = some hr) (hc : findKey Cleat.num n hr.cleats = some c)
    (hd : c.dwellDue s.now = true) : s.completeDwell h n = (s.dwelt h n).hatchEvent h := by
  simp only [State.completeDwell, hh, hc, if_pos hd]
  rfl

theorem completeDwell_of_early {s : State} {h n : Nat} {hr : Hatch} {c : Cleat}
    (hh : s.hatch? h = some hr) (hc : findKey Cleat.num n hr.cleats = some c)
    (hd : c.dwellDue s.now = false) : s.completeDwell h n = s := by
  simp [State.completeDwell, hh, hc, hd]

/-- A map that keeps the keys finds the image of the record. -/
theorem findKey_map {α : Type} (key : α → Nat) (f : α → α) (hf : ∀ x, key (f x) = key x) (n : Nat)
    (l : List α) : findKey key n (l.map f) = (findKey key n l).map f := by
  rw [findKey, List.find?_map, findKey]
  simp only [Function.comp_def, hf]

theorem deriveCleat_num (s : State) (hr : Hatch) (c : Cleat) : (s.deriveCleat hr c).num = c.num := by
  rw [deriveCleat_eq]

/-- A cleat whose dwell is complete is released (R7, R8). -/
theorem deriveCleat_of_complete {s : State} {hr : Hatch} {c : Cleat} (hrel : c.hasReleased = false)
    (hd : c.dwell = .complete) (hq : s.qual .cleatEngaged hr.num c.num = some false)
    (hdir : hr.dirOf c.group = .release) : s.deriveCleat hr c = { c with st := .released } := by
  simp [State.deriveCleat, hrel, hq, hdir, hd, nextDwell, cleatOneSensor]

/-! ### The record brought up to date -/

section
variable {s : State} {h : Nat} {hr : Hatch} (hh : s.hatch? h = some hr)
include hh

theorem hatch?_refresh : (s.refresh h).hatch? h = some (s.deriveHatch hr) := by
  have hnum : hr.num = h := findKey_key (key := Hatch.num) hh
  rw [refresh_eq hh, State.hatch?, ← updateKey_eq]
  exact (findKey_updateKey_same Hatch.num h (fun _ => s.deriveHatch hr) (fun _ _ => hnum) s.hatches).trans
    (congrArg (Option.map fun _ => s.deriveHatch hr) hh)

theorem op?_refresh (k : Nat) : (s.refresh h).op? k = s.op? k := by
  rw [refresh_eq hh]
  rfl

theorem grant?_refresh (k : Nat) : (s.refresh h).grant? k = s.grant? k := by
  rw [refresh_eq hh]
  rfl

theorem entry?_refresh (k : Nat) : (s.refresh h).entry? k = s.entry? k := by
  rw [refresh_eq hh]
  rfl

theorem nodes_refresh : (s.refresh h).nodes = s.nodes := by
  rw [refresh_eq hh]

theorem points_refresh : (s.refresh h).points = s.points := by
  rw [refresh_eq hh]

end

/-! ### The Engine takes a hand-on -/

theorem hatchEvent_of_lists {s : State} {h : Nat}
    (hq : ((s.refresh h).engineTakes h).queue = (s.refresh h).queue)
    (hg : ((s.refresh h).engineTakes h).granted = (s.refresh h).granted) :
    s.hatchEvent h = (s.refresh h).engineTakes h := if_pos ⟨hq, hg⟩

theorem hatchEvent_of_evaluation {s : State} {h : Nat}
    (hne : ¬(((s.refresh h).engineTakes h).queue = (s.refresh h).queue ∧
      ((s.refresh h).engineTakes h).granted = (s.refresh h).granted)) :
    s.hatchEvent h = ((s.refresh h).engineTakes h).evaluate := if_neg hne

theorem hatchEvent_of_still {s : State} {h : Nat} (he : (s.refresh h).engineTakes h = s.refresh h) :
    s.hatchEvent h = s.refresh h :=
  (hatchEvent_of_lists (congrArg State.queue he) (congrArg State.granted he)).trans he

section
variable {s : State} {h : Nat} {o : Op} {hr : Hatch}

theorem engineTakes_of_none (ho : s.op? h = none) : s.engineTakes h = s := by
  simp only [State.engineTakes, ho]

variable (ho : s.op? h = some o) (hh : s.hatch? h = some hr)
include ho hh

theorem engineTakes_of_rest (hq : o.st ≠ .queued) (hm : o.st ≠ .moving) : s.engineTakes h = s := by
  simp only [State.engineTakes, ho, hh]
  cases hst : o.st with
  | queued => exact absurd hst hq
  | moving => exact absurd hst hm
  | idle | paused | faulted => rfl

variable {st : Step} {rest : List Step} (hp : o.prog = st :: rest)
include hp

theorem engineTakes_of_disagree (hst : o.st = .queued ∨ o.st = .moving)
    (hd : hr.stepDisagrees st = true) : s.engineTakes h = s.faultOp h .disagree := by
  have hstep : o.step? = some st := congrArg List.head? hp
  obtain hst | hst := hst
  · simp only [State.engineTakes, ho, hh, hst, hstep, if_pos hd]
  · simp only [State.engineTakes, ho, hh, hst, hstep, if_pos hd]

theorem engineTakes_of_queued (hst : o.st = .queued) (hd : hr.stepDisagrees st = false) :
    s.engineTakes h = s := by
  have hstep : o.step? = some st := congrArg List.head? hp
  simp only [State.engineTakes, ho, hh, hst, hstep, hd, Bool.false_eq_true, if_false]

theorem engineTakes_of_moving (hst : o.st = .moving) (hd : hr.stepDisagrees st = false) {g : Grant}
    (hg : s.grant? h = some g) : s.engineTakes h =
      State.testTarget (if st.isProportional then s.writeDriven hr st g.setpoint else s) h := by
  have hstep : o.step? = some st := congrArg List.head? hp
  simp only [State.engineTakes, ho, hh, hst, hstep, hd, hg, Bool.false_eq_true, if_false]

theorem testTarget_of_short (hst : o.st = .moving) (ht : hr.targetHolds st = false) :
    s.testTarget h = s := by
  have hstep : o.step? = some st := congrArg List.head? hp
  simp only [State.testTarget, ho, hh, hst, hstep, ht, Bool.false_eq_true, if_false]

theorem testTarget_of_target (hst : o.st = .moving) (ht : hr.targetHolds st = true) :
    s.testTarget h = (s.endMotion o).offerFrom hr o.kind.isClosing rest := by
  have hstep : o.step? = some st := congrArg List.head? hp
  simp only [State.testTarget, State.complete, ho, hh, hst, hstep, if_pos ht, hp, List.tail_cons]

end

/-! ### The valves of a step whose panels move on (R53, R54) -/

theorem outAt_writeDriven_other {s : State} {hr : Hatch} {st : Step} (v : Nat) {a k : Nat}
    (hn : ¬s.IsValveOf hr.num st a k) : (s.writeDriven hr st v).outAt a k = s.outAt a k := by
  have hother : ∀ i ∈ st.valveIndexes, ∀ p, s.point? st.driven hr.num i = some p →
      ¬(a = p.node ∧ k = p.point) := fun i hi p hp e =>
    hn ⟨i, hi, st.driven, List.mem_cons_self, p, hp, e.1.symm, e.2.symm⟩
  clear hn
  unfold State.writeDriven
  generalize st.valveIndexes = is at hother
  induction is generalizing s with
  | nil => rfl
  | cons j is ih =>
    rw [List.foldl_cons]
    refine (ih fun i hi p hp => hother i (List.mem_cons_of_mem _ hi) p ?_).trans
      (outAt_drive_other s _ _ _ _ (hother j List.mem_cons_self))
    rw [← hp, State.point?, State.point?, points_drive]

/-- The end of a motion whose driven valves have been written before. -/
theorem StepShut.of_written {s x t : State} {h : Nat} {st : Step} (hp : x.points = s.points)
    (hx : ∀ a k, ¬s.IsValveOf h st a k → x.outAt a k = s.outAt a k) (ht : StepShut x t h st) :
    StepShut s t h st := by
  obtain ⟨hshut, hother⟩ := ht
  have hpoint : ∀ r i, x.point? r h i = s.point? r h i := fun r i => by
    rw [State.point?, State.point?, hp]
  refine ⟨fun i hi role hr p hb => hshut i hi role hr p ((hpoint role i).trans hb), fun a k hn => ?_⟩
  refine (hother a k fun ⟨i, hi, role, hr, p, hb, hv⟩ => ?_).trans (hx a k hn)
  exact hn ⟨i, hi, role, hr, p, (hpoint role i).symm.trans hb, hv⟩

/-- The state before the Engine tests the target of a MOVING step. -/
def State.driven (s : State) (hr : Hatch) (st : Step) (v : Nat) : State :=
  if st.isProportional then s.writeDriven hr st v else s

theorem driven_eq (s : State) (hr : Hatch) (st : Step) (v : Nat) :
    s.driven hr st v = { s with nodes := (s.driven hr st v).nodes } := by
  unfold State.driven
  split
  · exact writeDriven_eq ..
  · rfl

theorem onlyMotion_driven (s : State) (hr : Hatch) (st : Step) (v : Nat) :
    OnlyMotion s (s.driven hr st v) := by
  unfold State.driven
  split
  · exact onlyMotion_writeDriven ..
  · exact .refl s

theorem sameOther_driven (s : State) (h : Nat) (hr : Hatch) (st : Step) (v : Nat) :
    SameOtherHatches s h (s.driven hr st v) := by
  unfold State.driven
  split
  · exact sameOther_writeDriven ..
  · exact .refl s h

theorem outAt_driven_other {s : State} {hr : Hatch} {st : Step} (v : Nat) {a k : Nat}
    (hn : ¬s.IsValveOf hr.num st a k) : (s.driven hr st v).outAt a k = s.outAt a k := by
  unfold State.driven
  split
  · exact outAt_writeDriven_other v hn
  · rfl

/-! ### The hand-on of a hatch record (R54, R55, R62) -/

theorem op?_driven (s : State) (hr : Hatch) (st : Step) (v h : Nat) :
    (s.driven hr st v).op? h = s.op? h := by
  rw [driven_eq]
  rfl

theorem hatch?_driven (s : State) (hr : Hatch) (st : Step) (v h : Nat) :
    (s.driven hr st v).hatch? h = s.hatch? h := by
  rw [driven_eq]
  rfl

section
variable {s : State} {h : Nat} {o : Op} {hr : Hatch} (ho : s.op? h = some o)
  (hh : s.hatch? h = some hr)
include ho hh

theorem hatchEvent_of_rest (hq : o.st ≠ .queued) (hm : o.st ≠ .moving) :
    s.hatchEvent h = s.refresh h :=
  hatchEvent_of_still
    (engineTakes_of_rest ((op?_refresh hh h).trans ho) (hatch?_refresh hh) hq hm)

variable {st : Step} {rest : List Step} (hp : o.prog = st :: rest)
include hp

theorem hatchEvent_of_queued (hst : o.st = .queued)
    (hd : ¬(s.deriveHatch hr).InDisagreement st) : s.hatchEvent h = s.refresh h :=
  hatchEvent_of_still (engineTakes_of_queued ((op?_refresh hh h).trans ho) (hatch?_refresh hh) hp hst
    (Bool.eq_false_iff.mpr fun hc => hd ((stepDisagrees_iff _ _).mp hc)))

/-- A DISAGREE cleat of the stepping group faults the operation, and what it held is handed out
again. -/
theorem hatchEvent_of_disagree (hd : (s.deriveHatch hr).InDisagreement st)
    (hst : (o.st = .queued ∧ s.entry? h ≠ none) ∨ (o.st = .moving ∧ s.grant? h ≠ none)) :
    s.hatchEvent h = ((s.refresh h).faultOp h .disagree).evaluate := by
  have ho' := (op?_refresh hh h).trans ho
  have htakes := engineTakes_of_disagree ho' (hatch?_refresh hh) hp (hst.imp And.left And.left)
    ((stepDisagrees_iff _ _).mpr hd)
  rw [hatchEvent_of_evaluation, htakes]
  rw [htakes]
  rintro ⟨hq, hg⟩
  obtain ⟨hst, hsome⟩ | ⟨hst, hsome⟩ := hst
  · refine hsome (((entry?_refresh hh h).symm.trans ?_).trans
      (entry?_haltOp ho' .faulted (some .fault) (some .disagree) hst))
    exact congrArg (findKey Entry.hatch h) hq.symm
  · refine hsome (((grant?_refresh hh h).symm.trans ?_).trans
      (grant?_haltOp ho' .faulted (some .fault) (some .disagree) hst))
    exact congrArg (findKey Grant.hatch h) hg.symm

variable (hst : o.st = .moving) (hd : ¬(s.deriveHatch hr).InDisagreement st) {g : Grant}
  (hg : s.grant? h = some g)
include hst hd hg

theorem engineTakes_refresh : (s.refresh h).engineTakes h =
    State.testTarget ((s.refresh h).driven (s.deriveHatch hr) st g.setpoint) h :=
  engineTakes_of_moving ((op?_refresh hh h).trans ho) (hatch?_refresh hh) hp hst
    (Bool.eq_false_iff.mpr fun hc => hd ((stepDisagrees_iff _ _).mp hc))
    ((grant?_refresh hh h).trans hg)

theorem hatchEvent_of_short (ht : ¬(s.deriveHatch hr).AtTarget st) :
    s.hatchEvent h = (s.refresh h).driven (s.deriveHatch hr) st g.setpoint := by
  have htest := testTarget_of_short (s := (s.refresh h).driven (s.deriveHatch hr) st g.setpoint)
    ((op?_driven ..).trans ((op?_refresh hh h).trans ho))
    ((hatch?_driven ..).trans (hatch?_refresh hh)) hp hst
    (Bool.eq_false_iff.mpr fun hc => ht ((targetHolds_iff _ _).mp hc))
  have htakes := (engineTakes_refresh ho hh hp hst hd hg).trans htest
  refine (hatchEvent_of_lists ?_ ?_).trans htakes
  · rw [htakes, driven_eq]
  · rw [htakes, driven_eq]

/-- A MOVING step at its target ends, and the next step is offered. -/
theorem hatchEvent_of_target (ht : (s.deriveHatch hr).AtTarget st) : s.hatchEvent h =
    ((((s.refresh h).driven (s.deriveHatch hr) st g.setpoint).endMotion o).offerFrom
      (s.deriveHatch hr) o.kind.isClosing rest).evaluate := by
  have htest := testTarget_of_target (s := (s.refresh h).driven (s.deriveHatch hr) st g.setpoint)
    ((op?_driven ..).trans ((op?_refresh hh h).trans ho))
    ((hatch?_driven ..).trans (hatch?_refresh hh)) hp hst ((targetHolds_iff _ _).mpr ht)
  have htakes := (engineTakes_refresh ho hh hp hst hd hg).trans htest
  rw [hatchEvent_of_evaluation, htakes]
  rw [htakes]
  rintro ⟨-, hgone⟩
  have hkey : o.hatch = h := findKey_key ho
  have hnone : findKey Grant.hatch h (s.granted.filter fun x => x.hatch != h) = none :=
    find_filter_same Grant.hatch h s.granted
  rw [granted_offerFrom, granted_endMotion, driven_eq, granted_refresh, hkey] at hgone
  rw [hgone] at hnone
  exact absurd (hg.symm.trans hnone) nofun

end

theorem endMotion_driven_keeps (s : State) (hr : Hatch) (st : Step) (v : Nat) (o : Op) :
    (s.driven hr st v).endMotion o = { s with
      nodes := ((s.driven hr st v).endMotion o).nodes
      hatches := ((s.driven hr st v).endMotion o).hatches
      granted := ((s.driven hr st v).endMotion o).granted
      pumpIdle := ((s.driven hr st v).endMotion o).pumpIdle } := by
  rw [endMotion_keeps, driven_eq]

/-- The valves at the end of a motion (R53). -/
theorem stepShut_endMotion {s : State} {o : Op} {st : Step} (hp : o.step? = some st) :
    StepShut s (s.endMotion o) o.hatch st := by
  have hnodes : (s.endMotion o).nodes = (s.shutValves o.hatch st).nodes := by
    rw [endMotion_keeps, State.motionShut, hp]
  obtain ⟨hshut, hother⟩ := stepShut_shutValves s o.hatch st
  exact ⟨fun i hi role hr p hb => (outAt_of_nodes hnodes ..).trans (hshut i hi role hr p hb),
    fun a k hn => (outAt_of_nodes hnodes a k).trans (hother a k hn)⟩

/-- Settles O31: the dwell, the tables of targets, and the Engine's cases at a hand-on. -/
theorem dwellCompletes : Obligations.DwellCompletes := by
  unfold Obligations.DwellCompletes
  refine ⟨?_, ?_, fun hr st => ⟨targetHolds_iff hr st, stepDisagrees_iff hr st⟩, ?_⟩
  · intro s dt h n t0 hr c hp hh hc hrel hd hdue hq hdir
    have hdue' : c.dwellDue (s.advance dt).now = true := by
      rw [advance_now hp]
      exact (dwellDue_iff hd _).mpr hdue
    have hexec := (exec_dwellComplete hp dt h n).trans
      (congrArg _ (completeDwell_of_due (s := s.advance dt) hh hc hdue'))
    have hh' := hatch?_dwelt (s := s.advance dt) hh n
    have hothers := sameOther_updHatch (s.advance dt) h (fun x => { x with
      cleats := updateKey Cleat.num n (fun y => { y with dwell := .complete }) x.cleats })
      (by intros; rfl)
    refine ⟨⟨_, hexec, rfl, hothers.hatch, hh'⟩, fun hb => ?_⟩
    have hstill : ((s.advance dt).dwelt h n).hatchEvent h =
        ((s.advance dt).dwelt h n).refresh h := by
      cases ho : s.op? h with
      | none => exact hatchEvent_of_still (engineTakes_of_none ((op?_refresh hh' h).trans ho))
      | some o =>
        have hrest := busy_eq_false_iff.mp hb
        rw [opState_of_op? ho] at hrest
        exact hatchEvent_of_rest (s := (s.advance dt).dwelt h n) ho hh' hrest.1 hrest.2
    refine ⟨_, _, hexec.trans (congrArg _ hstill), ?_,
      fun k hk => ((sameOther_refresh _ h).hatch k hk).trans (hothers.hatch k hk),
      hatch?_refresh hh', ?_⟩
    · rw [refresh_eq hh']
      rfl
    · have hnum : hr.num = h := findKey_key (key := Hatch.num) hh
      have hcnum : c.num = n := findKey_key hc
      have hfound : findKey Cleat.num n (hr.cleats.map fun x =>
          if x.num = n then { x with dwell := .complete } else x) =
          some { c with dwell := .complete } := by
        rw [← updateKey_eq, findKey_updateKey_same Cleat.num n _ (by intro _ hk; exact hk), hc]
        rfl
      refine (findKey_map Cleat.num _ (deriveCleat_num _ _) n _).trans
        ((congrArg (Option.map _) hfound).trans (congrArg some ?_))
      refine deriveCleat_of_complete hrel rfl ?_ hdir
      rw [← hcnum, ← hnum] at hq
      exact hq
  · intro s dt h n hr c hp hh hc hearly
    have hnot : c.dwellDue (s.advance dt).now = false := by
      rw [advance_now hp]
      exact dwellDue_of_early hearly
    exact (exec_dwellComplete hp dt h n).trans
      (congrArg _ (completeDwell_of_early (s := s.advance dt) hh hc hnot))
  · rintro s h o hr new ho hh rfl
    have hkey : o.hatch = h := findKey_key ho
    have hnum : (s.deriveHatch hr).num = h :=
      findKey_key (key := Hatch.num) (hatch?_refresh hh)
    refine ⟨hatchEvent_of_rest ho hh, fun st rest hp => ⟨fun hd hst => ?_,
      fun hd hst => hatchEvent_of_queued ho hh hp hst hd, fun g hd hst hg => ⟨fun ht => ?_, fun ht => ?_⟩⟩⟩
    · have ho' := (op?_refresh hh h).trans ho
      have hbusy := hst.imp And.left And.left
      refine ⟨_, hatchEvent_of_disagree ho hh hp hd hst, onlyMotion_faultOp ..,
        (sameOther_refresh s h).trans (sameOther_faultOp ..), ?_,
        op?_haltOp_same ho' _ _ _ hbusy, ?_, entry?_haltOp ho' _ _ _, grant?_haltOp ho' _ _ _⟩
      · rw [State.faultOp, haltOp_keeps]
      · have hshut := haltShut_haltOp ho' .faulted (some .fault) (some .disagree) hbusy
        exact ⟨fun hm => (hshut.1 hm).trans (nodes_refresh hh), fun x hm hx =>
          (hshut.2 x hm hx).of_written (points_refresh hh)
            fun a k _ => outAt_of_nodes (nodes_refresh hh) a k⟩
    · rw [hatchEvent_of_short ho hh hp hst hd hg ht, State.driven, writeDriven_eq_writeValves, hnum]
    · refine ⟨_, hatchEvent_of_target ho hh hp hst hd hg ht,
        (onlyMotion_driven ..).trans (onlyMotion_endMotion ..),
        (sameOther_refresh s h).trans
          ((sameOther_driven ..).trans (hkey ▸ sameOther_endMotion ..)), ?_, ?_, ?_, ?_, ?_, ?_, ?_, ?_⟩
      · rw [endMotion_driven_keeps]
      · rw [endMotion_driven_keeps, refresh_eq hh]
      · rw [endMotion_driven_keeps, refresh_eq hh]
      · rw [endMotion_driven_keeps, refresh_eq hh]
      · rw [endMotion_driven_keeps]
        exact (op?_refresh hh h).trans ho
      · rw [granted_endMotion, driven_eq, granted_refresh, hkey]
        exact List.filter_congr fun x _ => Bool.eq_iff_iff.mpr (by simp)
      · have hidle := hatch?_endMotion_same ((s.refresh h).driven (s.deriveHatch hr) st g.setpoint) o
        rwa [hkey, hatch?_driven, hatch?_refresh hh] at hidle
      · have hshut := stepShut_endMotion
          (s := (s.refresh h).driven (s.deriveHatch hr) st g.setpoint) (o := o)
          (congrArg List.head? hp)
        rw [hkey] at hshut
        refine StepShut.of_written ?_ (fun a k hn => ?_) hshut
        · rw [driven_eq, points_refresh hh]
        · refine (outAt_driven_other _ fun hv => hn ?_).trans
            (outAt_of_nodes (nodes_refresh hh) a k)
          simpa only [hnum, State.IsValveOf, State.point?, points_refresh hh] using hv

end Sys2Proof.Machine

/-! The evaluation (R77 to R84): the removal pass, the blocked head, the grant of the head, and that an
evaluation does not depend on the rounds it is given. -/

namespace Sys2Proof.Machine

/-! ### Lists of records with one record a key -/

section
variable {α : Type} {key : α → Nat} {a b : List α} {e : α}

theorem key_ne_of_nodup (hn : ((a ++ e :: b).map key).Nodup) :
    (∀ x ∈ a, key x ≠ key e) ∧ ∀ x ∈ b, key x ≠ key e := by
  rw [List.map_append, List.map_cons, List.nodup_append] at hn
  obtain ⟨-, hb, hab⟩ := hn
  exact ⟨fun x hx => hab _ (List.mem_map_of_mem hx) _ List.mem_cons_self,
    fun x hx hk => (List.nodup_cons.mp hb).1 (hk ▸ List.mem_map_of_mem hx)⟩

theorem filter_key_ne (hn : ((a ++ e :: b).map key).Nodup) :
    (a ++ e :: b).filter (fun x => key x != key e) = a ++ b := by
  obtain ⟨ha, hb⟩ := key_ne_of_nodup hn
  rw [List.filter_append, List.filter_cons_of_neg (by simp),
    List.filter_eq_self.mpr fun x hx => bne_iff_ne.mpr (ha x hx),
    List.filter_eq_self.mpr fun x hx => bne_iff_ne.mpr (hb x hx)]

theorem updateKey_key (hn : ((a ++ e :: b).map key).Nodup) (f : α → α) :
    updateKey key (key e) f (a ++ e :: b) = a ++ f e :: b := by
  obtain ⟨ha, hb⟩ := key_ne_of_nodup hn
  have hkeep : ∀ l : List α, (∀ x ∈ l, key x ≠ key e) →
      l.map (fun x => if key x = key e then f x else x) = l := fun l hl =>
    (List.map_congr_left fun x hx => if_neg (hl x hx)).trans (List.map_id' l)
  rw [updateKey_eq, List.map_append, List.map_cons, hkeep a ha, hkeep b hb, if_pos rfl]

end

/-! ### The demand of a step (R77, R78) -/

theorem demandAt_bounds (q p : Nat) :
    q * p ≤ demandAt q p * 100 ∧ demandAt q p * 100 < q * p + 100 := by
  unfold demandAt
  omega

theorem offerOf_of_fraction {s : State} {st : Step} {p : Nat} (hp : s.fraction st = some p) (h : Nat) :
    s.offerOf h st =
      if demandAt (s.qStep h st) p ≤ s.maxB then .fits (demandAt (s.qStep h st) p) p false
      else if s.maxB * 100 / s.qStep h st < 25 then .noFlow
      else .fits s.maxB (if st.isProportional then s.maxB * 100 / s.qStep h st else 100) true := by
  simp only [State.offerOf, hp]

/-- An offer depends on the fractions, the configuration in force and MaxB. -/
theorem offerOf_congr {s t : State} (ha : t.att = s.att) (hc : t.inForce = s.inForce)
    (hb : t.maxB = s.maxB) (h : Nat) (st : Step) : t.offerOf h st = s.offerOf h st := by
  have hfraction : t.fraction st = s.fraction st := by simp only [State.fraction, ha]
  have hflow : t.qStep h st = s.qStep h st := by simp only [State.qStep, hc]
  simp only [State.offerOf, hfraction, hflow, hb]

theorem OnlyMotion.offerOf {s t : State} (ho : OnlyMotion s t) (hb : SameBudget s t) (h : Nat)
    (st : Step) : t.offerOf h st = s.offerOf h st :=
  offerOf_congr (by rw [ho.rest]) (by rw [ho.rest]) hb.maxB h st

theorem offerOf_removalPass (s : State) (h : Nat) (st : Step) :
    s.removalPass.offerOf h st = s.offerOf h st :=
  (onlyMotion_removalPass s).offerOf (frees_removalPass s).toSameBudget h st

/-! ### A write to a valve, and the queue order -/

theorem drive_of_unbound {s : State} {r : Role} {h i : Nat} (hp : s.point? r h i = none) (v : Nat) :
    s.drive r h i v = s := by
  simp only [State.drive, hp]

theorem drive_of_bound {s : State} {r : Role} {h i : Nat} {p : Point}
    (hp : s.point? r h i = some p) (v : Nat) : s.drive r h i v = { s with
      nodes := s.nodes.map fun n =>
        if n.addr = p.node then { n with outs := n.outs.set p.point v } else n } := by
  simp only [State.drive, hp, State.setOut, State.updNode, updateKey_eq]

theorem insertEntry_split (e : Entry) (q : List Entry) :
    ∃ before after : List Entry, q = before ++ after ∧ insertEntry e q = before ++ e :: after := by
  induction q with
  | nil => exact ⟨[], [], rfl, rfl⟩
  | cons x q ih =>
    obtain ⟨before, after, hq, hi⟩ := ih
    unfold insertEntry
    split
    · exact ⟨[], x :: q, rfl, rfl⟩
    · exact ⟨x :: before, after, congrArg _ hq, congrArg _ hi⟩

/-! ### The removal pass (R83) -/

/-- What a removal pass makes of an entry. -/
def State.passed (s : State) (e : Entry) : Option Entry :=
  match s.offerOf e.hatch e.step with
  | .fits d _ _ => some { e with demand := some d, blocked := false }
  | _ => none

/-- The pause of an operation whose entry has no permit or flow. -/
def State.pausedFor (s x : State) (e : Entry) : State :=
  match s.offerOf e.hatch e.step with
  | .noPermit => x.pauseOp e.hatch .attitude
  | .noFlow => x.pauseOp e.hatch .noFlow
  | .fits _ _ _ => x

theorem queue_haltOp {s : State} {h : Nat} (hs : s.opState h = .queued) (st : OpState)
    (r : Option HaltReason) (f : Option FaultKind) :
    (s.haltOp h st r f).queue = s.queue.filter fun e => e.hatch != h := by
  cases ho : s.op? h with
  | none => simp [State.opState, ho] at hs
  | some o =>
    rw [opState_of_op? ho] at hs
    rw [haltOp_of_queued ho st r f hs]
    exact queue_dropEntry s h

/-- The queue after the visits of the entries `l` that stand behind those in `done`. -/
theorem queue_foldl_visitEntry {s : State} (l done : List Entry) {y : State}
    (hoffer : ∀ h st, y.offerOf h st = s.offerOf h st) (hq : y.queue = done ++ l)
    (hn : (y.queue.map Entry.hatch).Nodup) (hops : ∀ e ∈ l, y.opState e.hatch = .queued) :
    (l.foldl State.visitEntry y).queue = done ++ l.filterMap s.passed := by
  induction l generalizing done y with
  | nil => exact hq
  | cons e l ih =>
    have hqueued := hops e List.mem_cons_self
    have hne := (key_ne_of_nodup (key := Entry.hatch) (hq ▸ hn)).2
    have hpause : ∀ reason, s.passed e = none → y.visitEntry e = y.pauseOp e.hatch reason →
        ((e :: l).foldl State.visitEntry y).queue = done ++ (e :: l).filterMap s.passed := by
      intro reason hgone hvisit
      have hleft : (y.pauseOp e.hatch reason).queue = done ++ l :=
        (queue_haltOp hqueued _ _ _).trans (hq ▸ filter_key_ne (hq ▸ hn))
      rw [List.foldl_cons, hvisit, List.filterMap_cons_none hgone]
      refine ih done (fun h st => ?_) hleft ?_ fun x hx => ?_
      · rw [← hoffer]
        exact (onlyMotion_pauseOp ..).offerOf (sameBudget_haltOp ..) h st
      · refine hn.sublist ?_
        rw [State.pauseOp, queue_haltOp hqueued]
        exact List.filter_sublist.map _
      · exact (opState_of_sameOther (sameOther_pauseOp ..) (hne x hx)).trans (hops x (List.mem_cons_of_mem _ hx))
    cases ho : s.offerOf e.hatch e.step with
    | noPermit =>
      exact hpause .attitude (by simp [State.passed, ho]) (by simp [State.visitEntry, hoffer, ho])
    | noFlow =>
      exact hpause .noFlow (by simp [State.passed, ho]) (by simp [State.visitEntry, hoffer, ho])
    | fits d speed clamped =>
      have hvisit : y.visitEntry e = y.noteEntry e.hatch d false := by
        simp [State.visitEntry, hoffer, ho]
      have hkeep : s.passed e = some { e with demand := some d, blocked := false } := by
        simp [State.passed, ho]
      have hleft : (y.noteEntry e.hatch d false).queue =
          (done ++ [{ e with demand := some d, blocked := false }]) ++ l := by
        rw [List.append_assoc]
        exact (congrArg (updateKey Entry.hatch e.hatch _) hq).trans
          (updateKey_key (hq ▸ hn) fun x => { x with demand := some d, blocked := false })
      rw [List.foldl_cons, hvisit, List.filterMap_cons_some hkeep, ← List.singleton_append,
        ← List.append_assoc]
      refine ih _ hoffer hleft ?_ fun x hx => hops x (List.mem_cons_of_mem _ hx)
      have hkeys : (y.noteEntry e.hatch d false).queue.map Entry.hatch = y.queue.map Entry.hatch :=
        map_updateKey Entry.hatch Entry.hatch _ _ (by intros; rfl) _
      rw [hkeys]
      exact hn

theorem MotionIn.opState_of_entry {s : State} (hm : MotionIn .whole s) {e : Entry}
    (he : e ∈ s.queue) : s.opState e.hatch = .queued := by
  obtain ⟨o, ho, hk⟩ := List.mem_map.mp (hm.queued_mem e he)
  have hop : s.op? e.hatch = some o := hk ▸ findKey_of_mem hm.nodup ho
  rw [opState_of_op? hop]
  exact (hm.states o ho id).1.mpr (hk ▸ List.mem_map_of_mem he)

theorem queue_removalPass {s : State} (hm : MotionIn .whole s) :
    s.removalPass.queue = s.queue.filterMap s.passed :=
  queue_foldl_visitEntry s.queue [] (fun _ _ => rfl) rfl hm.queue fun _ he => hm.opState_of_entry he

/-! ### What a pause does, whatever the entries carry -/

/-- The two differ in the queue only, and there not in the hatches. -/
structure SameButQueue (x y : State) : Prop where
  rest : y = { x with queue := y.queue }
  hatches : y.queue.map Entry.hatch = x.queue.map Entry.hatch

theorem SameButQueue.eq_empty {x y : State} (h : SameButQueue x y) :
    y.queue.isEmpty = x.queue.isEmpty := by
  rw [← List.isEmpty_map (f := Entry.hatch), h.hatches, List.isEmpty_map]

theorem sameButQueue_noteEmpty {x y : State} (h : SameButQueue x y) :
    SameButQueue x.noteEmpty y.noteEmpty := by
  have hcond : (y.queue.isEmpty && y.granted.isEmpty) = (x.queue.isEmpty && x.granted.isEmpty) := by
    rw [h.eq_empty, h.rest]
  unfold State.noteEmpty
  rw [hcond]
  split
  · refine ⟨?_, h.hatches⟩
    rw [h.rest]
  · exact h

theorem sameButQueue_dropEntry {x y : State} (hxy : SameButQueue x y) (h : Nat) :
    SameButQueue (x.dropEntry h) (y.dropEntry h) := by
  have hfilter : ((y.queue.filter fun e => e.hatch != h).map Entry.hatch) =
      (x.queue.filter fun e => e.hatch != h).map Entry.hatch := by
    have hmap : ∀ q : List Entry, (q.filter fun e => e.hatch != h).map Entry.hatch =
        (q.map Entry.hatch).filter (· != h) := fun q => by rw [List.filter_map]; rfl
    rw [hmap, hmap, hxy.hatches]
  have hfound : y.entry? h = none ↔ x.entry? h = none := by
    have hkeys : ∀ q : List Entry, (∀ e ∈ q, e.hatch ≠ h) ↔ h ∉ q.map Entry.hatch := fun q => by
      simp
    rw [entry?_eq_none_iff, entry?_eq_none_iff, hkeys, hkeys, hxy.hatches]
  cases hx : x.entry? h with
  | none =>
    simp only [State.dropEntry, hx, hfound.mpr hx]
    exact hxy
  | some e =>
    obtain ⟨e', hy⟩ := Option.ne_none_iff_exists'.mp
      (mt hfound.mp (hx ▸ Option.some_ne_none e))
    simp only [State.dropEntry, hx, hy]
    refine sameButQueue_noteEmpty ⟨?_, hfilter⟩
    rw [hxy.rest]

theorem sameButQueue_pauseOp {x y : State} (hxy : SameButQueue x y) {h : Nat}
    (hs : x.opState h = .queued) (r : HaltReason) : SameButQueue (x.pauseOp h r) (y.pauseOp h r) := by
  have hop : y.op? h = x.op? h := by
    rw [hxy.rest]
    rfl
  cases ho : x.op? h with
  | none => simp [State.opState, ho] at hs
  | some o =>
    rw [opState_of_op? ho] at hs
    rw [State.pauseOp, State.pauseOp, haltOp_of_queued ho _ _ _ hs,
      haltOp_of_queued (hop.trans ho) _ _ _ hs]
    obtain ⟨hrest, hhatches⟩ := sameButQueue_dropEntry hxy h
    refine ⟨?_, hhatches⟩
    rw [hrest]
    rfl

/-- The visits of entries with QUEUED operations change no more than the pauses do, the queue apart. -/
theorem foldl_visitEntry {s : State} (l : List Entry) {x y : State} (hxy : SameButQueue x y)
    (hoffer : ∀ h st, y.offerOf h st = s.offerOf h st) (hn : (l.map Entry.hatch).Nodup)
    (hops : ∀ e ∈ l, x.opState e.hatch = .queued) :
    SameButQueue (l.foldl s.pausedFor x) (l.foldl State.visitEntry y) := by
  induction l generalizing x y with
  | nil => exact hxy
  | cons e l ih =>
    obtain ⟨hnew, hn⟩ := List.nodup_cons.mp hn
    have hpause : ∀ reason, s.pausedFor x e = x.pauseOp e.hatch reason →
        y.visitEntry e = y.pauseOp e.hatch reason →
        SameButQueue ((e :: l).foldl s.pausedFor x) ((e :: l).foldl State.visitEntry y) := by
      intro reason hpaused hvisit
      rw [List.foldl_cons, List.foldl_cons, hpaused, hvisit]
      refine ih (sameButQueue_pauseOp hxy (hops e List.mem_cons_self) reason) (fun h st => ?_) hn
        fun z hz => ?_
      · rw [← hoffer]
        exact (onlyMotion_pauseOp ..).offerOf (sameBudget_haltOp ..) h st
      · exact (opState_of_sameOther (sameOther_pauseOp ..) fun hk : z.hatch = e.hatch =>
          hnew (hk ▸ List.mem_map_of_mem hz)).trans (hops z (List.mem_cons_of_mem _ hz))
    cases ho : s.offerOf e.hatch e.step with
    | noPermit =>
      exact hpause .attitude (by simp [State.pausedFor, ho]) (by simp [State.visitEntry, hoffer, ho])
    | noFlow =>
      exact hpause .noFlow (by simp [State.pausedFor, ho]) (by simp [State.visitEntry, hoffer, ho])
    | fits d speed clamped =>
      have hvisit : y.visitEntry e = y.noteEntry e.hatch d false := by
        simp [State.visitEntry, hoffer, ho]
      have hkeep : s.pausedFor x e = x := by simp [State.pausedFor, ho]
      rw [List.foldl_cons, List.foldl_cons, hkeep, hvisit]
      refine ih ⟨?_, ?_⟩ hoffer hn fun z hz => hops z (List.mem_cons_of_mem _ hz)
      · rw [hxy.rest]
        rfl
      · exact (map_updateKey Entry.hatch Entry.hatch _ _ (by intros; rfl) _).trans hxy.hatches

theorem removalPass_eq {s : State} (hm : MotionIn .whole s) : s.removalPass =
    { s.queue.foldl s.pausedFor s with queue := s.removalPass.queue } :=
  (foldl_visitEntry s.queue ⟨rfl, rfl⟩ (fun _ _ => rfl) hm.queue
    fun _ he => hm.opState_of_entry he).rest

/-! ### A round of the evaluation (R82, R84) -/

section
variable {s : State} (n : Nat)

theorem evalLoop_of_empty (hq : s.removalPass.queue = []) :
    State.evalLoop (n + 1) s = s.removalPass := by
  simp only [State.evalLoop, hq]

variable {e : Entry} {rest : List Entry} {d speed : Nat} {clamped : Bool}
  (hq : s.removalPass.queue = e :: rest) (ho : s.offerOf e.hatch e.step = .fits d speed clamped)
include hq ho

theorem evalLoop_of_blocked (hd : s.removalPass.freeFlow < d) :
    State.evalLoop (n + 1) s = (s.removalPass.noteEntry e.hatch d true).startPump := by
  simp only [State.evalLoop, hq, offerOf_removalPass, ho, if_neg (Nat.not_le.mpr hd)]

theorem evalLoop_of_granted (hd : d ≤ s.removalPass.freeFlow) :
    State.evalLoop (n + 1) s = State.evalLoop n (s.removalPass.grantHead e d speed clamped) := by
  simp only [State.evalLoop, hq, offerOf_removalPass, ho, if_pos hd]

end

end Sys2Proof.Machine

/-! The grant of the head of the queue (R4, R39, R52 to R54), and how many rounds an evaluation takes. -/

namespace Sys2Proof.Machine

/-! ### What a hatch record is derived from -/

theorem nodeOnline_of_still {s t : State} (h : t.nodes.map Node.still = s.nodes.map Node.still)
    (a : Nat) : t.nodeOnline a = s.nodeOnline a := by
  have hstill : ∀ x : State, x.nodeOnline a =
      match findKey Node.addr a (x.nodes.map Node.still) with
      | some n => n.st == .online
      | none => false := fun x => by
    rw [findKey_map Node.addr Node.still (by intro; rfl)]
    unfold State.nodeOnline State.node?
    cases findKey Node.addr a x.nodes <;> rfl
  rw [hstill, hstill, h]

theorem deriveHatch_congr {s t : State} (hp : t.points = s.points) (hn : t.now = s.now)
    (ho : t.nodes.map Node.still = s.nodes.map Node.still) (hr : Hatch) :
    t.deriveHatch hr = s.deriveHatch hr := by
  have hpoint : t.point? = s.point? := by
    funext r h i
    simp only [State.point?, hp]
  have hqual : t.qual = s.qual := by
    funext r h i
    simp only [State.qual, hpoint]
  have hstale : t.staleAt = s.staleAt := by
    funext r h i
    simp only [State.staleAt, hpoint]
  have hcleat : t.deriveCleat hr = s.deriveCleat hr := by
    funext c
    simp only [State.deriveCleat, hqual, hstale, hn]
  have hpanel : t.derivePanel = s.derivePanel := by
    funext h cover i
    simp only [State.derivePanel, hqual]
  have hqualified : t.allQualified = s.allQualified := by
    funext h
    simp only [State.allQualified, hp]
  have honline : t.allOnline = s.allOnline := by
    funext h
    simp only [State.allOnline, hp, nodeOnline_of_still ho]
  simp only [State.deriveHatch, hcleat, hpanel, hqualified, honline]

theorem directed_congr {s t : State} (hp : t.points = s.points) (hn : t.now = s.now)
    (ho : t.nodes.map Node.still = s.nodes.map Node.still) (hr : Hatch) (st : Step) :
    t.directed hr st = s.directed hr st := by
  cases st with
  | releaseGroup g => exact deriveHatch_congr hp hn ho _
  | engageGroup g => exact deriveHatch_congr hp hn ho _
  | lift | lower | travelOpen | travelClose | foldOpen | foldClose => rfl

/-! ### The direction that a grant records (R4) -/

theorem followAlarms_self (sea : Prop) [Decidable sea] (time : Nat) (hr : Hatch) (al : AlarmList) :
    followAlarms sea time hr hr al = al := by
  unfold followAlarms
  rw [if_pos rfl, if_neg (fun h => h.2.2 h.2.1), if_neg (fun h => h.2.1 h.2.2)]

section
variable {s : State} {h : Nat} {hr : Hatch} (hh : s.hatch? h = some hr)
include hh

/-- A direction recorded for a group, and the record brought up to date (R4, R8). -/
theorem refresh_directed (g : Nat) (d : Direction) :
    (s.updHatch h fun x => { x with
      groups := updateKey Group.num g (fun y => { y with dir := d }) x.groups }).refresh h =
    let new := s.deriveHatch { hr with
      groups := updateKey Group.num g (fun y => { y with dir := d }) hr.groups }
    { s with
      hatches := s.hatches.map fun x => if x.num = h then new else x
      alarms := followAlarms (s.mode = .sea) s.runningTime hr new s.alarms } := by
  have hh' := hatch?_updHatch_same s h (fun x => { x with
    groups := updateKey Group.num g (fun y => { y with dir := d }) x.groups }) (by intros; rfl)
  rw [hh, Option.map_some] at hh'
  rw [refresh_eq hh']
  have hmaps : ∀ (f : Hatch → Hatch) (y : Hatch), (∀ x, (f x).num = x.num) →
      (updateKey Hatch.num h f s.hatches).map (fun x => if x.num = h then y else x) =
        s.hatches.map fun x => if x.num = h then y else x := by
    intro f y hf
    rw [updateKey_eq, List.map_map]
    refine List.map_congr_left fun x _ => ?_
    by_cases hx : x.num = h
    · simp [hx, hf]
    · simp [hx]
  rw [updHatch_hatches, hmaps _ _ (by intros; rfl)]
  rfl

theorem recordDirection_eq (st : Step) : s.recordDirection h st = { s with
    hatches := s.hatches.map fun x =>
      if x.num = h then (if st.direction = none then x else s.directed hr st) else x
    alarms := followAlarms (s.mode = .sea) s.runningTime hr (s.directed hr st) s.alarms } := by
  have hnone : st.direction = none → s.directed hr st = hr → s.recordDirection h st = { s with
      hatches := s.hatches.map fun x =>
        if x.num = h then (if st.direction = none then x else s.directed hr st) else x
      alarms := followAlarms (s.mode = .sea) s.runningTime hr (s.directed hr st) s.alarms } := by
    intro hd hsame
    simp only [State.recordDirection, hd, hsame, followAlarms_self, if_true, ite_self, List.map_id']
  cases st with
  | releaseGroup g => exact refresh_directed hh g .release
  | engageGroup g => exact refresh_directed hh g .engage
  | lift | lower | travelOpen | travelClose | foldOpen | foldClose => exact hnone rfl rfl

end

/-! ### The grant of the head (R52) -/

/-- The state after a grant, before the Engine tests the target of the step. -/
def State.granting (s : State) (e : Entry) (hr : Hatch) (d speed : Nat) (clamped : Bool) : State :=
  { s with
    queue := s.queue.filter fun x => x.hatch != e.hatch
    granted := s.granted ++ [⟨e.hatch, e.step, e.closing, e.time, s.qStep e.hatch e.step, d, speed,
      speed, clamped⟩]
    nodes := (s.writeValves e.hatch (e.step.opposedWrites ++ hr.drivenWrites e.step speed)).nodes
    ops := s.ops.map fun r =>
      if r.hatch = e.hatch then { r with st := .moving, start := some s.now, watch := none } else r
    hatches := s.hatches.map fun r =>
      if r.num = e.hatch then
        { (if e.step.direction = none then r else s.directed hr e.step) with
          classifier := if s.qual .hatchPressure e.hatch 0 = some true then .timing none
            else .watching }
      else r
    alarms := followAlarms (s.mode = .sea) s.runningTime hr (s.directed hr e.step)
      (s.alarms.clear .stall (.hatch e.hatch)) }

/-- A grant before its valves are set: MOVING, without STALL. -/
def State.begun (s : State) (e : Entry) (d speed : Nat) (clamped : Bool) : State :=
  { s with
    queue := s.queue.filter fun x => x.hatch != e.hatch
    granted := s.granted ++ [⟨e.hatch, e.step, e.closing, e.time, s.qStep e.hatch e.step, d, speed,
      speed, clamped⟩]
    ops := s.ops.map fun r =>
      if r.hatch = e.hatch then { r with st := .moving, start := some s.now, watch := none } else r
    alarms := s.alarms.clear .stall (.hatch e.hatch) }

/-- A grant after its valves are set. -/
def State.opened (s : State) (e : Entry) (hr : Hatch) (d speed : Nat) (clamped : Bool) : State :=
  { s.begun e d speed clamped with
    nodes := (s.writeValves e.hatch (e.step.opposedWrites ++ hr.drivenWrites e.step speed)).nodes }

theorem openValves_begun {s : State} {e : Entry} {hr : Hatch} (hn : hr.num = e.hatch)
    (d speed : Nat) (clamped : Bool) :
    (s.begun e d speed clamped).openValves hr e.step speed = s.opened e hr d speed clamped := by
  rw [openValves_eq_writeValves, writeValves_eq, hn,
    nodes_writeValves e.hatch _ (s := s) (t := s.begun e d speed clamped) rfl rfl,
    State.opened]

theorem classifierStart_eq (s : State) (h : Nat) : s.classifierStart h = { s with
    hatches := s.hatches.map fun r => if r.num = h then
      { r with classifier := if s.qual .hatchPressure h 0 = some true then .timing none
        else .watching } else r } := by
  rw [State.classifierStart, State.updHatch, updateKey_eq]

theorem grantHead_eq {s : State} {e : Entry} {hr : Hatch} (hh : s.hatch? e.hatch = some hr)
    (d speed : Nat) (clamped : Bool) : s.grantHead e d speed clamped =
      (s.granting e hr d speed clamped).testTarget e.hatch := by
  have hnum : hr.num = e.hatch := findKey_key (key := Hatch.num) hh
  have htake : s.grantHead e d speed clamped =
      (((((s.begun e d speed clamped).openValves hr e.step speed).recordDirection e.hatch
        e.step).classifierStart e.hatch).testTarget e.hatch) := by
    have hh' : State.hatch? { s with
        queue := s.queue.filter fun x => x.hatch != e.hatch
        granted := s.granted ++ [⟨e.hatch, e.step, e.closing, e.time, s.qStep e.hatch e.step, d,
          speed, speed, clamped⟩] } e.hatch = some hr := hh
    simp only [State.grantHead, State.takeGrant, hh', State.updOp, updateKey_eq]
    rfl
  have hstill : (s.opened e hr d speed clamped).nodes.map Node.still = s.nodes.map Node.still := by
    rw [State.opened, ← hnum, ← openValves_eq_writeValves]
    exact (onlyMotion_openValves ..).nodes
  have hdirected : (s.directed hr e.step).num = e.hatch := by
    rw [← hnum]
    cases e.step <;> rfl
  rw [htake, openValves_begun hnum, recordDirection_eq (s := s.opened e hr d speed clamped) hh e.step,
    directed_congr (s := s) (t := s.opened e hr d speed clamped) rfl rfl hstill, classifierStart_eq]
  have hrecords : (s.hatches.map fun x => if x.num = e.hatch then
        (if e.step.direction = none then x else s.directed hr e.step) else x).map
      (fun r => if r.num = e.hatch then { r with
        classifier := if s.qual .hatchPressure e.hatch 0 = some true then .timing none
          else .watching } else r) = (s.granting e hr d speed clamped).hatches := by
    rw [List.map_map]
    refine List.map_congr_left fun r _ => ?_
    by_cases hr' : r.num = e.hatch
    · by_cases hd : e.step.direction = none
      · simp only [Function.comp_apply, if_pos hr', if_pos hd]
      · simp only [Function.comp_apply, if_pos hr', if_neg hd, if_pos hdirected]
    · simp only [Function.comp_apply, if_neg hr']
  refine congrArg (State.testTarget · e.hatch) ?_
  refine Eq.trans ?_ (b := { s.granting e hr d speed clamped with
    hatches := (s.granting e hr d speed clamped).hatches }) rfl
  rw [← hrecords]
  rfl

theorem directed_of_none {s : State} {hr : Hatch} {st : Step} (hd : st.direction = none) :
    s.directed hr st = hr := by
  cases st with
  | releaseGroup g => cases hd
  | engageGroup g => cases hd
  | lift | lower | travelOpen | travelClose | foldOpen | foldClose => rfl

section
variable {s : State} {e : Entry} {o : Op} {hr : Hatch} (d speed : Nat) (clamped : Bool)

theorem op?_granting (ho : s.op? e.hatch = some o) :
    (s.granting e hr d speed clamped).op? e.hatch =
      some { o with st := .moving, start := some s.now, watch := none } := by
  have hfound := findKey_updateKey_same Op.hatch e.hatch
    (fun r => { r with st := .moving, start := some s.now, watch := none }) (by intro _ hk; exact hk)
    s.ops
  rw [updateKey_eq] at hfound
  exact hfound.trans (congrArg _ ho)

theorem hatch?_granting (hh : s.hatch? e.hatch = some hr) :
    (s.granting e hr d speed clamped).hatch? e.hatch = some { s.directed hr e.step with
      classifier := if s.qual .hatchPressure e.hatch 0 = some true then .timing none
        else .watching } := by
  have hnum : hr.num = e.hatch := findKey_key (key := Hatch.num) hh
  have hdirected : (s.directed hr e.step).num = e.hatch := by
    rw [← hnum]
    cases e.step <;> rfl
  have hfound := findKey_updateKey_same Hatch.num e.hatch (fun r =>
    { (if e.step.direction = none then r else s.directed hr e.step) with
      classifier := if s.qual .hatchPressure e.hatch 0 = some true then .timing none
        else .watching }) (fun r hk => by
      by_cases hd : e.step.direction = none
      · simp only [if_pos hd, hk]
      · simp only [if_neg hd, hdirected]) s.hatches
  rw [updateKey_eq] at hfound
  refine hfound.trans ((congrArg _ hh).trans (congrArg some ?_))
  by_cases hd : e.step.direction = none
  · simp only [if_pos hd, directed_of_none hd]
  · simp only [if_neg hd]

variable (ho : s.op? e.hatch = some o) (hp : o.prog.head? = some e.step)
  (hh : s.hatch? e.hatch = some hr)
include ho hp hh

theorem grantHead_of_short (ht : ¬(s.directed hr e.step).AtTarget e.step) :
    s.grantHead e d speed clamped = s.granting e hr d speed clamped := by
  obtain ⟨rest, hprog⟩ := List.head?_eq_some_iff.mp hp
  rw [grantHead_eq hh]
  refine testTarget_of_short (rest := rest) (op?_granting d speed clamped ho)
    (hatch?_granting d speed clamped hh) hprog rfl ?_
  exact Bool.eq_false_iff.mpr fun hc => ht ((targetHolds_iff _ _).mp hc)

theorem grantHead_of_target (ht : (s.directed hr e.step).AtTarget e.step) :
    s.grantHead e d speed clamped = (s.granting e hr d speed clamped).complete e.hatch := by
  rw [grantHead_eq hh, State.testTarget, op?_granting d speed clamped ho,
    hatch?_granting d speed clamped hh]
  have hstep : Op.step? { o with st := .moving, start := some s.now, watch := none } =
      some e.step := hp
  have hholds : Hatch.targetHolds { s.directed hr e.step with
      classifier := if s.qual .hatchPressure e.hatch 0 = some true then .timing none
        else .watching } e.step = true := (targetHolds_iff _ _).mpr ht
  simp only [hstep, hholds, if_true]

end

/-! ### The rounds of an evaluation -/

/-- The steps that the programs hold. -/
def progSum (ops : List Op) : Nat := (ops.map fun o => o.prog.length).sum

theorem evalRounds_eq (s : State) : s.evalRounds = s.queue.length + progSum s.ops + 1 := rfl

/-- A shorter program makes the sum less. -/
theorem progSum_updateKey_lt {ops : List Op} (hn : (ops.map Op.hatch).Nodup) {h : Nat} {o : Op}
    (ho : findKey Op.hatch h ops = some o) {f : Op → Op} (hf : (f o).prog.length < o.prog.length) :
    progSum (updateKey Op.hatch h f ops) < progSum ops := by
  obtain rfl : o.hatch = h := findKey_key ho
  obtain ⟨-, a, b, rfl, -⟩ := List.find?_eq_some_iff_append.mp ho
  rw [updateKey_key hn]
  simp only [progSum, List.map_append, List.map_cons, List.sum_append, List.sum_cons]
  omega

theorem progSum_of_progs {a b : List Op} (h : a.map Op.prog = b.map Op.prog) :
    progSum a = progSum b := by
  have hlen : ∀ l : List Op, progSum l = ((l.map Op.prog).map List.length).sum := fun l => by
    rw [List.map_map]
    rfl
  rw [hlen, hlen, h]

theorem length_insertEntry (e : Entry) (q : List Entry) :
    (insertEntry e q).length = q.length + 1 :=
  (insertEntry_perm e q).length_eq

/-- An offer takes a step out of the program before it queues one. -/
theorem evalRounds_offerFrom {s : State} {hr : Hatch} {o : Op} (hn : (s.ops.map Op.hatch).Nodup)
    (ho : s.op? hr.num = some o) (closing : Bool) (prog : List Step)
    (hp : prog.length < o.prog.length) :
    (s.offerFrom hr closing prog).evalRounds ≤ s.evalRounds := by
  have hless : ∀ f : Op → Op, (f o).prog = prog →
      progSum (updateKey Op.hatch hr.num f s.ops) < progSum s.ops := fun f hf =>
    progSum_updateKey_lt hn ho (hf ▸ hp)
  have hkept : ∀ (ops : List Op) (h : Nat) (f : Op → Op), (∀ x, (f x).prog = x.prog) →
      progSum (updateKey Op.hatch h f ops) = progSum ops := fun ops h f hf =>
    progSum_of_progs (map_updateKey Op.hatch Op.prog h f (fun x _ => hf x) ops)
  induction prog with
  | nil =>
    have hsum := hless Op.cleared rfl
    change s.queue.length + progSum (updateKey Op.hatch hr.num Op.cleared s.ops) + 1 ≤ _
    rw [evalRounds_eq]
    omega
  | cons st rest ih =>
    have hsum := hless (fun x => { x with prog := st :: rest, start := none }) rfl
    have hstop : ∀ (x : OpState) (r : HaltReason) (f : Option FaultKind),
        ((s.withProgram hr st rest).stopAtOffer hr.num x r f).evalRounds ≤ s.evalRounds := by
      intro x r f
      have hsame : progSum ((s.withProgram hr st rest).stopAtOffer hr.num x r f).ops =
          progSum (s.withProgram hr st rest).ops := hkept _ _ _ (by intro; rfl)
      rw [evalRounds_eq, evalRounds_eq, hsame]
      change s.queue.length + progSum (updateKey Op.hatch hr.num
        (fun x => { x with prog := st :: rest, start := none }) s.ops) + 1 ≤ _
      omega
    cases ht : hr.targetHolds st with
    | true =>
      rw [offerFrom_of_target s closing rest ht]
      exact ih (Nat.lt_of_succ_lt hp) fun f hf => progSum_updateKey_lt hn ho
        (hf ▸ Nat.lt_of_succ_lt hp)
    | false =>
      cases hoff : s.stepOffline hr st with
      | true =>
        rw [offerFrom_of_offline closing rest ht hoff]
        exact hstop ..
      | false =>
        cases hd : hr.stepDisagrees st with
        | true =>
          rw [offerFrom_of_disagree closing rest ht hoff hd]
          exact hstop ..
        | false =>
          rw [offerFrom_of_entry closing rest ht hoff hd, evalRounds_eq, evalRounds_eq]
          have hsame : progSum ((s.withProgram hr st rest).updOp hr.num
              fun o => { o with st := .queued }).ops = progSum (s.withProgram hr st rest).ops :=
            hkept _ _ _ (by intro; rfl)
          change (insertEntry _ s.queue).length + progSum ((s.withProgram hr st rest).updOp hr.num
            fun o => { o with st := .queued }).ops + 1 ≤ _
          rw [length_insertEntry, hsame]
          change s.queue.length + 1 + progSum (updateKey Op.hatch hr.num
            (fun x => { x with prog := st :: rest, start := none }) s.ops) + 1 ≤ _
          omega

theorem evalRounds_testTarget {s : State} (hn : (s.ops.map Op.hatch).Nodup) (h : Nat) :
    (s.testTarget h).evalRounds ≤ s.evalRounds := by
  cases ho : s.op? h with
  | none => simp [State.testTarget, ho]
  | some o =>
    cases hh : s.hatch? h with
    | none => simp [State.testTarget, ho, hh]
    | some hr =>
      have hnum : hr.num = h := findKey_key (key := Hatch.num) hh
      by_cases hst : o.st = .moving
      · cases hp : o.prog with
        | nil => simp [State.testTarget, ho, hh, hst, Op.step?, hp]
        | cons st rest =>
          cases ht : hr.targetHolds st with
          | false => rw [testTarget_of_short ho hh hp hst ht]
          | true =>
            rw [testTarget_of_target ho hh hp hst ht]
            have hend : (s.endMotion o).ops = s.ops ∧ (s.endMotion o).queue = s.queue := by
              rw [endMotion_keeps]
              exact ⟨rfl, rfl⟩
            refine (evalRounds_offerFrom (o := o) (hend.1 ▸ hn) ?_ _ rest ?_).trans ?_
            · rw [State.op?, hend.1, hnum]
              exact ho
            · rw [hp]
              exact Nat.lt_succ_self _
            · rw [evalRounds_eq, evalRounds_eq, hend.1, hend.2]
      · have hstay : s.testTarget h = s := by
          simp only [State.testTarget, ho, hh]
          cases hx : o.st with
          | moving => exact absurd hx hst
          | idle | queued | paused | faulted => rfl
        rw [hstay]

theorem progs_haltOp (s : State) (h : Nat) (st : OpState) (r : Option HaltReason)
    (f : Option FaultKind) : (s.haltOp h st r f).ops.map Op.prog = s.ops.map Op.prog := by
  unfold State.haltOp
  split
  · rfl
  · next o ho =>
    dsimp only
    split
    · refine (map_updateKey Op.hatch Op.prog _ _ (by intros; rfl) _).trans ?_
      rw [endMotion_keeps]
    · refine (map_updateKey Op.hatch Op.prog _ _ (by intros; rfl) _).trans ?_
      rw [dropEntry_eq]
    · rfl

theorem progs_removalPass (s : State) : s.removalPass.ops.map Op.prog = s.ops.map Op.prog := by
  unfold State.removalPass
  generalize s.queue = q
  induction q generalizing s with
  | nil => rfl
  | cons e q ih =>
    refine (ih (s.visitEntry e)).trans ?_
    unfold State.visitEntry
    split
    · exact progs_haltOp ..
    · exact progs_haltOp ..
    · rfl

theorem evalRounds_removalPass {s : State} (hm : MotionIn .whole s) :
    s.removalPass.evalRounds ≤ s.evalRounds := by
  have hlen : s.removalPass.queue.length ≤ s.queue.length :=
    queue_removalPass hm ▸ List.length_filterMap_le ..
  rw [evalRounds_eq, evalRounds_eq, progSum_of_progs (progs_removalPass s)]
  omega

/-- A grant takes an entry out of the queue. -/
theorem evalRounds_grantHead {s : State} (hm : MotionIn .whole s) {e : Entry} (he : e ∈ s.queue)
    (d speed : Nat) (clamped : Bool) :
    (s.grantHead e d speed clamped).evalRounds < s.evalRounds := by
  obtain ⟨hr, hh⟩ := Option.ne_none_iff_exists'.mp (hm.hatch_of_entry he)
  have hshort : (s.queue.filter fun x => x.hatch != e.hatch).length < s.queue.length :=
    List.length_filter_lt_length_iff_exists.mpr ⟨e, he, by simp⟩
  have hhatches : (s.granting e hr d speed clamped).ops.map Op.hatch = s.ops.map Op.hatch := by
    simp only [State.granting, ← updateKey_eq]
    exact map_updateKey Op.hatch Op.hatch _ _ (by intros; rfl) _
  have hprogs : (s.granting e hr d speed clamped).ops.map Op.prog = s.ops.map Op.prog := by
    simp only [State.granting, ← updateKey_eq]
    exact map_updateKey Op.hatch Op.prog _ _ (by intros; rfl) _
  rw [grantHead_eq hh]
  refine (evalRounds_testTarget (hhatches ▸ hm.nodup) e.hatch).trans_lt ?_
  rw [evalRounds_eq, evalRounds_eq, progSum_of_progs hprogs]
  change (s.queue.filter fun x => x.hatch != e.hatch).length + _ + 1 < _
  omega

/-- An evaluation does not depend on the rounds that it is given, if they are enough. -/
theorem evalLoop_congr (n m : Nat) {s : State} (hm : MotionIn .whole s) (hn : s.evalRounds ≤ n)
    (hk : s.evalRounds ≤ m) : State.evalLoop n s = State.evalLoop m s := by
  induction n generalizing m s with
  | zero => exact absurd hn (Nat.not_succ_le_zero _)
  | succ n ih =>
    cases m with
    | zero => exact absurd hk (Nat.not_succ_le_zero _)
    | succ m =>
      cases hq : s.removalPass.queue with
      | nil => rw [evalLoop_of_empty n hq, evalLoop_of_empty m hq]
      | cons e rest =>
        cases ho : s.offerOf e.hatch e.step with
        | noPermit => simp only [State.evalLoop, hq, offerOf_removalPass, ho]
        | noFlow => simp only [State.evalLoop, hq, offerOf_removalPass, ho]
        | fits d speed clamped =>
          by_cases hd : d ≤ s.removalPass.freeFlow
          · rw [evalLoop_of_granted n hq ho hd, evalLoop_of_granted m hq ho hd]
            have hpass := (moves_removalPass s).motionIn hm
            have hless := evalRounds_grantHead hpass (e := e) (hq ▸ List.mem_cons_self) d speed clamped
            have hpassed := evalRounds_removalPass hm
            exact ih m ((moves_grantHead hq ((offerOf_removalPass ..).trans ho) hd).motionIn hpass)
              (by omega) (by omega)
          · rw [evalLoop_of_blocked n hq ho (Nat.lt_of_not_le hd),
              evalLoop_of_blocked m hq ho (Nat.lt_of_not_le hd)]

end Sys2Proof.Machine

/-! The demand, its clamp and the blocked head (R77 to R84). -/

namespace Sys2Proof.Machine

/-! ### The evaluation of any queue -/

section
variable {s : State}

theorem evaluate_of_empty (hq : s.removalPass.queue = []) : s.evaluate = s.removalPass :=
  evalLoop_of_empty (s.queue.length + progSum s.ops) hq

variable (hm : MotionIn .whole s) {e : Entry} {rest : List Entry} {d speed : Nat} {clamped : Bool}
  (hq : s.removalPass.queue = e :: rest) (ho : s.offerOf e.hatch e.step = .fits d speed clamped)
include hm hq ho

theorem demand_of_passed : e.demand = some d := by
  have he : e ∈ s.queue.filterMap s.passed := queue_removalPass hm ▸ hq ▸ List.mem_cons_self
  obtain ⟨x, -, hx⟩ := List.mem_filterMap.mp he
  unfold State.passed at hx
  split at hx
  · next d' speed' clamped' hoffer =>
    obtain rfl := Option.some.inj hx
    have hsame := hoffer.symm.trans ho
    simp only [Offer.fits.injEq] at hsame
    exact congrArg some hsame.1
  · cases hx

theorem evaluate_of_blocked (hd : s.removalPass.freeFlow < d) : s.evaluate =
    State.startPump { s.removalPass with queue := { e with blocked := true } :: rest } := by
  have hnodup := ((moves_removalPass s).motionIn hm).queue
  have hnote : (s.removalPass.noteEntry e.hatch d true) =
      { s.removalPass with queue := { e with blocked := true } :: rest } := by
    rw [hq] at hnodup
    have hhead := updateKey_key (key := Entry.hatch) (a := []) hnodup
      fun x => { x with demand := some d, blocked := true }
    have hmark : { e with demand := some d, blocked := true } = { e with blocked := true } := by
      rw [← demand_of_passed hm hq ho]
    simp only [List.nil_append, hmark] at hhead
    simp only [State.noteEntry, hq, hhead]
  exact (evalLoop_of_blocked _ hq ho hd).trans (congrArg State.startPump hnote)

theorem evaluate_of_granted (hd : d ≤ s.removalPass.freeFlow) :
    s.evaluate = (s.removalPass.grantHead e d speed clamped).evaluate := by
  have hpass := (moves_removalPass s).motionIn hm
  have hless := evalRounds_grantHead hpass (e := e) (hq ▸ List.mem_cons_self) d speed clamped
  have hpassed := evalRounds_removalPass hm
  have hgo := (moves_grantHead hq ((offerOf_removalPass ..).trans ho) hd).motionIn hpass
  refine (evalLoop_of_granted (s.queue.length + progSum s.ops) hq ho hd).trans
    (evalLoop_congr _ _ hgo ?_ le_rfl)
  rw [evalRounds_eq s] at hpassed
  omega

end

/-! ### The evaluation of a queue of one entry -/

section
variable {s : State} {e : Entry} (hq : s.queue = [e])
include hq

theorem removalPass_of_one : s.removalPass = s.visitEntry e := by
  rw [State.removalPass, hq]
  rfl

theorem evaluate_of_paused (hs : s.opState e.hatch = .queued) {r : HaltReason}
    (hv : s.visitEntry e = s.pauseOp e.hatch r) : s.evaluate = s.pauseOp e.hatch r := by
  have hpass := (removalPass_of_one hq).trans hv
  have hempty : s.removalPass.queue = [] := by
    rw [hpass, State.pauseOp, queue_haltOp hs, hq]
    simp
  exact (evalLoop_of_empty (s.queue.length + progSum s.ops) hempty).trans hpass

variable {d speed : Nat} {clamped : Bool} (ho : s.offerOf e.hatch e.step = .fits d speed clamped)
include ho

theorem removalPass_of_fits : s.removalPass =
    { s with queue := [{ e with demand := some d, blocked := false }] } := by
  rw [removalPass_of_one hq, State.visitEntry, ho]
  simp only [State.noteEntry, hq]
  simp [updateKey]

theorem evaluate_of_one_blocked (hd : s.freeFlow < d) : s.evaluate =
    State.startPump { s with queue := [{ e with demand := some d, blocked := true }] } := by
  have hpass := removalPass_of_fits hq ho
  have hfree : s.removalPass.freeFlow < d := by
    rw [hpass]
    exact hd
  refine (evalLoop_of_blocked (s.queue.length + progSum s.ops)
    (e := { e with demand := some d, blocked := false }) (rest := []) (by rw [hpass]) ho hfree).trans ?_
  rw [hpass]
  simp [State.noteEntry, updateKey]

/-- A queue of one entry whose step is granted and runs on. -/
theorem evaluate_of_one_granted (hd : d ≤ s.freeFlow) {o : Op} {hr : Hatch}
    (hop : s.op? e.hatch = some o) (hp : o.prog.head? = some e.step) (hh : s.hatch? e.hatch = some hr)
    (ht : ¬(s.directed hr e.step).AtTarget e.step) :
    s.evaluate = { s.granting e hr d speed clamped with queue := [] } := by
  have hpass := removalPass_of_fits hq ho
  have hfree : d ≤ s.removalPass.freeFlow := by
    rw [hpass]
    exact hd
  have hgrant : s.removalPass.grantHead { e with demand := some d, blocked := false } d speed clamped =
      { s.granting e hr d speed clamped with queue := [] } := by
    rw [hpass]
    refine (grantHead_of_short (s := { s with
      queue := [{ e with demand := some d, blocked := false }] })
      (e := { e with demand := some d, blocked := false }) d speed clamped hop hp hh ht).trans ?_
    have hnodes := nodes_writeValves e.hatch (e.step.opposedWrites ++ hr.drivenWrites e.step speed)
      (s := s) (t := { s with queue := [{ e with demand := some d, blocked := false }] }) rfl rfl
    have hgone : [({ e with demand := some d, blocked := false } : Entry)].filter
        (fun x => x.hatch != e.hatch) = [] := by simp
    simp only [State.granting, hnodes, hgone]
    rfl
  refine (evalLoop_of_granted (s.queue.length + progSum s.ops)
    (e := { e with demand := some d, blocked := false }) (rest := []) (by rw [hpass]) ho hfree).trans ?_
  rw [hgrant, hq, List.length_singleton, Nat.add_comm 1]
  exact evalLoop_of_empty _ rfl

end

/-- Settles O32: the rows of the offer, the removal pass, and the rounds of the evaluation. -/
theorem demandClampAndTheBlockedHead : Obligations.DemandClampAndTheBlockedHead := by
  unfold Obligations.DemandClampAndTheBlockedHead
  refine ⟨demandAt_bounds, fun s h st => ⟨fun hp => ?_, fun p hp => offerOf_of_fraction hp h⟩,
    fun s r h i v => ⟨fun hp => drive_of_unbound hp v, fun p hp => drive_of_bound hp v⟩,
    fun e q hq => ⟨pairwise_insertEntry e hq, insertEntry_split e q⟩, ?_, ?_, ?_⟩
  · simp only [State.offerOf, hp]
  · rintro s r hs rfl
    have hm := (motionOk_iff s).mp hs
    exact ⟨queue_removalPass hm, removalPass_eq hm, evaluate_of_empty, fun e rest d speed clamped hq ho =>
      ⟨evaluate_of_blocked hm hq ho, evaluate_of_granted hm hq ho⟩⟩
  · rintro s x e rest o hr new d speed clamped hs hq ho hp hh rfl rfl
    have hnodup := ((motionOk_iff s).mp hs).queue
    rw [hq] at hnodup
    have hrest : s.queue.filter (fun x => x.hatch != e.hatch) = rest := by
      rw [hq]
      exact filter_key_ne (a := []) hnodup
    have hgranting : s.granting e hr d speed clamped =
        { s.granting e hr d speed clamped with queue := rest } := by
      rw [← hrest]
      rfl
    refine ⟨fun ht => ?_, fun ht => ?_⟩
    · rw [grantHead_of_short d speed clamped ho hp hh ht, hgranting]
      rfl
    · rw [grantHead_of_target d speed clamped ho hp hh ht, hgranting]
      rfl
  · intro s e o hq hop hst
    have hs : s.opState e.hatch = .queued := (opState_of_op? hop).trans hst
    refine ⟨fun ho => evaluate_of_paused hq hs ?_, fun ho => evaluate_of_paused hq hs ?_,
      fun d speed clamped ho => ⟨evaluate_of_one_blocked hq ho, ?_⟩⟩
    · simp only [State.visitEntry, ho]
    · simp only [State.visitEntry, ho]
    · rintro hr new hd hp hh rfl ht
      exact evaluate_of_one_granted hq ho hd hop hp hh ht

end Sys2Proof.Machine

/-! The turns of the field line (R23 to R28, R33): what a good reply, and what follows it, makes of the
node records. -/

namespace Sys2Proof.Machine

/-! ### What happens within a turn -/

/-- Between the judgement of a turn and its end: what a motion may change, and the points. -/
structure InTurn (s t : State) : Prop where
  rest : t = { s with
    nodes := t.nodes
    points := t.points
    hatches := t.hatches
    ops := t.ops
    claims := t.claims
    queue := t.queue
    granted := t.granted
    pumps := t.pumps
    band := t.band
    budget := t.budget
    maxB := t.maxB
    pumpIdle := t.pumpIdle
    alarms := t.alarms }
  still : t.nodes.map Node.still = s.nodes.map Node.still

theorem InTurn.refl (s : State) : InTurn s s := ⟨rfl, rfl⟩

theorem InTurn.trans {s t u : State} (h : InTurn s t) (k : InTurn t u) : InTurn s u := by
  refine ⟨?_, k.still.trans h.still⟩
  rw [k.rest, h.rest]

theorem OnlyMotion.inTurn {s t : State} (h : OnlyMotion s t) : InTurn s t := by
  refine ⟨?_, h.nodes⟩
  rw [h.rest]

theorem InTurn.foldl {α : Type} {f : State → α → State} (hf : ∀ x a, InTurn x (f x a)) (l : List α)
    (s : State) : InTurn s (l.foldl f s) := by
  induction l generalizing s with
  | nil => exact .refl s
  | cons a l ih => exact (hf s a).trans (ih _)

theorem inTurn_handOn (s : State) (p : Point) (v : Bool) : InTurn s (s.handOn p v) := by
  rw [handOn_eq]
  split
  · exact (onlyMotion_hatchEvent ..).inTurn
  · split
    · exact (onlyMotion_pumpFeedback ..).inTurn
    · exact (onlyMotion_rederiveBand _).inTurn

theorem inTurn_updInput (s : State) (a k : Nat) (f : Point → Point) :
    InTurn s (s.updInput a k f) := ⟨rfl, rfl⟩

theorem inTurn_sampleDebounced (s : State) (p : Point) (v : Bool) :
    InTurn s (s.sampleDebounced p v) := by
  unfold State.sampleDebounced
  dsimp only
  split
  · exact (inTurn_updInput ..).trans (inTurn_handOn ..)
  · split
    · refine InTurn.trans ?_ (inTurn_updInput ..)
      rw [noteChatter_eq]
      split
      · exact (onlyMotion_raiseAlarm ..).inTurn
      · exact .refl s
    · exact inTurn_updInput ..

theorem inTurn_takeStall (s : State) (h : Nat) : InTurn s (s.takeStall h) := by
  unfold State.takeStall
  split
  · exact .refl s
  · split
    · dsimp only
      refine InTurn.trans ?_ (onlyMotion_evaluate _).inTurn
      split
      · exact (((onlyMotion_pauseOp ..).updOp _ _ (by intros; rfl)).trans
          (onlyMotion_raiseAlarm ..)).inTurn
      · exact (((onlyMotion_faultOp ..).updOp _ _ (by intros; rfl)).trans
          (onlyMotion_raiseAlarm ..)).inTurn
    · exact .refl s

theorem inTurn_stallTest (s : State) (h : Nat) (stall : Bool) :
    InTurn s (if stall then s.takeStall h else s) := by
  split
  · exact inTurn_takeStall s h
  · exact .refl s

theorem inTurn_samplePressure (s : State) (p : Point) (high : Bool) :
    InTurn s (s.samplePressure p high) := by
  unfold State.samplePressure
  dsimp only
  have hwatch : InTurn s (if high then s.updInput p.node p.point fun x =>
        { x with qual := some high, stale := false }
      else (s.updInput p.node p.point fun x => { x with qual := some high, stale := false }).updOp
        p.subject fun o => { o with watch := none }) := by
    split
    · exact inTurn_updInput ..
    · refine InTurn.trans (inTurn_updInput s p.node p.point fun x =>
        { x with qual := some high, stale := false }) (OnlyMotion.inTurn ?_)
      exact (OnlyMotion.refl _).updOp _ _ (by intros; rfl)
  split
  · exact hwatch
  · refine (hwatch.trans ?_).trans (inTurn_stallTest _ _ _)
    exact (onlyMotion_updHatch _ _ _ (by intros; rfl)).inTurn

theorem inTurn_sampleInput (s : State) (a : Nat) (w : Word) (k : Nat) :
    InTurn s (s.sampleInput a w k) := by
  unfold State.sampleInput
  split
  · exact .refl s
  · dsimp only
    split
    · exact inTurn_samplePressure ..
    · exact inTurn_sampleDebounced ..

theorem inTurn_sampleNode (s : State) (a : Nat) (w : Word) (order : List Nat) :
    InTurn s (s.sampleNode a w order) := InTurn.foldl (fun x k => inTurn_sampleInput x a w k) _ s

theorem inTurn_refreshAll (s : State) : InTurn s s.refreshAll :=
  InTurn.foldl (fun x h => (onlyMotion_refresh x h).inTurn) _ s

/-! ### The return of a node (R28) -/

theorem regain_eq (p : Point) : p.regain =
    { p with stale := decide (p.role.code ≤ 12 ∧ p.qual = none) } := by
  have hstale : (p.role.isInput && p.qual.isNone) = decide (p.role.code ≤ 12 ∧ p.qual = none) := by
    rw [Bool.eq_iff_iff, Bool.and_eq_true, isInput_iff, Option.isNone_iff_eq_none, decide_eq_true_iff]
  rw [Point.regain, hstale]

theorem nodeReturn_eq (s : State) (a : Nat) (fromLost : Bool) : s.nodeReturn a fromLost =
    (State.refreshAll { s with
      alarms := if fromLost then s.alarms.clear .nodeLost (.node a) else s.alarms
      points := s.points.map fun p => if p.node = a then
        { p with stale := decide (p.role.code ≤ 12 ∧ p.qual = none) } else p }).rederiveBand := by
  simp only [← regain_eq]
  cases fromLost <;> rfl

theorem inTurn_nodeReturn (s : State) (a : Nat) (fromLost : Bool) :
    InTurn s (s.nodeReturn a fromLost) := by
  rw [nodeReturn_eq]
  refine (InTurn.trans ?_ (inTurn_refreshAll _)).trans (onlyMotion_rederiveBand _).inTurn
  exact ⟨rfl, rfl⟩

/-! ### The sample of a node (R31, R33) -/

theorem sampleNode_eq (s : State) (a : Nat) (w : Word) (order : List Nat) :
    s.sampleNode a w order = (((order.filter fun k => k < 16).eraseDups) ++
      (List.range 16).filter fun k => k ∉ (order.filter fun k => k < 16).eraseDups).foldl
        (fun x k => x.sampleInput a w k) s := by
  have hrest : ∀ given : List Nat, (List.range 16).filter (fun k => !(given.contains k)) =
      (List.range 16).filter fun k => k ∉ given := fun given =>
    List.filter_congr fun k _ => by simp
  rw [State.sampleNode, inputOrder, hrest]

theorem input?_code (s : State) (a k : Nat) : s.input? a k =
    s.points.find? fun p => p.node = a ∧ p.point = k ∧ p.role.code ≤ 12 := by
  unfold State.input?
  congr 1
  funext p
  rw [Bool.eq_iff_iff]
  simp [isInput_iff, and_assoc]

theorem sampleInput_of_unbound {s : State} {a k : Nat} (h : s.input? a k = none) (w : Word) :
    s.sampleInput a w k = s := by
  simp only [State.sampleInput, h]

theorem sampleInput_of_bound {s : State} {a k : Nat} {p : Point} (h : s.input? a k = some p)
    (w : Word) : s.sampleInput a w k =
      if p.role = .hatchPressure then
        s.samplePressure p (if p.inverted then !w.getLsbD k else w.getLsbD k)
      else s.sampleDebounced p (if p.inverted then !w.getLsbD k else w.getLsbD k) := by
  have hv : (w.getLsbD k != p.inverted) = if p.inverted then !w.getLsbD k else w.getLsbD k := by
    cases p.inverted <;> cases w.getLsbD k <;> rfl
  simp only [State.sampleInput, h, hv]

/-! ### The turn that a reply belongs to (R24) -/

theorem exec_fieldReply {s : State} (hp : s.power = .running) (dt a : Nat) (bytes : List Byte)
    (order : List Nat) (first : Bool) : exec (.fieldReply dt a bytes order first) s =
      .next ((s.advance dt).fieldReply a bytes order first) :=
  congrArg _ (live_of_running hp ..)

theorem retained_mode_advance {s : State} (hp : s.power = .running) (dt : Nat) :
    (s.advance dt).retained.mode = s.retained.mode := by
  rw [advance_of_running hp]

theorem exec_slotEnd {s : State} (hp : s.power = .running) (dt a : Nat) (first : Bool) :
    exec (.slotEnd dt a first) s = .next ((s.advance dt).slotEnd a first) :=
  congrArg _ (live_of_running hp ..)

theorem replyBits_iff (a : Nat) (bytes : List Byte) (w : Word) : replyBits a bytes = some w ↔
    ∃ b1 b2 : Byte, bytes = [byte a, b1, b2, crc8 [byte a, b1, b2]] ∧ w = b2 ++ b1 := by
  constructor
  · intro h
    unfold replyBits at h
    split at h
    · next b0 b1 b2 b3 =>
      split at h
      · next hc =>
        obtain ⟨rfl, rfl⟩ := hc
        exact ⟨b1, b2, rfl, (Option.some.inj h).symm⟩
      · cases h
    · cases h
  · rintro ⟨b1, b2, rfl, rfl⟩
    exact if_pos ⟨rfl, rfl⟩

/-- The turn of a node has ended with a reply. -/
def State.replied (s : State) : State := { s with scan := { s.scan with replied := true } }

section
variable {s : State} {k : Nat} {n : Node} (hp : s.scan.place = some k) (hn : s.nodes[k]? = some n)
include hp hn

theorem turnOf_own (hr : s.scan.replied = false) : s.turnOf n.addr = (s, some (k, n)) := by
  simp only [State.turnOf, hp, hn, if_true, hr, Bool.false_eq_true, if_false]

theorem fieldReply_of_good (hr : s.scan.replied = false) {bytes : List Byte} {w : Word}
    (hb : replyBits n.addr bytes = some w) (order : List Nat) (first : Bool) :
    s.fieldReply n.addr bytes order first = (s.replied.goodTurn n w order).endTurn k := by
  simp only [State.fieldReply, turnOf_own hp hn hr, hb]
  rfl

theorem fieldReply_of_bad (hr : s.scan.replied = false) {bytes : List Byte}
    (hb : replyBits n.addr bytes = none) (order : List Nat) (first : Bool) :
    s.fieldReply n.addr bytes order first = (s.replied.missTurn n first).endTurn k := by
  simp only [State.fieldReply, turnOf_own hp hn hr, hb]
  rfl

end

theorem exec_fieldReply_good {s : State} (hp : s.power = .running) (dt : Nat) {k : Nat} {n : Node}
    (hplace : s.scan.place = some k) (hr : s.scan.replied = false) (hn : s.nodes[k]? = some n)
    {bytes : List Byte} {w : Word} (hb : replyBits n.addr bytes = some w) (order : List Nat)
    (first : Bool) : exec (.fieldReply dt n.addr bytes order first) s =
      .next (((s.advance dt).replied.goodTurn n w order).endTurn k) := by
  have hscan := scan_advance_of_waiting (.inr hr) dt
  exact (exec_fieldReply hp ..).trans (congrArg _ (fieldReply_of_good (s := s.advance dt)
    (hscan ▸ hplace) hn (hscan ▸ hr) hb order first))

theorem exec_fieldReply_bad {s : State} (hp : s.power = .running) (dt : Nat) {k : Nat} {n : Node}
    (hplace : s.scan.place = some k) (hr : s.scan.replied = false) (hn : s.nodes[k]? = some n)
    {bytes : List Byte} (hb : replyBits n.addr bytes = none) (order : List Nat)
    (first : Bool) : exec (.fieldReply dt n.addr bytes order first) s =
      .next (((s.advance dt).replied.missTurn n first).endTurn k) := by
  have hscan := scan_advance_of_waiting (.inr hr) dt
  exact (exec_fieldReply hp ..).trans (congrArg _ (fieldReply_of_bad (s := s.advance dt)
    (hscan ▸ hplace) hn (hscan ▸ hr) hb order first))

/-! ### The node table (R25) -/

/-- The record of the polled node is the only one of its address. -/
theorem node_eq_of_addr {s : State} (hd : (s.nodes.map Node.addr).Nodup) {k : Nat} {n m : Node}
    (hn : s.nodes[k]? = some n) (hm : m ∈ s.nodes) (ha : m.addr = n.addr) : m = n :=
  List.inj_on_of_nodup_map hd hm (List.mem_of_getElem? hn) ha

/-- The record of a node after a good reply. -/
def Node.answered (n : Node) (w : Word) (m : Node) : Node :=
  { m with
    misses := 0
    goods := if n.st = .online ∨ 1 ≤ n.goods then 2 else 1
    st := if n.st = .online ∨ 1 ≤ n.goods then .online else n.st
    sample := some w }

/-- The record of a node after a missed turn. -/
def Node.missed (n m : Node) : Node :=
  { m with
    misses := if n.st = .lost then 3 else min (n.misses + 1) 3
    goods := 0
    st := if n.st = .online ∧ 2 ≤ n.misses then .lost else m.st }

/-- The state with the record of the polled node after a good reply. -/
def State.answered (s : State) (n : Node) (w : Word) : State :=
  { s with nodes := s.nodes.map fun m => if m.addr = n.addr then n.answered w m else m }

/-- The state with the record of the polled node after a missed turn. -/
def State.missed (s : State) (n : Node) : State :=
  { s with nodes := s.nodes.map fun m => if m.addr = n.addr then n.missed m else m }

section
variable {s : State} (hd : (s.nodes.map Node.addr).Nodup) {k : Nat} {n : Node}
  (hn : s.nodes[k]? = some n)
include hd hn

theorem updNode_eq_map {f g : Node → Node} (h : f n = g n) : s.updNode n.addr f =
    { s with nodes := s.nodes.map fun m => if m.addr = n.addr then g m else m } := by
  rw [State.updNode, updateKey_eq]
  congr 1
  refine List.map_congr_left fun m hm => ?_
  by_cases ha : m.addr = n.addr
  · rw [if_pos ha, if_pos ha, node_eq_of_addr hd hn hm ha, h]
  · rw [if_neg ha, if_neg ha]

theorem goodTurn_of_online (hst : n.st = .online) (w : Word) (order : List Nat) :
    s.goodTurn n w order = (s.answered n w).sampleNode n.addr w order := by
  rw [State.answered, ← updNode_eq_map hd hn (f := fun x =>
    { x with misses := 0, goods := 2, sample := some w }) (by simp [Node.answered, hst])]
  simp only [State.goodTurn, hst]

theorem goodTurn_of_return (hst : n.st ≠ .online) (hg : 1 ≤ n.goods) (w : Word) (order : List Nat) :
    s.goodTurn n w order =
      ((s.answered n w).nodeReturn n.addr (n.st = .lost)).sampleNode n.addr w order := by
  have htwice : (s.updNode n.addr fun x => { x with
      misses := 0, goods := min (n.goods + 1) 2, sample := some w }).updNode n.addr
        (fun x => { x with st := .online }) = s.answered n w := by
    rw [State.answered, ← updNode_eq_map hd hn (f := fun x => { x with
      misses := 0, goods := min (n.goods + 1) 2, sample := some w, st := .online })
      (by simp [Node.answered, hg])]
    simp only [State.updNode]
    rw [updateKey_updateKey (by intro; rfl)]
    rfl
  have hnot : ¬n.goods + 1 < 2 := Nat.not_lt.mpr (Nat.succ_le_succ hg)
  have hlost : (n.st == .lost) = decide (n.st = .lost) := by cases n.st <;> rfl
  cases hs : n.st with
  | online => exact absurd hs hst
  | absent | lost => simp only [State.goodTurn, hs, if_neg hnot, htwice]; rfl

theorem goodTurn_of_first (hst : n.st ≠ .online) (hg : n.goods = 0) (w : Word) (order : List Nat) :
    s.goodTurn n w order = s.answered n w := by
  rw [State.answered, ← updNode_eq_map hd hn (f := fun x =>
    { x with misses := 0, goods := min (n.goods + 1) 2, sample := some w })
    (by simp [Node.answered, hst, hg])]
  cases hs : n.st with
  | online => exact absurd hs hst
  | absent | lost => simp [State.goodTurn, hs, hg]

end

theorem inTurn_goodTurn {s : State} (hd : (s.nodes.map Node.addr).Nodup) {k : Nat} {n : Node}
    (hn : s.nodes[k]? = some n) (w : Word) (order : List Nat) :
    InTurn (s.answered n w) (s.goodTurn n w order) := by
  by_cases hst : n.st = .online
  · rw [goodTurn_of_online hd hn hst]
    exact inTurn_sampleNode ..
  · obtain hg | hg := Nat.eq_zero_or_pos n.goods
    · rw [goodTurn_of_first hd hn hst hg]
      exact .refl _
    · rw [goodTurn_of_return hd hn hst hg]
      exact (inTurn_nodeReturn ..).trans (inTurn_sampleNode ..)

/-! ### Node records by address -/

theorem node?_of_still {s t : State} (h : t.nodes.map Node.still = s.nodes.map Node.still) (a : Nat) :
    (t.node? a).map Node.still = (s.node? a).map Node.still := by
  have hfind : ∀ x : State, (x.node? a).map Node.still = findKey Node.addr a (x.nodes.map Node.still) :=
    fun x => (findKey_map Node.addr Node.still (by intro; rfl) a x.nodes).symm
  rw [hfind, hfind, h]

theorem length_of_still {s t : State} (h : t.nodes.map Node.still = s.nodes.map Node.still) :
    t.nodes.length = s.nodes.length := by
  simpa using congrArg List.length h

section
variable {s t : State} (hd : (s.nodes.map Node.addr).Nodup) {k : Nat} {n : Node}
  (hn : s.nodes[k]? = some n) {g : Node → Node} (hg : ∀ m, (g m).addr = m.addr)
  (ht : t.nodes = s.nodes.map fun m => if m.addr = n.addr then g m else m)
include hg ht

theorem node?_polled_ne {a : Nat} (ha : a ≠ n.addr) : t.node? a = s.node? a := by
  rw [State.node?, ht, ← updateKey_eq]
  exact findKey_updateKey_ne Node.addr n.addr a ha g (fun m hm => (hg m).trans hm) s.nodes

include hd hn

theorem node?_polled : t.node? n.addr = some (g n) := by
  rw [State.node?, ht, ← updateKey_eq,
    findKey_updateKey_same Node.addr n.addr g (fun m hm => (hg m).trans hm),
    findKey_of_mem hd (List.mem_of_getElem? hn), Option.map_some]

end

/-! ### The end of a turn (R23) -/

theorem onlyField_endTurn (s : State) (k : Nat) :
    OnlyField s (s.endTurn k) ∧ (s.endTurn k).nodes = s.nodes := by
  unfold State.endTurn
  split
  · dsimp only
    split
    · rw [becomeReady_eq]
      exact ⟨rfl, rfl⟩
    · exact ⟨rfl, rfl⟩
  · exact ⟨rfl, rfl⟩

theorem endTurn_scan_mode {s : State} {k : Nat} (hk : s.nodes.length ≤ k + 1) :
    (s.endTurn k).scan = { s.scan with place := none, replied := false, firstOver := true } ∧
      (s.endTurn k).mode = if s.mode = .loading ∧ s.scan.firstOver = false then s.retained.mode.part
        else s.mode := by
  by_cases hc : s.mode = .loading ∧ s.scan.firstOver = false
  · rw [endTurn_of_first hk hc.1 hc.2, becomeReady_eq, if_pos hc]
    exact ⟨rfl, rfl⟩
  · have hlast : s.mode ≠ .loading ∨ s.scan.firstOver = true := by
      by_cases hm : s.mode = .loading
      · exact .inr (Bool.eq_true_of_not_eq_false fun hf => hc ⟨hm, hf⟩)
      · exact .inl hm
    rw [endTurn_of_last hk hlast, if_neg hc]
    exact ⟨rfl, rfl⟩

theorem InTurn.onlyField {s t : State} (h : InTurn s t) : OnlyField s t := by
  unfold OnlyField
  rw [h.rest]

theorem OnlyField.trans {s t u : State} (h : OnlyField s t) (k : OnlyField t u) : OnlyField s u := by
  unfold OnlyField at *
  rw [k, h]

/-- Settles O41, by the cases of the node table. -/
theorem goodReplyFollowsTheNodeTable : Obligations.GoodReplyFollowsTheNodeTable := by
  unfold Obligations.GoodReplyFollowsTheNodeTable
  refine ⟨?_, nodeReturn_eq, fun s a w order given hgiven => hgiven ▸ sampleNode_eq s a w order,
    fun s a k w found hfound => ⟨fun hnone => ?_, fun p v hsome hv => ?_⟩, ?_⟩
  · rintro s dt k n b0 b1 b2 b3 order first x hp hd hplace hr hn rfl rfl hx
    have hscan := scan_advance_of_waiting (.inr hr) dt
    have hturn := exec_fieldReply_good hp dt hplace hr hn ((replyBits_iff ..).mpr ⟨b1, b2, rfl, rfl⟩)
      order first
    obtain rfl : x = (s.advance dt).replied.answered n (b2 ++ b1) := by
      rw [hx, State.answered, State.replied, hscan]
      rfl
    refine ⟨fun hst => ?_, fun hst hg => ?_, fun hst hg => ?_⟩
    · rw [hturn, goodTurn_of_online (s := (s.advance dt).replied) hd hn hst]
    · rw [hturn, goodTurn_of_return (s := (s.advance dt).replied) hd hn hst hg]
    · rw [hturn, goodTurn_of_first (s := (s.advance dt).replied) hd hn hst hg]
  · exact sampleInput_of_unbound ((input?_code s a k).trans (hfound.symm.trans hnone)) w
  · rw [sampleInput_of_bound ((input?_code s a k).trans (hfound.symm.trans hsome)) w, hv]
  · rintro s dt k n b0 b1 b2 b3 order first hp hd hplace hr hn rfl rfl
    have hscan := scan_advance_of_waiting (.inr hr) dt
    have hin := inTurn_goodTurn (s := (s.advance dt).replied) hd hn (b2 ++ b1) order
    have hturn := exec_fieldReply_good hp dt hplace hr hn ((replyBits_iff ..).mpr ⟨b1, b2, rfl, rfl⟩)
      order first
    generalize hu : (s.advance dt).replied.goodTurn n (b2 ++ b1) order = u at hin hturn
    have hmode : u.mode = s.mode := by
      rw [hin.rest]
      rfl
    have hscan' : u.scan = { s.scan with replied := true } := by
      rw [hin.rest, ← hscan]
      rfl
    obtain ⟨hfield, hnodes⟩ := onlyField_endTurn u k
    have hlen : u.nodes.length = s.nodes.length :=
      (length_of_still hin.still).trans (List.length_map ..)
    refine ⟨_, u, hturn, rfl, hmode, hscan', ?_, ?_, fun a ha => ?_, fun hk => ?_, fun hk => ?_⟩
    · have hpolled : OnlyField (s.advance dt) ((s.advance dt).replied.answered n (b2 ++ b1)) := rfl
      exact (hpolled.trans hin.onlyField).trans hfield
    · rw [State.node?, hnodes]
      refine (node?_of_still hin.still n.addr).trans ?_
      rw [node?_polled (s := s) (t := (s.advance dt).replied.answered n (b2 ++ b1)) hd hn
        (g := n.answered (b2 ++ b1)) (by intro; rfl) rfl]
      rfl
    · rw [State.node?, hnodes]
      refine (node?_of_still hin.still a).trans ?_
      rw [node?_polled_ne (s := s) (t := (s.advance dt).replied.answered n (b2 ++ b1))
        (g := n.answered (b2 ++ b1)) (by intro; rfl) rfl ha]
    · rw [endTurn_of_more (hlen ▸ hk)]
      exact ⟨hmode, hscan'⟩
    · obtain ⟨hs, hm⟩ := endTurn_scan_mode (s := u) (hlen ▸ hk)
      have hpart : u.retained.mode = s.retained.mode := by
        rw [hin.rest]
        exact retained_mode_advance hp dt
      rw [hs, hm, hmode, hscan', hpart]
      exact ⟨rfl, rfl⟩

end Sys2Proof.Machine

/-! Missed turns and the loss of a node (R24 to R28, R61, R96). -/

namespace Sys2Proof.Machine

/-! ### The points that a step uses (R27) -/

theorem isCleatInput_iff (r : Role) : r.isCleatInput = true ↔ r = .cleatEngaged ∨ r = .cleatReleased := by
  cases r <;> decide

theorem members_any_iff (hr : Hatch) (g i : Nat) : ((hr.members g).any fun c => c.num == i) = true ↔
    ∃ c ∈ hr.cleats, c.group = g ∧ c.num = i := by
  simp [Hatch.members]

/-- The inputs that the target of a step tests, with their cleats. -/
theorem testsInput_iff (hr : Hatch) (st : Step) (p : Point) : (st.tests p.role = true ∧
    (p.role.isCleatInput = false ∨ ((hr.members st.groupNo).any fun c => c.num == p.index) = true)) ↔
    match st with
    | .releaseGroup g | .engageGroup g => (p.role = .cleatEngaged ∨ p.role = .cleatReleased) ∧
        ∃ c ∈ hr.cleats, c.group = g ∧ c.num = p.index
    | .lift | .lower => p.role = .panelLifted ∨ p.role = .panelLowered
    | .travelOpen | .travelClose => p.role = .panelClosed ∨ p.role = .panelOpen
    | .foldOpen | .foldClose => p.role = .panelClosed ∨ p.role = .panelFolded := by
  have hpanel : ∀ q r : Role, q.isCleatInput = false → r.isCleatInput = false →
      ((p.role = q ∨ p.role = r) ∧ (p.role.isCleatInput = false ∨
        ((hr.members st.groupNo).any fun c => c.num == p.index) = true) ↔
          p.role = q ∨ p.role = r) := fun q r hq hr =>
    and_iff_left_of_imp fun h => .inl (h.elim (fun e => e ▸ hq) fun e => e ▸ hr)
  have hcleat : ∀ g, st.groupNo = g → (p.role.isCleatInput = true ∧ (p.role.isCleatInput = false ∨
      ((hr.members st.groupNo).any fun c => c.num == p.index) = true) ↔
      (p.role = .cleatEngaged ∨ p.role = .cleatReleased) ∧
        ∃ c ∈ hr.cleats, c.group = g ∧ c.num = p.index) := by
    rintro g rfl
    rw [members_any_iff, ← isCleatInput_iff]
    refine and_congr_right fun h => or_iff_right ?_
    rw [h]
    exact Bool.false_ne_true.symm
  cases st with
  | releaseGroup g => exact hcleat g rfl
  | engageGroup g => exact hcleat g rfl
  | lift | lower | travelOpen | travelClose | foldOpen | foldClose =>
    simp only [Step.tests, Bool.or_eq_true, beq_iff_eq]
    exact hpanel _ _ rfl rfl

/-- The valves of a step. -/
theorem usesValve_iff (st : Step) (p : Point) :
    ((p.role = st.driven ∨ p.role = st.opposed) ∧ st.valveIndexes.contains p.index = true) ↔
    match st with
    | .releaseGroup g | .engageGroup g =>
      (p.role = .cleatReleaseValve ∨ p.role = .cleatEngageValve) ∧ p.index = g
    | .lift | .lower => (p.role = .liftValve ∨ p.role = .lowerValve) ∧ p.index = 0
    | .travelOpen | .travelClose =>
      (p.role = .travelOpenValve ∨ p.role = .travelCloseValve) ∧ (p.index = 1 ∨ p.index = 2)
    | .foldOpen | .foldClose =>
      (p.role = .foldOpenValve ∨ p.role = .foldCloseValve) ∧ (p.index = 1 ∨ p.index = 2) := by
  rw [List.contains_iff_mem]
  cases st with
  | releaseGroup g | lift | travelOpen | foldOpen =>
    simp [Step.driven, Step.opposed, Step.valveIndexes]
  | engageGroup g | lower | travelClose | foldClose =>
    simp [Step.driven, Step.opposed, Step.valveIndexes, or_comm]

theorem isHatch_driven (st : Step) : st.driven.isHatch = true := by
  cases st <;> rfl

theorem isHatch_opposed (st : Step) : st.opposed.isHatch = true := by
  cases st <;> rfl

theorem isHatch_of_tests {st : Step} {r : Role} (h : st.tests r = true) : r.isHatch = true := by
  have hrole : r.code ≤ 7 := by
    cases st with
    | releaseGroup g | engageGroup g =>
      obtain rfl | rfl := (isCleatInput_iff r).mp h
      · decide
      · decide
    | lift | lower | travelOpen | travelClose | foldOpen | foldClose =>
      simp only [Step.tests, Bool.or_eq_true, beq_iff_eq] at h
      obtain rfl | rfl := h
      · decide
      · decide
  simp only [Role.isHatch, Bool.or_eq_true, decide_eq_true_iff]
  omega

theorem usesPoint_iff (hr : Hatch) (st : Step) (p : Point) :
    hr.usesPoint st p = true ↔ hr.Uses st p := by
  have hflat : hr.usesPoint st p = true ↔ (p.role.isHatch = true ∧ p.subject = hr.num) ∧
      (p.role = .hatchPressure ∨
        ((p.role = st.driven ∨ p.role = st.opposed) ∧ st.valveIndexes.contains p.index = true) ∨
        (st.tests p.role = true ∧ (p.role.isCleatInput = false ∨
          ((hr.members st.groupNo).any fun c => c.num == p.index) = true))) := by
    simp only [Hatch.usesPoint, Bool.and_eq_true, Bool.or_eq_true, beq_iff_eq, Bool.not_eq_true',
      or_assoc]
  have hhatch : (p.role = .hatchPressure ∨
      ((p.role = st.driven ∨ p.role = st.opposed) ∧ st.valveIndexes.contains p.index = true) ∨
      (st.tests p.role = true ∧ (p.role.isCleatInput = false ∨
        ((hr.members st.groupNo).any fun c => c.num == p.index) = true))) →
      p.role.isHatch = true := by
    rintro (h | ⟨h | h, -⟩ | ⟨h, -⟩)
    · rw [h]
      rfl
    · exact h ▸ isHatch_driven st
    · exact h ▸ isHatch_opposed st
    · exact isHatch_of_tests h
  have huses : (p.role = .hatchPressure ∨
      ((p.role = st.driven ∨ p.role = st.opposed) ∧ st.valveIndexes.contains p.index = true) ∨
      (st.tests p.role = true ∧ (p.role.isCleatInput = false ∨
        ((hr.members st.groupNo).any fun c => c.num == p.index) = true))) ∧ p.subject = hr.num ↔
      hr.Uses st p := by
    rw [usesValve_iff, testsInput_iff, and_comm]
    cases st with
    | releaseGroup g | engageGroup g => exact Iff.rfl
    | lift | lower | travelOpen | travelClose | foldOpen | foldClose => exact Iff.rfl
  rw [hflat, ← huses]
  exact ⟨fun ⟨⟨_, hk⟩, h⟩ => ⟨h, hk⟩, fun ⟨h, hk⟩ => ⟨⟨hhatch h, hk⟩, h⟩⟩

/-! ### The loss of a node (R26, R27, R61, R96) -/

theorem motionUses_iff (s : State) (a h : Nat) : s.motionUses a h = true ↔
    ∃ o hr st, s.op? h = some o ∧ s.hatch? h = some hr ∧ o.prog.head? = some st ∧
      (o.st = .queued ∨ o.st = .moving) ∧ ∃ p ∈ s.points, p.node = a ∧ hr.Uses st p := by
  cases ho : s.op? h with
  | none => simp [State.motionUses, ho]
  | some o =>
    cases hh : s.hatch? h with
    | none => simp [State.motionUses, ho, hh]
    | some hr =>
      cases hp : o.step? with
      | none =>
        have hnone : o.prog.head? = none := hp
        simp [State.motionUses, ho, hh, hp, hnone]
      | some st =>
        have hsome : o.prog.head? = some st := hp
        simp only [State.motionUses, ho, hh, hp, Bool.and_eq_true, busy_iff ho, List.any_eq_true,
          beq_iff_eq, usesPoint_iff]
        constructor
        · exact fun ⟨hst, hpoint⟩ => ⟨o, hr, st, rfl, rfl, hsome, hst, hpoint⟩
        · rintro ⟨o', hr', st', ho', hh', hp', hst, hpoint⟩
          obtain rfl := Option.some.inj ho'
          obtain rfl := Option.some.inj hh'
          obtain rfl := Option.some.inj (hsome.symm.trans hp')
          exact ⟨hst, hpoint⟩

theorem engineNodeLost_eq (s : State) (a : Nat) : s.engineNodeLost a =
    if (s.hatches.map Hatch.num).filter (s.motionUses a) = [] then s
    else (((s.hatches.map Hatch.num).filter (s.motionUses a)).foldl
      (fun x h => x.pauseOp h .nodeLost) s).evaluate := by
  simp only [State.engineNodeLost, List.isEmpty_iff]

theorem supplyNodeLost_eq (s : State) (a : Nat) : s.supplyNodeLost a =
    (((s.pumps.map Pump.num).filter fun n => s.points.any fun p =>
      p.node = a ∧ p.subject = n ∧ (p.role = .pumpRun ∨ p.role = .pumpRunning)).foldl
        State.pumpNodeLost s).rederiveBand := by
  have hon : s.pumpsOn a = (s.pumps.map Pump.num).filter fun n => s.points.any fun p =>
      p.node = a ∧ p.subject = n ∧ (p.role = .pumpRun ∨ p.role = .pumpRunning) := by
    refine List.filter_congr fun n _ => ?_
    congr 1
    funext p
    rw [Bool.eq_iff_iff]
    simp [and_assoc]
  rw [State.supplyNodeLost, hon]

/-- An update of the operation records and one of the hatch records do not touch each other. -/
theorem refreshAll_withOps (s : State) (ops : List Op) :
    State.refreshAll { s with ops := ops } = { s.refreshAll with ops := ops } := by
  have hone : ∀ (x : State) (h : Nat),
      State.refresh { x with ops := ops } h = { x.refresh h with ops := ops } := by
    intro x h
    cases hh : x.hatch? h with
    | none =>
      have hh' : State.hatch? { x with ops := ops } h = none := hh
      simp only [State.refresh, hh, hh']
    | some hr =>
      rw [refresh_eq hh, refresh_eq (s := { x with ops := ops }) hh]
      rfl
  unfold State.refreshAll
  generalize s.hatches.map Hatch.num = hs
  induction hs generalizing s with
  | nil => rfl
  | cons h hs ih =>
    rw [List.foldl_cons, List.foldl_cons, ← ih (s.refresh h), ← hone]

theorem refreshAll_keeps (s : State) : s.refreshAll =
    { s with hatches := s.refreshAll.hatches, alarms := s.refreshAll.alarms } := by
  unfold State.refreshAll
  generalize s.hatches.map Hatch.num = hs
  induction hs generalizing s with
  | nil => rfl
  | cons h hs ih =>
    rw [List.foldl_cons, ih (s.refresh h)]
    cases hh : s.hatch? h with
    | none => simp only [State.refresh, hh]
    | some hr => rw [refresh_eq hh]

/-- The pressure watch stops at each hatch of a list (R61). -/
theorem foldl_watch (hs : List Nat) (s : State) :
    hs.foldl (fun x h => x.updOp h fun o => { o with watch := none }) s =
      { s with ops := s.ops.map fun o => if o.hatch ∈ hs then { o with watch := none } else o } := by
  induction hs generalizing s with
  | nil => simp
  | cons h hs ih =>
    rw [List.foldl_cons, ih, State.updOp, updateKey_eq]
    simp only [List.map_map]
    congr 1
    refine List.map_congr_left fun o _ => ?_
    by_cases hk : o.hatch = h <;> by_cases hm : o.hatch ∈ hs <;> simp [hk, hm]

/-- A node lost, before Pump Control and the Engine take the loss (R26, R37, R61). -/
def State.nodeGone (s : State) (a : Nat) : State :=
  let x := ((s.raiseAlarm .nodeLost (.node a)).mapPoints a Point.lose).refreshAll
  (x.pressureHatches a).foldl (fun x h => x.updOp h fun o => { o with watch := none }) x

theorem nodeLost_eq (s : State) (a : Nat) (first : Bool) : s.nodeLost a first =
    if first = true then ((s.nodeGone a).supplyNodeLost a).engineNodeLost a
    else ((s.nodeGone a).engineNodeLost a).supplyNodeLost a := rfl

theorem mem_pressureHatches {s : State} {a h : Nat} : h ∈ s.pressureHatches a ↔
    ∃ p ∈ s.points, p.role = .hatchPressure ∧ p.node = a ∧ p.subject = h := by
  simp [State.pressureHatches, and_assoc]

/-- The points of a node that is lost (R37). -/
theorem mem_pressureHatches_lost {s : State} {a h : Nat} :
    h ∈ State.pressureHatches (((s.raiseAlarm .nodeLost (.node a)).mapPoints a Point.lose).refreshAll) a ↔
      ∃ p ∈ s.points, p.role = .hatchPressure ∧ p.node = a ∧ p.subject = h := by
  rw [mem_pressureHatches, refreshAll_keeps]
  constructor
  · rintro ⟨p, hp, hrole, hnode, hsub⟩
    obtain ⟨q, hq, rfl⟩ := List.mem_map.mp hp
    refine ⟨q, hq, ?_⟩
    split at hrole
    · next hq => exact ⟨hrole, hq, by rw [if_pos hq] at hsub; exact hsub⟩
    · next hq => exact absurd (by rw [if_neg hq] at hnode; exact hnode) hq
  · rintro ⟨p, hp, hrole, hnode, hsub⟩
    exact ⟨p.lose, List.mem_map.mpr ⟨p, hp, if_pos hnode⟩, hrole, hnode, hsub⟩

/-- The operation records without the watches of the pressure inputs on a node (R61). -/
def State.unwatched (s : State) (a : Nat) : List Op :=
  s.ops.map fun o =>
    if ∃ p ∈ s.points, p.role = .hatchPressure ∧ p.node = a ∧ p.subject = o.hatch then
      { o with watch := none }
    else o

theorem nodeGone_eq_refreshAll (s : State) (a : Nat) : s.nodeGone a =
    { ((s.raiseAlarm .nodeLost (.node a)).mapPoints a Point.lose).refreshAll with
      ops := s.unwatched a } := by
  have hops : State.ops (((s.raiseAlarm .nodeLost (.node a)).mapPoints a Point.lose).refreshAll) =
      s.ops := by
    rw [refreshAll_keeps]
    rfl
  rw [State.nodeGone, foldl_watch]
  simp only [mem_pressureHatches_lost, hops, State.unwatched]

theorem nodeGone_eq (s : State) (a : Nat) : s.nodeGone a = { s with
    alarms := (s.nodeGone a).alarms
    points := s.points.map fun p => if p.node = a then { p with stale := true, pend := none } else p
    hatches := (s.nodeGone a).hatches
    ops := s.unwatched a } := by
  rw [nodeGone_eq_refreshAll, refreshAll_keeps]
  rfl

theorem refreshAll_nodeGone (s : State) (a : Nat) :
    State.refreshAll { s.nodeGone a with
      hatches := s.hatches, alarms := s.alarms.raise .nodeLost (.node a) s.runningTime } =
      s.nodeGone a := by
  have hbefore : { s.nodeGone a with
      hatches := s.hatches, alarms := s.alarms.raise .nodeLost (.node a) s.runningTime } =
      { (s.raiseAlarm .nodeLost (.node a)).mapPoints a Point.lose with ops := s.unwatched a } := by
    rw [nodeGone_eq]
    rfl
  rw [hbefore, refreshAll_withOps, nodeGone_eq_refreshAll]

theorem onlyMotion_losses (s : State) (a : Nat) (first : Bool) : OnlyMotion s
    (if first = true then (s.supplyNodeLost a).engineNodeLost a
      else (s.engineNodeLost a).supplyNodeLost a) := by
  have hsupply : ∀ x : State, OnlyMotion x (x.supplyNodeLost a) := fun x =>
    (OnlyMotion.foldl onlyMotion_pumpNodeLost _ x).trans (onlyMotion_rederiveBand _)
  have hengine : ∀ x : State, OnlyMotion x (x.engineNodeLost a) := fun x => by
    rw [engineNodeLost_eq]
    split
    · exact .refl x
    · exact (OnlyMotion.foldl (fun y h => onlyMotion_pauseOp y h .nodeLost) _ x).trans
        (onlyMotion_evaluate _)
  split
  · exact (hsupply s).trans (hengine _)
  · exact (hengine s).trans (hsupply _)

theorem inTurn_nodeLost (s : State) (a : Nat) (first : Bool) : InTurn s (s.nodeLost a first) := by
  have hgone : InTurn s (s.nodeGone a) := by
    refine ⟨?_, ?_⟩
    · rw [nodeGone_eq]
    · rw [nodeGone_eq]
  exact hgone.trans (onlyMotion_losses (s.nodeGone a) a first).inTurn

theorem points_nodeLost (s : State) (a : Nat) (first : Bool) : (s.nodeLost a first).points =
    s.points.map fun p => if p.node = a then { p with stale := true, pend := none } else p := by
  have hpoints : (s.nodeLost a first).points = (s.nodeGone a).points := by
    rw [nodeLost_eq, (onlyMotion_losses (s.nodeGone a) a first).rest]
  rw [hpoints, nodeGone_eq]

/-! ### A missed turn (R25) -/

section
variable {s : State} (hd : (s.nodes.map Node.addr).Nodup) {k : Nat} {n : Node}
  (hn : s.nodes[k]? = some n)
include hd hn

theorem missTurn_of_lost (hst : n.st = .online) (hm : 2 ≤ n.misses) (first : Bool) :
    s.missTurn n first = (s.missed n).nodeLost n.addr first := by
  have hthree : min (n.misses + 1) 3 = 3 := Nat.min_eq_right (Nat.succ_le_succ hm)
  rw [State.missed, ← updNode_eq_map hd hn (f := fun x => { x with misses := 3, goods := 0, st := .lost })
    (by simp [Node.missed, hst, hm])]
  simp only [State.missTurn, hst, hthree, and_self, if_true]

theorem missTurn_of_kept (hk : ¬(n.st = .online ∧ 2 ≤ n.misses)) (first : Bool) :
    s.missTurn n first = s.missed n := by
  have hnot : ¬(n.st = .online ∧ min (n.misses + 1) 3 = 3) := fun ⟨hst, hm⟩ =>
    hk ⟨hst, by omega⟩
  rw [State.missed, ← updNode_eq_map hd hn (f := fun x => { x with
    misses := if n.st = .lost then 3 else min (n.misses + 1) 3, goods := 0 })
    (by simp [Node.missed, hk])]
  simp only [State.missTurn, if_neg hnot]

theorem inTurn_missTurn (first : Bool) : InTurn (s.missed n) (s.missTurn n first) := by
  by_cases hk : n.st = .online ∧ 2 ≤ n.misses
  · rw [missTurn_of_lost hd hn hk.1 hk.2]
    exact inTurn_nodeLost ..
  · rw [missTurn_of_kept hd hn hk]
    exact .refl _

theorem points_missTurn (first : Bool) : (s.missTurn n first).points =
    if n.st = .online ∧ 2 ≤ n.misses then
      s.points.map fun p => if p.node = n.addr then { p with stale := true, pend := none } else p
    else s.points := by
  by_cases hk : n.st = .online ∧ 2 ≤ n.misses
  · rw [missTurn_of_lost hd hn hk.1 hk.2, points_nodeLost, if_pos hk]
    rfl
  · rw [missTurn_of_kept hd hn hk, if_neg hk]
    rfl

end

end Sys2Proof.Machine

/-! The slots of the field line (R23, R24): which turn a reply or a slot end belongs to, and what a
missed turn leaves. -/

namespace Sys2Proof.Machine

/-! ### What the end and the beginning of a turn leave as it is -/

theorem endTurn_keeps (s : State) (k : Nat) : s.endTurn k =
    { s with mode := (s.endTurn k).mode, scan := (s.endTurn k).scan, alarms := (s.endTurn k).alarms } := by
  unfold State.endTurn
  split
  · dsimp only
    split
    · rw [becomeReady_eq]
    · rfl
  · rfl

theorem beginTurn_keeps (s : State) (k : Nat) :
    s.beginTurn k = { s with scan := (s.beginTurn k).scan } := by
  unfold State.beginTurn
  split
  · rfl
  · rfl

theorem beginTurn_of_none {s : State} {k : Nat} (hn : s.nodes[k]? = none) : s.beginTurn k = s := by
  unfold State.beginTurn
  rw [hn]

/-- The turn in place `k` ends and the next one begins. -/
def State.turnOver (s : State) (k : Nat) : State := (s.endTurn k).beginTurn (k + 1)

theorem turnOver_keeps (s : State) (k : Nat) : s.turnOver k =
    { s with
      mode := (s.turnOver k).mode, scan := (s.turnOver k).scan, alarms := (s.turnOver k).alarms } := by
  rw [State.turnOver, beginTurn_keeps, endTurn_keeps]

theorem turnOver_of_more {s : State} {k : Nat} (hk : k + 1 < s.nodes.length) :
    ∃ n, s.nodes[k + 1]? = some n ∧
      s.turnOver k = { s with scan := s.scan.polling (k + 1) n } := by
  have hn : s.nodes[k + 1]? = some s.nodes[k + 1] := List.getElem?_eq_getElem hk
  exact ⟨_, hn, by rw [State.turnOver, endTurn_of_more hk, beginTurn_of_node hn]⟩

theorem turnOver_of_last {s : State} {k : Nat} (hk : s.nodes.length ≤ k + 1) :
    s.turnOver k = s.endTurn k := by
  have hnodes : (s.endTurn k).nodes[k + 1]? = none := by
    rw [endTurn_keeps]
    exact List.getElem?_eq_none hk
  rw [State.turnOver, beginTurn_of_none hnodes]

/-! ### The turn of a reply or a slot end -/

theorem due_advance (s : State) (dt : Nat) : (s.advance dt).scan.due = s.scan.due := by
  have hat : ∀ t, (s.scanAt t).due = s.scan.due := fun t => by
    unfold State.scanAt
    split
    · rfl
    · split
      · rfl
      · split
        · rfl
        · rfl
  unfold State.advance
  dsimp only
  split
  · exact hat _
  · rfl

theorem slotBegun_advance_iff {s : State} (hp : s.power = .running) (dt k : Nat) :
    (s.advance dt).slotBegun k = true ↔ s.scan.due + 2 * k / 5 ≤ s.now + dt + 20 := by
  rw [State.slotBegun, due_advance, advance_now hp, decide_eq_true_iff]

theorem turnOf_of_no_place {s : State} (hp : s.scan.place = none) (a : Nat) :
    s.turnOf a = (s, none) := by
  simp only [State.turnOf, hp]

section
variable {s : State} {k : Nat} {n : Node} (hp : s.scan.place = some k) (hn : s.nodes[k]? = some n)
  {a : Nat}
include hp hn

theorem turnOf_of_over (ha : n.addr = a) (hr : s.scan.replied = true) : s.turnOf a = (s, none) := by
  simp only [State.turnOf, hp, hn, if_pos ha, if_pos hr]

theorem turnOf_of_other (ha : n.addr ≠ a) (h : s.scan.replied = false ∨
    (∀ n', s.nodes[k + 1]? = some n' → n'.addr ≠ a) ∨ s.slotBegun (k + 1) = false) :
    s.turnOf a = (s, none) := by
  simp only [State.turnOf, hp, hn, if_neg ha]
  obtain h | h | h := h
  · simp [h]
  · split
    · cases hn' : s.nodes[k + 1]? with
      | none => rfl
      | some n' => simp only [if_neg (h n' hn')]
    · rfl
  · simp [h]

theorem turnOf_of_next (ha : n.addr ≠ a) (hr : s.scan.replied = true) {n' : Node}
    (hn' : s.nodes[k + 1]? = some n') (ha' : n'.addr = a) (hb : s.slotBegun (k + 1) = true) :
    s.turnOf a = (s.beginTurn (k + 1), some (k + 1, n')) := by
  simp only [State.turnOf, hp, hn, if_neg ha, hr, hb, Bool.and_self, if_true, hn', if_pos ha']

end

section
variable {s : State} {a : Nat}

theorem fieldReply_of_discarded (h : s.turnOf a = (s, none)) (bytes : List Byte) (order : List Nat)
    (first : Bool) : s.fieldReply a bytes order first = s := by
  simp only [State.fieldReply, h]

theorem slotEnd_of_discarded (h : s.turnOf a = (s, none)) (first : Bool) : s.slotEnd a first = s := by
  simp only [State.slotEnd, h]

theorem slotEnd_of_turn {x : State} {k : Nat} {n : Node} (h : s.turnOf a = (x, some (k, n)))
    (first : Bool) : s.slotEnd a first =
      if s.slotBegun (k + 1) = true then (x.missTurn n first).turnOver k else s := by
  simp only [State.slotEnd, h]
  rfl

/-- A reply of a node whose turn begins with it is one within that turn. -/
theorem fieldReply_of_turn {x : State} {k : Nat} {n : Node} (h : s.turnOf a = (x, some (k, n)))
    (hx : x.turnOf a = (x, some (k, n))) (bytes : List Byte) (order : List Nat) (first : Bool) :
    s.fieldReply a bytes order first = x.fieldReply a bytes order first := by
  simp only [State.fieldReply, h, hx]

end

/-! ### A missed turn, to the beginning of the next -/

theorem missTurn_eq_nodeLost {s : State} {n : Node} (hst : n.st = .online) (hm : 2 ≤ n.misses)
    (first : Bool) : s.missTurn n first = State.nodeLost { s with
      nodes := s.nodes.map fun x =>
        if x.addr = n.addr then { x with misses := 3, goods := 0, st := .lost } else x }
      n.addr first := by
  have hthree : min (n.misses + 1) 3 = 3 := Nat.min_eq_right (Nat.succ_le_succ hm)
  simp only [State.missTurn, hst, hthree, and_self, if_true, State.updNode, updateKey_eq]

section
variable {s : State} (hd : (s.nodes.map Node.addr).Nodup) {k : Nat} {n : Node}
  (hn : s.nodes[k]? = some n) (first : Bool)
include hd hn

theorem node?_missTurn : ((s.missTurn n first).node? n.addr).map Node.still =
    some (Node.still (n.missed n)) := by
  refine (node?_of_still (inTurn_missTurn hd hn first).still n.addr).trans ?_
  rw [node?_polled (s := s) (t := s.missed n) hd hn (g := n.missed) (by intro; rfl) rfl]
  rfl

theorem node?_missTurn_ne {a : Nat} (ha : a ≠ n.addr) :
    ((s.missTurn n first).node? a).map Node.still = (s.node? a).map Node.still := by
  refine (node?_of_still (inTurn_missTurn hd hn first).still a).trans ?_
  rw [node?_polled_ne (s := s) (t := s.missed n) (g := n.missed) (by intro; rfl) rfl ha]

theorem length_missTurn : (s.missTurn n first).nodes.length = s.nodes.length :=
  (length_of_still (inTurn_missTurn hd hn first).still).trans (List.length_map ..)

theorem mode_scan_missTurn :
    (s.missTurn n first).mode = s.mode ∧ (s.missTurn n first).scan = s.scan := by
  rw [(inTurn_missTurn hd hn first).rest]
  exact ⟨rfl, rfl⟩

theorem onlyField_missTurn : OnlyField s (s.missTurn n first) := by
  have hmissed : OnlyField s (s.missed n) := rfl
  exact hmissed.trans (inTurn_missTurn hd hn first).onlyField

end

theorem onlyField_turnOver (s : State) (k : Nat) : OnlyField s (s.turnOver k) := by
  unfold OnlyField
  rw [turnOver_keeps]

section
variable {s : State} (hp : s.power = .running) (dt : Nat) {k : Nat} {n : Node}
  (hplace : s.scan.place = some k) (hr : s.scan.replied = false) (hn : s.nodes[k]? = some n)
include hp hplace hr hn

theorem exec_slotEnd_own (first : Bool) : exec (.slotEnd dt n.addr first) s =
    .next (if s.scan.due + 2 * (k + 1) / 5 ≤ s.now + dt + 20 then
      ((s.advance dt).missTurn n first).turnOver k else s.advance dt) := by
  have hscan := scan_advance_of_waiting (.inr hr) dt
  refine (exec_slotEnd hp ..).trans (congrArg _ ?_)
  rw [slotEnd_of_turn (turnOf_own (s := s.advance dt) (hscan ▸ hplace) hn (hscan ▸ hr))]
  simp only [slotBegun_advance_iff hp]

end

section
variable {s : State} (dt : Nat) {k : Nat} {n : Node} (hn : s.nodes[k]? = some n)
  (hd : (s.nodes.map Node.addr).Nodup)
include hn hd

/-- What a slot end at or after its time leaves. -/
theorem turnOver_missTurn (first : Bool) :
    let t := ((s.advance dt).missTurn n first).turnOver k
    OnlyField (s.advance dt) t ∧
      (t.node? n.addr).map Node.still = some (Node.still (n.missed n)) ∧
      (∀ a, a ≠ n.addr → (t.node? a).map Node.still = (s.node? a).map Node.still) ∧
      t.points = (if n.st = .online ∧ 2 ≤ n.misses then
        s.points.map fun p => if p.node = n.addr then { p with stale := true, pend := none } else p
        else s.points) ∧
      (∀ n', s.nodes[k + 1]? = some n' → t.mode = s.mode ∧ t.scan.place = some (k + 1) ∧
        t.scan.replied = false) ∧
      (s.nodes.length ≤ k + 1 → t.scan.place = none ∧ t.scan.firstOver = true) ∧
      (¬(n.st = .online ∧ 2 ≤ n.misses) → k + 1 < s.nodes.length →
        t = { s.advance dt with nodes := t.nodes, scan := t.scan }) := by
  dsimp only
  have hlen := length_missTurn (s := s.advance dt) hd hn first
  have hkeeps := turnOver_keeps ((s.advance dt).missTurn n first) k
  have hnodes : ∀ a, (((s.advance dt).missTurn n first).turnOver k).node? a =
      ((s.advance dt).missTurn n first).node? a := fun a => by
    rw [hkeeps]
    rfl
  refine ⟨(onlyField_missTurn (s := s.advance dt) hd hn first).trans (onlyField_turnOver ..), ?_,
    fun a ha => ?_, ?_, fun n' hn' => ?_, fun hk => ?_, fun hkept hk => ?_⟩
  · rw [hnodes]
    exact node?_missTurn (s := s.advance dt) hd hn first
  · rw [hnodes]
    exact node?_missTurn_ne (s := s.advance dt) hd hn first ha
  · rw [hkeeps]
    exact points_missTurn (s := s.advance dt) hd hn first
  · have hk : k + 1 < s.nodes.length := (List.getElem?_eq_some_iff.mp hn').choose
    obtain ⟨m, -, ht⟩ := turnOver_of_more (s := (s.advance dt).missTurn n first) (hlen ▸ hk)
    rw [ht]
    exact ⟨(mode_scan_missTurn (s := s.advance dt) hd hn first).1, rfl, rfl⟩
  · have hk' : ((s.advance dt).missTurn n first).nodes.length ≤ k + 1 := hlen ▸ hk
    rw [turnOver_of_last hk', (endTurn_scan_mode hk').1]
    exact ⟨rfl, rfl⟩
  · obtain ⟨m, -, ht⟩ := turnOver_of_more (s := (s.advance dt).missTurn n first) (hlen ▸ hk)
    rw [ht, missTurn_of_kept (s := s.advance dt) hd hn hkept]
    rfl

end

/-! ### Replies and slot ends of no turn -/

section
variable {s : State} (hp : s.power = .running) (dt a : Nat) (bytes : List Byte) (order : List Nat)
  (first : Bool)
include hp

theorem exec_of_discarded (h : (s.advance dt).turnOf a = (s.advance dt, none)) :
    exec (.fieldReply dt a bytes order first) s = .next (s.advance dt) ∧
      exec (.slotEnd dt a first) s = .next (s.advance dt) :=
  ⟨(exec_fieldReply hp ..).trans (congrArg _ (fieldReply_of_discarded h bytes order first)),
    (exec_slotEnd hp ..).trans (congrArg _ (slotEnd_of_discarded h first))⟩

/-- The reply or slot end of the next node begins its turn (log 23). -/
theorem exec_of_next {k : Nat} {n n' : Node} (hplace : (s.advance dt).scan.place = some k)
    (hn : s.nodes[k]? = some n) (ha : n.addr ≠ a) (hr : (s.advance dt).scan.replied = true)
    (hn' : s.nodes[k + 1]? = some n') (ha' : n'.addr = a)
    (hb : s.scan.due + 2 * (k + 1) / 5 ≤ s.now + dt + 20) :
    let z := { s.advance dt with scan := (s.advance dt).scan.polling (k + 1) n' }
    exec (.fieldReply dt a bytes order first) s = exec (.fieldReply 0 a bytes order first) z ∧
      exec (.slotEnd dt a first) s =
        if s.scan.due + 2 * (k + 2) / 5 ≤ s.now + dt + 20 then exec (.slotEnd 0 a first) z
        else .next (s.advance dt) := by
  intro z
  have hz : z.advance 0 = z := advance_zero_of_waiting (.inr rfl)
  have hpz : z.power = .running := hp
  have hturn : (s.advance dt).turnOf a = (z, some (k + 1, n')) := by
    rw [turnOf_of_next (s := s.advance dt) hplace hn ha hr hn' ha'
      ((slotBegun_advance_iff hp dt (k + 1)).mpr hb), beginTurn_of_node (s := s.advance dt) hn']
  have hown : z.turnOf a = (z, some (k + 1, n')) := ha' ▸ turnOf_own (s := z) rfl hn' rfl
  have hdue : z.slotBegun (k + 2) = true ↔ s.scan.due + 2 * (k + 2) / 5 ≤ s.now + dt + 20 :=
    slotBegun_advance_iff hp dt (k + 2)
  refine ⟨?_, ?_⟩
  · rw [exec_fieldReply hp, exec_fieldReply hpz, hz, fieldReply_of_turn hturn hown]
  · rw [exec_slotEnd hp, exec_slotEnd hpz, hz, slotEnd_of_turn hturn, slotEnd_of_turn hown]
    simp only [slotBegun_advance_iff hp, hdue]
    split
    · rfl
    · rfl

end

/-- Settles O42, by the cases of the turn and of the node table. -/
theorem missedTurnFollowsTheNodeTable : Obligations.MissedTurnFollowsTheNodeTable := by
  unfold Obligations.MissedTurnFollowsTheNodeTable
  refine ⟨fun s dt k n first hp hd hplace hr hn => ⟨fun hearly => ?_, fun hdue => ?_,
    fun bytes order hb => ?_, fun bytes order x hb hx => ?_⟩, replyBits_iff, ?_, usesPoint_iff,
    fun s a => ⟨fun first => ?_, motionUses_iff s a, ?_, supplyNodeLost_eq s a⟩⟩
  · rw [exec_slotEnd_own hp dt hplace hr hn, if_neg (Nat.not_le.mpr hearly)]
  · obtain ⟨hfield, hnode, hothers, hpoints, hnext, hlast, hkept⟩ :=
      turnOver_missTurn dt hn hd first
    refine ⟨_, (exec_slotEnd_own hp dt hplace hr hn first).trans (congrArg _ (if_pos hdue)), hfield,
      ?_, hothers, hpoints, hnext, hlast, hkept, fun hst hm => ?_⟩
    · rw [hnode, Node.missed]
      rfl
    · rw [missTurn_eq_nodeLost hst hm]
      rfl
  · refine ⟨_, exec_fieldReply_bad hp dt hplace hr hn hb order first, ?_⟩
    rw [endTurn_keeps]
    exact node?_missTurn (s := (s.advance dt).replied) hd hn first
  · have hscan := scan_advance_of_waiting (.inr hr) dt
    obtain rfl : x = (s.advance dt).replied.missed n := by
      rw [hx, State.missed, State.replied, hscan]
      rfl
    rw [exec_fieldReply_bad hp dt hplace hr hn hb order first]
    by_cases hk : n.st = .online ∧ 2 ≤ n.misses
    · rw [if_pos hk, missTurn_of_lost (s := (s.advance dt).replied) hd hn hk.1 hk.2]
    · rw [if_neg hk, missTurn_of_kept (s := (s.advance dt).replied) hd hn hk]
  · rintro s y dt a bytes order first hp rfl
    refine ⟨fun hplace => exec_of_discarded hp dt a bytes order first (turnOf_of_no_place hplace a),
      fun k n hplace hn => ⟨fun h => exec_of_discarded hp dt a bytes order first ?_, ?_⟩⟩
    · obtain ⟨ha, hr⟩ | ⟨ha, h⟩ := h
      · exact turnOf_of_over (s := s.advance dt) hplace hn ha hr
      · refine turnOf_of_other (s := s.advance dt) hplace hn ha (h.imp_right (Or.imp_right fun h => ?_))
        exact Bool.eq_false_iff.mpr fun hb =>
          absurd ((slotBegun_advance_iff hp dt (k + 1)).mp hb) (Nat.not_le.mpr h)
    · rintro n' z ha hr hn' rfl hb rfl
      exact exec_of_next hp dt n'.addr bytes order first hplace hn ha hr hn' rfl hb
  · exact ⟨s.nodeGone a, nodeLost_eq s a first, nodeGone_eq s a, refreshAll_nodeGone s a⟩
  · rintro hs rfl
    exact engineNodeLost_eq s a

end Sys2Proof.Machine

/-! READ (R164): the answers, the records of every table (R169), and the values of their fields. -/

namespace Sys2Proof.Machine

/-! ### An answer with records -/

section
variable {s u v : State} {dt l : Nat} {seq : Byte} {c : Instr} {table : Byte} {base first : Nat}
  {owner : State → Nat → Reply}

/-- A READ whose owner answers with the records `ys`, which are laid out as `layout` says of `xs`. -/
theorem reads_of_owner {α β : Type} (hs : Served s l) (hu : u = s.taken dt l)
    (hexec : exec c s = s.onRequest dt l 4 seq kindRead owner) (hv : v = { u with free := v.free })
    {extra : List Byte} {xs : List α} {ys : List β} {enc : Nat → β → List Byte}
    {layout : Nat → α → List Byte → Prop} (hlen : ys.length = xs.length)
    (howner : owner u l = (v, some .done, readArgsOut table
      ((readTable base first (42 - extra.length) ys enc).next base ys.length) extra
      (readTable base first (42 - extra.length) ys enc)))
    (hrow : ∀ (k : Nat) (x : α) (y : β), xs[k]? = some x → ys[k]? = some y →
      layout (base + k) x (enc (base + k) y)) :
    Reads s dt l seq c table base first extra xs layout := by
  subst hu
  refine ⟨v, ys.mapIdx fun k y => enc (base + k) y, _, _, _,
    hexec.trans (served_to hs (by decide) howner), hv, readTable_selects enc ys base first _,
    (List.length_mapIdx ..).trans hlen, fun k x r hx hr => ?_⟩
  rw [List.getElem?_mapIdx] at hr
  obtain ⟨y, hy, rfl⟩ := Option.map_eq_some_iff.mp hr
  exact hrow k x y hx hy

variable {hi lo clear : Byte}

/-- A READ of one of the tables that have no more than their records to send. -/
theorem reads_of_readReply {α β : Type} (hs : Served s l) (hu : u = s.taken dt l)
    (hfirst : first = (hi ++ lo : Word).toNat) {xs : List α} {ys : List β}
    {enc : Nat → β → List Byte} {layout : Nat → α → List Byte → Prop}
    (hexec : exec c s = s.onRequest dt l 4 seq kindRead owner)
    (howner : owner u l = u.readReply [hi, lo, clear] table base ys enc)
    (hlen : ys.length = xs.length)
    (hrow : ∀ (k : Nat) (x : α) (y : β), xs[k]? = some x → ys[k]? = some y →
      layout (base + k) x (enc (base + k) y)) :
    Reads s dt l seq c table base first [] xs layout := by
  refine reads_of_owner (v := { u with free := u.free + 1 }) hs hu hexec rfl hlen ?_ hrow
  rw [howner, hfirst]
  rfl

/-- The same, where the records stand for themselves. -/
theorem reads_of_records {α : Type} (hs : Served s l) (hu : u = s.taken dt l)
    (hfirst : first = (hi ++ lo : Word).toNat) {xs : List α} {enc : Nat → α → List Byte}
    {layout : Nat → α → List Byte → Prop}
    (hexec : exec c s = s.onRequest dt l 4 seq kindRead owner)
    (howner : owner u l = u.readReply [hi, lo, clear] table base xs enc)
    (hrow : ∀ (i : Nat) (x : α), layout i x (enc i x)) :
    Reads s dt l seq c table base first [] xs layout :=
  reads_of_readReply hs hu hfirst hexec howner rfl fun k x _ hx hy =>
    Option.some.inj (hx.symm.trans hy) ▸ hrow (base + k) x

end

/-! ### The fields of a record (R169) -/

theorem be16o_map (t : Option Nat) (f : Nat → Nat) :
    be16o (t.map f) = be16 (match t with | some x => f x | none => 0xFFFF) := by
  cases t <;> rfl

theorem be32o_map (t : Option Nat) (f : Nat → Nat) :
    be32o (t.map f) = be32 (match t with | some x => f x | none => 0xFFFFFFFF) := by
  cases t <;> rfl

theorem wire_eq (st : Step) : st.wire = stepByte st := by
  cases st <;> rfl

theorem bit_isSome {α : Type} (x : Option α) (k : Nat) :
    bit x.isSome k = if x = none then 0 else 2 ^ k := by
  cases x <;> simp [bit]

theorem bit_isNone {α : Type} (x : Option α) (k : Nat) :
    bit x.isNone k = if x = none then 2 ^ k else 0 := by
  cases x <;> simp [bit]

theorem bit_some_true (x : Option Bool) (k : Nat) :
    bit (x == some true) k = if x = some true then 2 ^ k else 0 := by
  simp [bit]

theorem liftCode_eq (cover : Cover) (x : Lift) :
    x.code cover = if cover = .fold then 15 else x.code .roll := by
  cases cover <;> rfl

/-! ### The records -/

theorem record_eq_hatchRow (hr : Hatch) : hr.record = HatchRow hr := by
  have hcover : bit (hr.cover == .fold) 0 = if hr.cover = .fold then 1 else 0 := by
    cases hr.cover <;> rfl
  simp only [Hatch.record, HatchRow, Panel.wire, Hatch.directions, hcover, liftCode_eq hr.cover] <;> rfl

theorem cleatRow_record (i : Nat) (x : Nat × Cleat) : CleatRow i x (cleatRecord i x) := rfl

theorem operationRow_record (now : Nat) (o : Op) : OperationRow now o (o.record now) := by
  have hwire : Step.wire = stepByte := funext wire_eq
  simp only [OperationRow, Op.record, hwire, be16o_map, be32o_map] <;> rfl

theorem queueRow_record (s : State) (i : Nat) (x : Entry ⊕ Grant) :
    QueueRow x (s.queueRecord i x) := by
  cases x with
  | inl e =>
    refine ⟨s.unstated tableQueue i 7, s.unstated tableQueue i 8, ?_⟩
    simp only [State.queueRecord, State.entryRecord, wire_eq] <;> rfl
  | inr g =>
    simp only [QueueRow, State.queueRecord, Grant.record, wire_eq] <;> rfl

theorem qRun_eq (ps : List Pump) :
    qRun ps = ((ps.filter fun p => p.st = .running).map Pump.flow).sum := by
  have hfilter : ps.filter (fun p => p.st == .running) = ps.filter fun p => p.st = .running :=
    List.filter_congr fun p _ => by cases p.st <;> rfl
  rw [qRun, hfilter]

theorem qAll_eq (ps : List Pump) :
    qAll ps = ((ps.filter fun p => p.st ≠ .failed).map Pump.flow).sum := by
  have hfilter : ps.filter (fun p => p.st != .failed) = ps.filter fun p => p.st ≠ .failed :=
    List.filter_congr fun p _ => by cases p.st <;> rfl
  rw [qAll, hfilter]

theorem remaining_eq (p : Pump) (now : Nat) : be16o (p.remaining now) =
    be16 (match p.deadline, p.settle with
      | some t, _ => t - now
      | none, some t => t - now
      | none, none => 0xFFFF) := by
  unfold Pump.remaining
  cases p.deadline <;> cases p.settle <;> rfl

theorem pumpRow_pack (s : State) : PumpRow s none s.packRecord := by
  simp only [PumpRow, State.packRecord, qRun_eq, qAll_eq, be16o_map] <;> rfl

theorem pumpRow_pump (s : State) (p : Pump) : PumpRow s (some p) (s.pumpRecord p) := by
  have hfeedback : s.feedbackByte p.num = match s.pumpPoint? .pumpRunning p.num with
      | some q => byte ((if q.qual = some true then 1 else 0) +
          (if q.qual = none then 0 else 2) + if q.stale then 4 else 0)
      | none => 4 := by
    cases hq : s.pumpPoint? .pumpRunning p.num with
    | none =>
      simp only [State.feedbackByte, hq] <;> rfl
    | some q =>
      simp only [State.feedbackByte, hq, bit_some_true, bit_isSome] <;> rfl
  simp only [PumpRow, State.pumpRecord, remaining_eq, hfeedback] <;> rfl

theorem alarmRow_record (i : Nat) (a : Alarm) : AlarmRow i a (a.record i) := rfl

theorem nodeRow_record (s : State) (i : Nat) (n : Node) : NodeRow n (s.nodeRecord i n) := by
  refine ⟨s.unstated tableNode i 6, s.unstated tableNode i 7, ?_⟩
  have hbit : byte (bit n.sample.isSome 0) = if n.sample = none then 0 else 1 := by
    cases n.sample <;> rfl
  simp only [State.nodeRecord, hbit] <;> rfl

theorem pointRow_record (s : State) (i : Nat) (p : Point) : PointRow s p (s.pointRecord i p) := by
  unfold State.pointRecord State.pointStatus
  by_cases hin : p.role.isInput = true
  · have hcode : ¬12 < p.role.code := Nat.not_lt.mpr ((isInput_iff p.role).mp hin)
    by_cases hp : p.role = .hatchPressure
    · refine ⟨s.unstated tablePoint i 6, s.unstated tablePoint i 7, s.unstated tablePoint i 8, ?_⟩
      simp only [if_pos hin, if_pos hp, if_neg hcode, bit_some_true, bit_isSome] <;> rfl
    · refine ⟨0, 0, s.unstated tablePoint i 8, ?_⟩
      simp only [if_pos hin, if_neg hp, if_neg hcode, bit_some_true, bit_isSome] <;> rfl
  · have hcode : 12 < p.role.code := Nat.lt_of_not_le fun h => hin ((isInput_iff p.role).mpr h)
    refine ⟨s.unstated tablePoint i 5, s.unstated tablePoint i 6, s.unstated tablePoint i 7, ?_⟩
    simp only [if_neg hin, if_pos hcode] <;> rfl

/-! ### The records of the LINE table (R113, R128) -/

/-- The seconds of a claim that a LINE record sends. -/
def State.claimSeconds (s : State) (cl : Claim) : Nat :=
  match s.inForce, cl.idle with
  | some c, some t => s.seconds (t + cfgClaimMs c - s.now) cl.hatch
  | _, _ => 0xFFFF

theorem claimRemaining_eq (s : State) (cl : Claim) :
    s.claimRemaining cl = be16 (s.claimSeconds cl) := by
  unfold State.claimRemaining State.claimSeconds
  cases s.inForce <;> cases cl.idle <;> rfl

theorem claimSeconds_holds (s : State) (cl : Claim) : ClaimSeconds s cl (s.claimSeconds cl) := by
  unfold State.claimSeconds
  refine ⟨fun hnone => ?_, fun t c ms ht hc hms => ?_⟩
  · cases s.inForce <;> simp [hnone]
  · simp only [ht, hc, State.seconds, ← hms]
    by_cases hup : ms % 1000 ≠ 0 ∧ Config.roundsUp s.free cl.hatch = true
    · exact .inr ⟨hup.1, by rw [if_pos hup]⟩
    · exact .inl (by rw [if_neg hup, Nat.add_zero])

theorem stationRow_record (s : State) (ln : Line) : StationRow s ln (s.stationRecord ln) := by
  have hheld : (s.claims.filter fun c => c.holder == some ln.num) =
      s.claims.filter fun c => c.holder = some ln.num :=
    List.filter_congr fun c _ => by rw [Bool.eq_iff_iff, beq_iff_eq, decide_eq_true_iff]
  refine ⟨s.unstated tableLine ln.num 2, s.unstated tableLine ln.num 3, _,
    (s.claims.filter fun c => c.holder = some ln.num).map s.claimSeconds, rfl, ?_, ?_⟩
  · exact List.forall₂_map_right_iff.mpr (List.forall₂_same.mpr fun c _ => claimSeconds_holds s c)
  · have hsecs : ((s.claims.filter fun c => c.holder = some ln.num).map s.claimSeconds).flatMap be16 =
        (s.claims.filter fun c => c.holder = some ln.num).flatMap s.claimRemaining := by
      rw [List.flatMap_map]
      exact congrArg (List.flatMap · _) (funext fun c => (claimRemaining_eq s c).symm)
    simp only [State.stationRecord, hheld, hsecs, bit_some_true, bit_isNone] <;> rfl

theorem attitudeRow_seven (s : State) : AttitudeRow s 7 s.attitudeRecord := by
  unfold AttitudeRow
  rw [if_pos rfl]
  have hbytes : ∀ (f : Int × Int → Int) (place : Nat),
      s.peakBytes (peak (s.att.window.map f)) place =
        if s.att.window = [] then [s.unstated tableLine 7 place, s.unstated tableLine 7 (place + 1)]
        else be16 ((s.att.window.map fun w => (f w).natAbs).foldr max 0) := by
    intro f place
    have hpeak := peak_getD (s.att.window.map f)
    cases hw : s.att.window with
    | nil => rfl
    | cons w ws =>
      rw [hw, List.map_map] at hpeak
      rw [if_neg (List.cons_ne_nil w ws)]
      exact congrArg be16 hpeak
  refine ⟨s.unstated tableLine 7 4, s.unstated tableLine 7 5, s.unstated tableLine 7 6,
    s.unstated tableLine 7 7, ?_⟩
  simp only [State.attitudeRecord, Attitude.peakHeel, Attitude.peakTrim, hbytes, be16o_map, bit_isSome] <;> rfl

theorem attitudeRow_eight (s : State) : AttitudeRow s 8 s.windowRecord := by
  unfold AttitudeRow
  rw [if_neg (by decide)]
  rfl

/-- The LINE table of the six lines and the two records of the attitude line. -/
theorem lineRow_record {s : State} (hl : s.lines.length = 6) {k : Nat} {x : Option Line}
    {y : List Byte} (hx : (s.lines.map some ++ [none, none])[k]? = some x)
    (hy : s.lineTable[k]? = some y) : LineRow s (1 + k) x y := by
  obtain hk | hk := Nat.lt_or_ge k 6
  · rw [List.getElem?_append_left (by simpa [hl] using hk), List.getElem?_map] at hx
    rw [State.lineTable, List.getElem?_append_left (by simpa [hl] using hk), List.getElem?_map] at hy
    obtain ⟨ln, hln, rfl⟩ := Option.map_eq_some_iff.mp hx
    rw [hln] at hy
    obtain rfl := Option.some.inj hy
    exact stationRow_record s ln
  · rw [List.getElem?_append_right (by simpa [hl] using hk)] at hx
    rw [State.lineTable, List.getElem?_append_right (by simpa [hl] using hk)] at hy
    simp only [List.length_map, hl] at hx hy
    obtain ⟨j, rfl⟩ := Nat.exists_eq_add_of_le hk
    rw [Nat.add_sub_cancel_left] at hx hy
    match j with
    | 0 =>
      obtain rfl := Option.some.inj hx
      obtain rfl := Option.some.inj hy
      exact attitudeRow_seven s
    | 1 =>
      obtain rfl := Option.some.inj hx
      obtain rfl := Option.some.inj hy
      exact attitudeRow_eight s
    | j + 2 => cases hx

/-! ### The CONFIG and RESET tables (R171, R177) -/

theorem configRow_record (s : State) (x : Nat × Nat) : ConfigRow s x (s.configRecord x) := rfl

/-- The indexes of an item: its code, its first index and how many there are. -/
def itemRow (code : Nat) : Option (Nat × Nat × Nat) :=
  (itemIndexes code).map fun x => (code, x.1, x.2)

/-- The entries of one item. -/
def rowEntries (c : Nat × Nat × Nat) : List (Nat × Nat) := (List.range c.2.2).map fun k => (c.1, c.2.1 + k)

theorem configTable_eq : configTable =
    configRows.flatMap fun c => (List.range (c.2.2 + 1 - c.2.1)).map fun k => (c.1, c.2.1 + k) := by
  have hrows : (configRows.map fun c => (c.1, c.2.1, c.2.2 + 1 - c.2.1)) =
      itemCodes.filterMap itemRow := by decide
  have hentries : ∀ codes : List Nat, (codes.filterMap itemRow).flatMap rowEntries =
      codes.flatMap fun code => match itemIndexes code with
        | some (lo, n) => (List.range n).map fun k => (code, lo + k)
        | none => [] := by
    intro codes
    induction codes with
    | nil => rfl
    | cons code codes ih =>
      rw [List.flatMap_cons, ← ih]
      cases hi : itemIndexes code with
      | none => rw [List.filterMap_cons_none (by simp [itemRow, hi]), List.nil_append]
      | some x => rw [List.filterMap_cons_some (by simp [itemRow, hi]; rfl), List.flatMap_cons]; rfl
  refine (hentries itemCodes).symm.trans ?_
  rw [← hrows, List.flatMap_map]
  rfl

theorem resetRecord_eq (s : State) : s.resetRecord = resetRow s := by
  have hmode : byte s.retained.mode.part.code =
      match s.retained.mode with | .sea => 3 | .harbour => 4 | .commission => 5 := by
    cases s.retained.mode <;> rfl
  have hcause : byte s.retained.cause.code =
      match s.retained.cause with | .powerOn => 1 | .external => 2 | .supply => 3 := by
    cases s.retained.cause <;> rfl
  rw [State.resetRecord, hmode, hcause]
  rfl

/-! ### The reach as a mask (R168) -/

theorem getLsbD_reachOf {hs : List Nat} (hpos : ∀ x ∈ hs, 1 ≤ x) {h : Nat} (h1 : 1 ≤ h) (h16 : h ≤ 16) :
    (reachOf hs).getLsbD (h - 1) = true ↔ h ∈ hs := by
  have hfold : ∀ m : Word, (hs.foldl (fun m h => m ||| (1 <<< (h - 1) : Word)) m).getLsbD (h - 1) = true ↔
      m.getLsbD (h - 1) = true ∨ h ∈ hs := by
    induction hs with
    | nil => simp
    | cons x hs ih =>
      intro m
      have hx := hpos x List.mem_cons_self
      have hbit : (1 <<< (x - 1) : Word).getLsbD (h - 1) = true ↔ h = x := by
        have hle : x - 1 = h - 1 ↔ h = x := by omega
        have hlt : h - 1 < 16 := by omega
        change (BitVec.ofNat 16 (1 <<< (x - 1))).getLsbD (h - 1) = true ↔ h = x
        rw [← hle, BitVec.getLsbD_ofNat, Nat.one_shiftLeft, Nat.testBit_two_pow]
        simp [hlt]
      rw [List.foldl_cons, ih fun y hy => hpos y (List.mem_cons_of_mem _ hy), BitVec.getLsbD_or,
        Bool.or_eq_true, hbit, List.mem_cons, or_assoc]
  rw [reachOf, hfold]
  simp

theorem pumpTable_eq (s : State) :
    s.pumpTable = if s.inForce = none then [] else none :: s.pumps.map some := by
  unfold State.pumpTable
  cases s.inForce <;> rfl

/-! ### READ HATCH (R20) -/

theorem length_hatchRow (hr : Hatch) : (HatchRow hr).length = 13 := rfl

/-- An answer holds three HATCH records at the most. -/
theorem Selected.count_le_three {hs : List Hatch} {first next count : Nat} {bytes : List Byte}
    (h : Selected (hs.map HatchRow) 1 first 42 next count bytes) : count ≤ 3 := by
  have hcount : (((hs.map HatchRow).drop (max first 1 - 1)).take count).length = count := by
    rw [List.length_take, List.length_drop]
    exact Nat.min_eq_left h.within
  have hlen : ∀ r ∈ ((hs.map HatchRow).drop (max first 1 - 1)).take count, r.length = 13 := by
    intro r hr
    obtain ⟨x, -, rfl⟩ := List.mem_map.mp (List.mem_of_mem_drop (List.mem_of_mem_take hr))
    exact length_hatchRow x
  have hbytes : bytes.length = count * 13 := by
    rw [h.whole, List.length_flatten, List.map_congr_left hlen, List.map_const', List.sum_replicate,
      hcount, smul_eq_mul]
  have hfits := h.fits
  omega

theorem hatchTable_selects (hs : List Hatch) (first : Nat) :
    Selected (hs.map HatchRow) 1 first 42
      ((readTable 1 first 42 hs fun _ hr => hr.record).next 1 hs.length)
      (readTable 1 first 42 hs fun _ hr => hr.record).count
      (readTable 1 first 42 hs fun _ hr => hr.record).bytes := by
  have h := readTable_selects (fun _ hr => Hatch.record hr) hs 1 first 42
  have hrows : (hs.mapIdx fun _ hr => hr.record) = hs.map HatchRow := by
    refine List.ext_getElem? fun k => ?_
    rw [List.getElem?_mapIdx, List.getElem?_map]
    exact congrArg (Option.map · _) (funext record_eq_hatchRow)
  rwa [hrows] at h

theorem exec_readHatch {s u : State} {l : Nat} (hs : Served s l) {dt : Nat} (hu : u = s.taken dt l)
    (seq hi lo clear : Byte) {first : Nat} (hfirst : first = (hi ++ lo : Word).toNat) :
    ∃ (v : State) (next count : Nat) (bytes : List Byte),
      exec (.readHatch dt l seq [hi, lo, clear]) s = .next (v.answer l seq kindRead (some .done)
        (1 :: (be16 next ++ [byte count] ++ bytes))) ∧
      Selected (u.hatches.map HatchRow) 1 first 42 next count bytes ∧ count ≤ 3 ∧
      v = { u with
        hatches :=
          if clear = 1 ∧ s.classOf l = .console then
            s.hatches.map fun hr =>
              if max first 1 ≤ hr.num ∧ hr.num < max first 1 + count then
                { hr with heavy := 0, completed := 0 }
              else hr
          else s.hatches } := by
  subst hu hfirst
  have hsel := hatchTable_selects (s.taken dt l).hatches (hi ++ lo : Word).toNat
  refine ⟨_, _, _, _, served_to (len := 4) hs (by decide) rfl, hsel, hsel.count_le_three, ?_⟩
  have hcls := classOf_taken s dt l l
  have hclear : ((clear == 1) = true ∧ (s.taken dt l).classOf l = .console) ↔
      clear = 1 ∧ s.classOf l = .console := by
    rw [hcls, beq_iff_eq]
  simp only [hclear]
  split
  · rfl
  · rfl

/-- Settles O51, table by table. -/
theorem readsAnswerDone : Obligations.ReadsAnswerDone := by
  unfold Obligations.ReadsAnswerDone
  refine ⟨fun s u dt l seq hi lo clear first hs hu hf => ⟨?_, ?_, ?_, ?_, ?_, ?_, ?_, fun hl => ?_, ?_,
    ?_, exec_readHatch hs hu seq hi lo clear hf⟩, fun hs h hpos h1 h16 => getLsbD_reachOf hpos h1 h16,
    rfl, rfl, rfl, rfl, rfl, rfl, rfl, rfl, rfl, rfl, rfl, rfl, rfl, rfl, rfl, rfl, rfl, rfl, rfl, rfl,
    rfl, rfl, rfl, ?_⟩
  · exact reads_of_records (clear := clear) hs hu hf rfl rfl cleatRow_record
  · exact reads_of_records (clear := clear) hs hu hf rfl rfl fun _ o => operationRow_record u.now o
  · exact reads_of_records (clear := clear) hs hu hf rfl rfl (queueRow_record u)
  · rw [← pumpTable_eq]
    refine reads_of_records (clear := clear) hs hu hf rfl rfl fun _ x => ?_
    cases x with
    | none => exact pumpRow_pack u
    | some p => exact pumpRow_pump u p
  · subst hf
    have hoverflow : byte (bit u.alarms.overflow 0) = if u.alarms.overflow then 1 else 0 := by
      cases u.alarms.overflow <;> rfl
    rw [← hoverflow]
    refine reads_of_owner (v := u) (enc := Alarm.record) hs hu rfl rfl rfl rfl fun k x y hx hy => ?_
    obtain rfl := Option.some.inj (hx.symm.trans hy)
    exact alarmRow_record (1 + k) x
  · exact reads_of_records (clear := clear) hs hu hf rfl rfl (nodeRow_record u)
  · exact reads_of_records (clear := clear) hs hu hf rfl rfl (pointRow_record u)
  · refine reads_of_readReply (clear := clear) (ys := u.lineTable) hs hu hf rfl rfl ?_
      fun k x y hx hy => lineRow_record hl hx hy
    simp [State.lineTable]
  · rw [← configTable_eq]
    exact reads_of_records (clear := clear) hs hu hf rfl rfl fun _ => configRow_record u
  · refine reads_of_readReply (clear := clear) (ys := [u.resetRecord]) hs hu hf rfl rfl rfl
      fun k x y _ hy => ?_
    rw [List.mem_singleton.mp (List.mem_of_getElem? hy)]
    exact resetRecord_eq u
  · intro r
    cases r <;> rfl

end Sys2Proof.Machine

/-! The items of a configuration (R171): the range that WRITE checks, and what a canonical table holds. -/

namespace Sys2Proof.Machine

/-! ### The range of an item -/

theorem itemRows_code_le : ∀ r ∈ itemRows, r.1 ≤ 20 := by decide

theorem not_itemRange_of_code {code : Nat} (hlow : 20 < code) (hb : ¬(32 ≤ code ∧ code ≤ 55))
    (idx v : Nat) : ¬ItemRange code idx v := by
  rintro (⟨r, hr, h, -⟩ | ⟨h, -⟩ | ⟨h, -⟩ | ⟨h, -⟩ | ⟨h, h', -⟩)
  · have := itemRows_code_le r hr
    omega
  all_goals omega

theorem itemRange_binding {code : Nat} (hb : 32 ≤ code ∧ code ≤ 55) (idx v : Nat) :
    ItemRange code idx v ↔ 1 ≤ idx ∧ idx ≤ 48 ∧ (v = 0 ∨
      (v / 32768 = 0 ∧ 1 ≤ v % 32 ∧ v % 32 ≤ 21 ∧ v / 32 % 16 ≤ 11 ∧ v / 512 % 32 ≤ 24)) := by
  constructor
  · rintro (⟨r, hr, h, -⟩ | ⟨h, -⟩ | ⟨h, -⟩ | ⟨h, -⟩ | ⟨-, -, h⟩)
    · have := itemRows_code_le r hr
      omega
    · omega
    · omega
    · omega
    · exact h
  · exact fun h => .inr (.inr (.inr (.inr ⟨hb.1, hb.2, h⟩)))

/-- The checks of WRITE are the table of ranges of R171. -/
theorem itemOk_iff (code idx : Nat) (v : Word) :
    indexOk code idx = true ∧ valueOk code v = true ↔ ItemRange code idx v.toNat := by
  have hv := v.isLt
  by_cases hb : 32 ≤ code ∧ code ≤ 55
  · rw [itemRange_binding hb]
    simp only [indexOk, itemIndexes, valueOk, if_pos hb, Bool.and_eq_true, Bool.or_eq_true,
      decide_eq_true_eq, beq_iff_eq]
    simp only [bits, Nat.reducePow, pow_zero, Nat.div_one]
    omega
  · by_cases hlow : code ≤ 20
    · simp only [ItemRange, itemRows, List.mem_cons, List.not_mem_nil, or_false, exists_eq_or_imp,
        exists_eq_left, indexOk, itemIndexes, valueOk, if_neg hb]
      interval_cases code <;>
        simp only [Bool.and_eq_true, Bool.or_eq_true, decide_eq_true_eq, beq_iff_eq,
          Bool.false_eq_true, Nat.reduceEqDiff, Nat.reduceLeDiff, OfNat.zero_ne_ofNat,
          OfNat.ofNat_ne_one, zero_ne_one, true_and, false_and, false_or, or_false] <;>
        (try simp only [bits, Nat.reducePow, pow_zero, Nat.div_one]) <;> omega
    · have hnone : itemIndexes code = none := by
        unfold itemIndexes
        rw [if_neg hb]
        split <;> first | omega | rfl
      simp only [indexOk, hnone, Bool.false_eq_true, false_and, false_iff]
      exact not_itemRange_of_code (by omega) hb idx v.toNat

/-! ### The entries of a canonical table -/

theorem find_of_mem {lo : Nat} {c : Items} (hc : itemsFrom lo c = true) {e : Nat × Word}
    (he : e ∈ c) : c.find? (fun x => x.1 == e.1) = some e := by
  induction c generalizing lo with
  | nil => exact nomatch he
  | cons x rest ih =>
    simp only [itemsFrom, Bool.and_eq_true, decide_eq_true_eq] at hc
    obtain ⟨-, hrest⟩ := hc
    rcases List.mem_cons.mp he with rfl | he
    · simp
    · have hlt := itemsFrom_le hrest e he
      rw [List.find?_cons_of_neg (by simp; omega), ih hrest he]

theorem ne_default_of_mem {lo : Nat} {c : Items} (hc : itemsFrom lo c = true) {e : Nat × Word}
    (he : e ∈ c) : e.2 ≠ itemDefault (e.1 / 256) (e.1 % 256) := by
  induction c generalizing lo with
  | nil => exact nomatch he
  | cons x rest ih =>
    simp only [itemsFrom, Bool.and_eq_true, decide_eq_true_eq, bne_iff_ne] at hc
    obtain ⟨⟨-, hx⟩, hrest⟩ := hc
    rcases List.mem_cons.mp he with rfl | he
    · exact hx
    · exact ih hrest he

theorem itemKey_div_mod (k : Nat) : itemKey (k / 256) (k % 256) = k := by
  unfold itemKey; omega

theorem getItem_of_mem {c : Items} (hc : itemsWf c = true) {e : Nat × Word} (he : e ∈ c) :
    getItem c (e.1 / 256) (e.1 % 256) = e.2 := by
  rw [getItem, itemKey_div_mod, find_of_mem hc he]

/-- The entries of a canonical table are the items that differ from their default. -/
theorem mem_items_iff {c : Items} (hc : itemsWf c = true) {code idx : Nat} (hidx : idx < 256)
    (v : Word) : (itemKey code idx, v) ∈ c ↔
      getItem c code idx = v ∧ getItem c code idx ≠ itemDefault code idx := by
  constructor
  · intro h
    have hget := getItem_of_mem hc h
    have hne := ne_default_of_mem hc h
    simp only [itemKey_div hidx, itemKey_mod hidx] at hget hne
    exact ⟨hget, hget ▸ hne⟩
  · rintro ⟨rfl, hne⟩
    exact mem_of_getItem_ne hne

/-- An item away from its default lies in its range, where every entry of the table does. -/
theorem itemRange_of_ranges {c : Items}
    (hr : ∀ e ∈ c, ItemRange (e.1 / 256) (e.1 % 256) e.2.toNat) {code idx : Nat} (hidx : idx < 256)
    (hne : getItem c code idx ≠ itemDefault code idx) : ItemRange code idx (itemNat c code idx) := by
  have h := hr _ (mem_of_getItem_ne hne)
  rw [itemKey_div hidx, itemKey_mod hidx] at h
  exact h

theorem limitsOk_iff (c : Items) : limitsOk c = true ↔
    (∀ e ∈ c, ItemRange (e.1 / 256) (e.1 % 256) e.2.toNat) ∧
      itemNat c 12 0 < itemNat c 13 0 ∧ itemNat c 15 0 < itemNat c 16 0 := by
  simp only [limitsOk, Bool.and_eq_true, decide_eq_true_eq, List.all_eq_true, itemOk_iff, and_assoc]

end Sys2Proof.Machine

/-! Check 1 of a configuration (R172): its cleat entries lie on hatches and groups, and number the cleats of
each hatch from 1. -/

namespace Sys2Proof.Machine

/-! ### The entries of a hatch -/

theorem pairwise_keys {lo : Nat} {c : Items} (hc : itemsFrom lo c = true) :
    c.Pairwise fun d e => d.1 ≠ e.1 := by
  induction c generalizing lo with
  | nil => exact .nil
  | cons x rest ih =>
    simp only [itemsFrom, Bool.and_eq_true, decide_eq_true_eq] at hc
    obtain ⟨-, hrest⟩ := hc
    refine .cons (fun e he => ?_) (ih hrest)
    have := itemsFrom_le hrest e he
    omega

theorem nodup_items {c : Items} (hc : itemsWf c = true) : c.Nodup :=
  (pairwise_keys hc).imp fun h heq => h (congrArg Prod.fst heq)

/-- The entries that hold a cleat of a hatch. -/
def cleatEntries (c : Items) (h : Nat) : Items :=
  c.filter fun e => decide (e.1 / 256 = 7) && (bits e.2 8 4 == h)

theorem cleatNumbers_eq (c : Items) (h : Nat) :
    cleatNumbers c h = (cleatEntries c h).map fun e => bits e.2 0 5 := by
  unfold cleatNumbers cfgCleats cleatEntries
  induction c with
  | nil => rfl
  | cons x rest ih =>
    by_cases hx : x.1 / 256 = 7
    · by_cases hh : bits x.2 8 4 = h <;> simp [hx, hh, ih]
    · simp [hx, ih]

/-- The fields of a cleat entry (R171). -/
theorem bits_of_cleat (v : Word) :
    bits v 8 4 = v.toNat / 256 % 16 ∧ bits v 5 2 = v.toNat / 32 % 4 ∧ bits v 0 5 = v.toNat % 32 := by
  simp [bits]

theorem perm_of_complete {c : Items} {h : Nat}
    (hall : ∀ n, 1 ≤ n ∧ n ≤ cleatCount c h → n ∈ cleatNumbers c h) :
    (upTo (cleatCount c h)).Perm (cleatNumbers c h) := by
  have hsub : upTo (cleatCount c h) ⊆ cleatNumbers c h := fun n hn => hall n (mem_upTo.mp hn)
  exact ((nodup_upTo _).subperm hsub).perm_of_length_le (by simp [upTo, cleatCount])

theorem itemRows_code_ne_cleat : ∀ r ∈ itemRows, r.1 ≠ 7 := by decide

theorem hatch_pos_of_cleatAt {c : Items}
    (hr : ∀ e ∈ c, ItemRange (e.1 / 256) (e.1 % 256) e.2.toNat) {k h g n : Nat}
    (hat : CleatAt c k h g n) : 1 ≤ h := by
  obtain ⟨h1, h160, hne, rfl, -⟩ := hat
  have hrange := itemRange_of_ranges hr (code := 7) (idx := k) (by omega) fun h0 => hne (by
    rw [itemNat, h0]
    rfl)
  rcases hrange with ⟨r, hrow, h7, -⟩ | ⟨-, -, -, hv⟩ | ⟨h, -⟩ | ⟨h, -⟩ | ⟨h, -⟩
  · exact absurd h7.symm (itemRows_code_ne_cleat r hrow)
  all_goals omega

section
variable {c : Items} (hc : itemsWf c = true)
  (hr : ∀ e ∈ c, ItemRange (e.1 / 256) (e.1 % 256) e.2.toNat)
include hc hr

/-- An entry of code 7 is one of the 160 slots. -/
theorem slot_of_mem {e : Nat × Word} (he : e ∈ c) (h7 : e.1 / 256 = 7) :
    ∃ k, 1 ≤ k ∧ k ≤ 160 ∧ e = (itemKey 7 k, getItem c 7 k) ∧ itemNat c 7 k ≠ 0 := by
  have hrange := (itemOk_iff _ _ _).mpr (hr e he)
  have hget := getItem_of_mem hc he
  have hne := ne_default_of_mem hc he
  have hkey := itemKey_div_mod e.1
  rw [h7] at hrange hget hne hkey
  obtain ⟨hidx, -⟩ := hrange
  simp only [indexOk, itemIndexes, Nat.reduceLeDiff, false_and, if_false, Bool.and_eq_true,
    decide_eq_true_eq] at hidx
  refine ⟨e.1 % 256, hidx.1, by omega, Prod.ext hkey.symm hget.symm, fun h0 => hne ?_⟩
  rw [← hget]
  exact BitVec.eq_of_toNat_eq h0

theorem mem_cleatEntries_iff (h : Nat) (e : Nat × Word) : e ∈ cleatEntries c h ↔
    ∃ k g, e = (itemKey 7 k, getItem c 7 k) ∧ CleatAt c k h g (bits e.2 0 5) := by
  simp only [cleatEntries, List.mem_filter, Bool.and_eq_true, decide_eq_true_eq, beq_iff_eq]
  constructor
  · rintro ⟨he, h7, hh⟩
    obtain ⟨k, h1, h160, rfl, hne⟩ := slot_of_mem hc hr he h7
    obtain ⟨hhatch, -, hn⟩ := bits_of_cleat (getItem c 7 k)
    exact ⟨k, _, rfl, h1, h160, hne, hh.symm.trans hhatch, rfl, hn⟩
  · rintro ⟨k, g, rfl, h1, h160, hne, rfl, -, -⟩
    obtain ⟨hhatch, -, -⟩ := bits_of_cleat (getItem c 7 k)
    refine ⟨(mem_items_iff hc (by omega) _).mpr ⟨rfl, fun h0 => hne ?_⟩, itemKey_div (by omega),
      hhatch⟩
    rw [itemNat, h0]
    rfl

theorem mem_cleatNumbers_iff (h n : Nat) : n ∈ cleatNumbers c h ↔ ∃ k g, CleatAt c k h g n := by
  rw [cleatNumbers_eq, List.mem_map]
  constructor
  · rintro ⟨e, he, rfl⟩
    obtain ⟨k, g, -, hat⟩ := (mem_cleatEntries_iff hc hr h e).mp he
    exact ⟨k, g, hat⟩
  · rintro ⟨k, g, hat⟩
    obtain ⟨-, -, hn⟩ := bits_of_cleat (getItem c 7 k)
    have hnum : bits (getItem c 7 k) 0 5 = n := hn.trans hat.2.2.2.2.2.symm
    exact ⟨(itemKey 7 k, getItem c 7 k),
      (mem_cleatEntries_iff hc hr h _).mpr ⟨k, g, rfl, hnum.symm ▸ hat⟩, hnum⟩

/-- The numbers of a hatch have no repeat exactly where no cleat has two slots. -/
theorem nodup_cleatNumbers_iff (h : Nat) : (cleatNumbers c h).Nodup ↔
    ∀ k g n k' g', CleatAt c k h g n → CleatAt c k' h g' n → k' = k := by
  have hnd : (cleatEntries c h).Nodup := (nodup_items hc).filter _
  have hnum : ∀ {k g n}, CleatAt c k h g n → bits (getItem c 7 k) 0 5 = n := fun hat =>
    (bits_of_cleat _).2.2.trans hat.2.2.2.2.2.symm
  rw [cleatNumbers_eq, List.nodup_map_iff_inj_on hnd]
  constructor
  · intro hinj k g n k' g' hat hat'
    have hmem : ∀ {k g}, CleatAt c k h g n → (itemKey 7 k, getItem c 7 k) ∈ cleatEntries c h :=
      fun h => (mem_cleatEntries_iff hc hr _ _).mpr ⟨_, _, rfl, (hnum h).symm ▸ h⟩
    have heq := hinj _ (hmem hat') _ (hmem hat) ((hnum hat').trans (hnum hat).symm)
    exact ((itemKey_inj (by omega) (by omega)).mp (congrArg Prod.fst heq)).2
  · intro huniq d hd e he hde
    obtain ⟨k, g, hd', hat⟩ := (mem_cleatEntries_iff hc hr h d).mp hd
    obtain ⟨k', g', he', hat'⟩ := (mem_cleatEntries_iff hc hr h e).mp he
    have hk := huniq k g _ k' g' hat (by rw [show bits d.2 0 5 = bits e.2 0 5 from hde]; exact hat')
    rw [hd', he', hk]

/-- The cleats of a hatch are numbered from 1 to `m`, each once. -/
theorem numbered_iff {h m : Nat}
    (huniq : ∀ k g n k' g', CleatAt c k h g n → CleatAt c k' h g' n → k' = k)
    (hm : ∀ n, (∃ k g, CleatAt c k h g n) ↔ 1 ≤ n ∧ n ≤ m) : cleatCount c h = m := by
  have hperm : (cleatNumbers c h).Perm (upTo m) :=
    (List.perm_ext_iff_of_nodup ((nodup_cleatNumbers_iff hc hr h).mpr huniq) (nodup_upTo m)).mpr
      fun n => by rw [mem_cleatNumbers_iff hc hr, hm, mem_upTo]
  rw [cleatCount, hperm.length_eq]
  simp [upTo]

theorem mem_cfgCleats_iff (h g n : Nat) : (h, g, n) ∈ cfgCleats c ↔ ∃ k, CleatAt c k h g n := by
  simp only [cfgCleats, List.mem_filterMap]
  constructor
  · rintro ⟨e, he, hsome⟩
    split at hsome
    · next h7 =>
      obtain ⟨k, h1, h160, rfl, hne⟩ := slot_of_mem hc hr he h7
      obtain ⟨hhatch, hg, hn⟩ := bits_of_cleat (getItem c 7 k)
      simp only [Option.some.injEq, Prod.mk.injEq, hhatch, hg, hn] at hsome
      obtain ⟨rfl, rfl, rfl⟩ := hsome
      exact ⟨k, h1, h160, hne, rfl, rfl, rfl⟩
    · cases hsome
  · rintro ⟨k, h1, h160, hne, rfl, rfl, rfl⟩
    obtain ⟨hhatch, hg, hn⟩ := bits_of_cleat (getItem c 7 k)
    refine ⟨(itemKey 7 k, getItem c 7 k),
      (mem_items_iff hc (by omega) _).mpr ⟨rfl, fun h0 => hne ?_⟩, ?_⟩
    · rw [itemNat, h0]
      rfl
    · rw [if_pos (itemKey_div (by omega)), hhatch, hg, hn]
      rfl

/-- Check 1 is the two clauses on cleats (R172). -/
theorem cleatsOk_iff : cleatsOk c = true ↔
    (∀ k h g n, CleatAt c k h g n → h ≤ itemNat c 1 0 ∧ g ≤ itemNat c 3 h ∧
      ∀ k' g', CleatAt c k' h g' n → k' = k) ∧
    ∀ h, 1 ≤ h → h ≤ itemNat c 1 0 → ∃ m, 1 ≤ m ∧ m ≤ 24 ∧
      ∀ n, (∃ k g, CleatAt c k h g n) ↔ 1 ≤ n ∧ n ≤ m := by
  simp only [cleatsOk, Bool.and_eq_true, List.all_eq_true, decide_eq_true_eq, mem_upTo,
    List.contains_iff_mem, Prod.forall, mem_cfgCleats_iff hc hr]
  simp only [cfgHatches, cfgGroups]
  constructor
  · rintro ⟨hplace, hcount⟩
    have hperm : ∀ h, 1 ≤ h → h ≤ itemNat c 1 0 →
        (upTo (cleatCount c h)).Perm (cleatNumbers c h) := fun h h1 hle =>
      perm_of_complete fun n hn => (hcount h ⟨h1, hle⟩).2 n hn
    refine ⟨fun k h g n hat => ?_, fun h h1 hle => ?_⟩
    · obtain ⟨hle, hgle⟩ := hplace h g n ⟨k, hat⟩
      have hnd := (hperm h (hatch_pos_of_cleatAt hr hat) hle).nodup (nodup_upTo _)
      exact ⟨hle, hgle, fun k' g' => (nodup_cleatNumbers_iff hc hr h).mp hnd k g n k' g' hat⟩
    · obtain ⟨⟨hone, h24⟩, -⟩ := hcount h ⟨h1, hle⟩
      refine ⟨cleatCount c h, hone, h24, fun n => ?_⟩
      rw [← mem_cleatNumbers_iff hc hr, ← (hperm h h1 hle).mem_iff, mem_upTo]
  · rintro ⟨hplace, hnumbers⟩
    refine ⟨fun h g n ⟨k, hat⟩ => ⟨(hplace k h g n hat).1, (hplace k h g n hat).2.1⟩, ?_⟩
    rintro h ⟨h1, hle⟩
    obtain ⟨m, hone, h24, hm⟩ := hnumbers h h1 hle
    have hcount : cleatCount c h = m :=
      numbered_iff hc hr (fun k g n k' g' hat => (hplace k h g n hat).2.2 k' g') hm
    rw [hcount]
    exact ⟨⟨hone, h24⟩, fun n hn => (mem_cleatNumbers_iff hc hr h n).mpr ((hm n).mpr hn)⟩

/-- In a configuration that passes check 1 the cleats of a hatch are those up to its count. -/
theorem cleatAt_iff_le_count (hcl : cleatsOk c = true) {h : Nat} (h1 : 1 ≤ h)
    (hle : h ≤ itemNat c 1 0) (n : Nat) :
    (∃ k g, CleatAt c k h g n) ↔ 1 ≤ n ∧ n ≤ cleatCount c h := by
  obtain ⟨hplace, hnumbers⟩ := (cleatsOk_iff hc hr).mp hcl
  obtain ⟨m, -, -, hm⟩ := hnumbers h h1 hle
  rw [hm, numbered_iff hc hr (fun k g n k' g' hat => (hplace k h g n hat).2.2 k' g') hm]

end

end Sys2Proof.Machine

/-! Check 2 of a configuration (R172): every binding in order, and no role bound twice. -/

namespace Sys2Proof.Machine

/-! ### The bindings of a configuration -/

/-- The point that a binding item of node `a` makes. -/
def boundPoint (c : Items) (code a : Nat) (r : Role) (subj idx : Nat) : Point :=
  ⟨r, subj, idx, a, if code < 48 then code - 32 else code - 48,
    bits (getItem c code a) 14 1 == 1, none, none, 0, true⟩

/-- A role takes one binding for its subject, whatever the index, where it is one of a pump (log 22). -/
theorem sameRole_iff (p q : Point) : p.sameRole q = true ↔ p.role = q.role ∧
    p.subject = q.subject ∧ (p.index = q.index ∨ q.role = .pumpRun ∨ q.role = .pumpRunning) := by
  simp only [Point.sameRole, Bool.and_eq_true, Bool.or_eq_true, beq_iff_eq, and_assoc]
  constructor
  · rintro ⟨hr, hs, h⟩
    rw [hr] at h
    tauto
  · rintro ⟨hr, hs, h⟩
    rw [hr]
    tauto

section
variable {c : Items} (hc : itemsWf c = true)

include hc in
/-- Two bindings come from two items: code and node of a binding spell the key. -/
theorem nodup_allBindings : (allBindings c).Nodup := by
  rw [allBindings, List.Nodup, List.pairwise_filterMap]
  refine (pairwise_keys hc).imp fun {d e} hne x hx y hy hxy => hne ?_
  subst hxy
  split at hx
  case isFalse => cases hx
  split at hy
  case isFalse => cases hy
  obtain ⟨p, hp, rfl⟩ := Option.map_eq_some_iff.mp hx
  obtain ⟨q, hq, heq⟩ := Option.map_eq_some_iff.mp hy
  obtain ⟨hcode, rfl⟩ := Prod.mk.inj heq
  have hd := (bindingOf_eq_some hp).2.2.2.1
  have he := (bindingOf_eq_some hq).2.2.2.1
  rw [← itemKey_div_mod d.1, ← itemKey_div_mod e.1, ← hcode, ← hd, ← he]

include hc in
/-- No role is bound twice exactly where its binding is the only one. -/
theorem single_sameRole_iff {b : Nat × Point} (hb : b ∈ allBindings c) :
    ((allBindings c).filter fun d => d.2.sameRole b.2).length = 1 ↔
      ∀ d ∈ allBindings c, d.2.sameRole b.2 = true → d = b := by
  have hself : b ∈ (allBindings c).filter fun d => d.2.sameRole b.2 :=
    List.mem_filter.mpr ⟨hb, by simp [Point.sameRole]⟩
  constructor
  · intro hlen d hd hsame
    obtain ⟨x, hx⟩ := List.length_eq_one_iff.mp hlen
    have hd' : d ∈ (allBindings c).filter fun d => d.2.sameRole b.2 :=
      List.mem_filter.mpr ⟨hd, hsame⟩
    rw [hx, List.mem_singleton] at hself hd'
    rw [hself, hd']
  · intro huniq
    have hperm : ((allBindings c).filter fun d => d.2.sameRole b.2).Perm [b] :=
      (List.perm_ext_iff_of_nodup ((nodup_allBindings hc).filter _) (List.nodup_singleton b)).mpr
        fun d => by
          rw [List.mem_singleton]
          refine ⟨fun h => ?_, fun h => h ▸ hself⟩
          obtain ⟨hd, hsame⟩ := List.mem_filter.mp h
          exact huniq d hd hsame
    exact hperm.length_eq

variable (hr : ∀ e ∈ c, ItemRange (e.1 / 256) (e.1 % 256) e.2.toNat)
include hc hr

/-- An entry of a point code is a binding item of one of the 48 nodes. -/
theorem bindingItem_of_mem {e : Nat × Word} (he : e ∈ c) (h32 : 32 ≤ e.1 / 256) :
    e.1 / 256 ≤ 55 ∧ 1 ≤ e.1 % 256 ∧ e.1 % 256 ≤ 48 ∧ itemNat c (e.1 / 256) (e.1 % 256) ≠ 0 := by
  have hne := ne_default_of_mem hc he
  have hzero : itemNat c (e.1 / 256) (e.1 % 256) ≠ 0 := by
    rw [itemDefault_binding h32] at hne
    rw [itemNat, getItem_of_mem hc he]
    exact fun h0 => hne (BitVec.eq_of_toNat_eq h0)
  rcases hr e he with ⟨r, hrow, hcode, -⟩ | ⟨h, -⟩ | ⟨h, -⟩ | ⟨h, -⟩ | ⟨-, h55, h1, h48, -⟩
  · have := itemRows_code_le r hrow
    omega
  · omega
  · omega
  · omega
  · exact ⟨h55, h1, h48, hzero⟩

theorem mem_allBindings_iff (b : Nat × Point) : b ∈ allBindings c ↔
    ∃ code a r subj idx, BoundAt c code a r subj idx ∧
      b = (code, boundPoint c code a r subj idx) := by
  simp only [allBindings, List.mem_filterMap]
  constructor
  · rintro ⟨e, he, hb⟩
    split at hb
    case isFalse => cases hb
    next h32 =>
    obtain ⟨p, hp, rfl⟩ := Option.map_eq_some_iff.mp hb
    obtain ⟨h55, h1, h48, hne⟩ := bindingItem_of_mem hc hr he h32
    rw [← getItem_of_mem hc he] at hp
    obtain ⟨hrole, hsubj, hidx, hnode, hpt, hinv, hq, hpend, hch, hst⟩ := bindingOf_eq_some hp
    obtain ⟨hbits, hbits', hbits''⟩ := bits_of_binding (getItem c (e.1 / 256) (e.1 % 256))
    refine ⟨e.1 / 256, e.1 % 256, p.role, p.subject, p.index,
      ⟨h32, h55, h1, h48, hne, hbits ▸ hrole, hsubj.trans hbits', hidx.trans hbits''⟩, ?_⟩
    cases p
    dsimp only at hnode hpt hinv hq hpend hch hst
    subst hnode hpt hinv hq hpend hch hst
    rfl
  · rintro ⟨code, a, r, subj, idx, ⟨h32, h55, h1, h48, hne, hrole, rfl, rfl⟩, rfl⟩
    obtain ⟨hbits, hbits', hbits''⟩ := bits_of_binding (getItem c code a)
    refine ⟨(itemKey code a, getItem c code a),
      (mem_items_iff hc (by omega) _).mpr ⟨rfl, fun h0 => hne ?_⟩, ?_⟩
    · rw [itemNat, h0, itemDefault_binding h32]
      rfl
    · have hrole' : Role.ofCode (bits (getItem c code a) 0 5) = some r := hbits ▸ hrole
      simp only [itemKey_div (show a < 256 by omega), itemKey_mod (show a < 256 by omega), if_pos h32,
        bindingOf, hrole', hbits', hbits'', boundPoint, itemNat, Option.map_some]

/-- A test of role, subject and index holds of some binding exactly where an item binds such a point. -/
theorem any_binding_iff (q : Role → Nat → Nat → Bool) :
    ((allBindings c).any fun b => q b.2.role b.2.subject b.2.index) = true ↔
      ∃ code a r subj idx, BoundAt c code a r subj idx ∧ q r subj idx = true := by
  rw [List.any_eq_true]
  constructor
  · rintro ⟨b, hb, hq⟩
    obtain ⟨code, a, r, subj, idx, hat, rfl⟩ := (mem_allBindings_iff hc hr b).mp hb
    exact ⟨code, a, r, subj, idx, hat, hq⟩
  · rintro ⟨code, a, r, subj, idx, hat, hq⟩
    exact ⟨_, (mem_allBindings_iff hc hr _).mpr ⟨code, a, r, subj, idx, hat, rfl⟩, hq⟩

end

/-! ### Subject and index -/

/-- The cover item of a hatch is 0 or 1. -/
theorem cover_le_one {c : Items} (hr : ∀ e ∈ c, ItemRange (e.1 / 256) (e.1 % 256) e.2.toNat)
    {h : Nat} (hh : h < 256) : itemNat c 2 h ≤ 1 := by
  by_cases hd : getItem c 2 h = itemDefault 2 h
  · rw [itemNat, hd]
    exact Nat.zero_le _
  · obtain ⟨-, hv⟩ := (itemOk_iff 2 h (getItem c 2 h)).mpr (itemRange_of_ranges hr hh hd)
    simpa [valueOk, itemNat] using hv

theorem hatches_le {c : Items} (hr : ∀ e ∈ c, ItemRange (e.1 / 256) (e.1 % 256) e.2.toNat) :
    itemNat c 1 0 ≤ 11 := by
  by_cases hd : getItem c 1 0 = itemDefault 1 0
  · rw [itemNat, hd]
    decide
  · obtain ⟨-, hv⟩ := (itemOk_iff 1 0 (getItem c 1 0)).mpr (itemRange_of_ranges hr (by omega) hd)
    simp only [valueOk, Nat.reduceLeDiff, false_and, if_false, Bool.and_eq_true,
      decide_eq_true_eq] at hv
    exact hv.2

theorem cover_eq_roll {c : Items} {h : Nat} (hle : itemNat c 2 h ≤ 1) :
    .roll = cfgCover c h ↔ itemNat c 2 h = 0 := by
  rw [cfgCover]
  split <;> simp <;> omega

theorem cover_eq_fold (c : Items) (h : Nat) : .fold = cfgCover c h ↔ itemNat c 2 h = 1 := by
  rw [cfgCover]
  split <;> simp_all

/-- The range check of a binding is the table `Fits` (R31, R172). -/
theorem subjectOk_iff {c : Items} (hc : itemsWf c = true)
    (hr : ∀ e ∈ c, ItemRange (e.1 / 256) (e.1 % 256) e.2.toNat) (hcl : cleatsOk c = true)
    (p : Point) : subjectOk c p = true ↔ Fits c p.role p.subject p.index := by
  have hnames : itemNat c 1 0 = cfgHatches c ∧ itemNat c 9 0 = cfgPumps c ∧
      itemNat c 3 p.subject = cfgGroups c p.subject := ⟨rfl, rfl, rfl⟩
  by_cases hh : 1 ≤ p.subject ∧ p.subject ≤ cfgHatches c
  · have hcleat := cleatAt_iff_le_count hc hr hcl hh.1 hh.2 p.index
    have hle := cover_le_one hr (h := p.subject) (Nat.lt_of_le_of_lt (hh.2.trans (hatches_le hr))
      (by decide))
    have hroll := cover_eq_roll hle
    have hfold := cover_eq_fold c p.subject
    cases hrole : p.role
    case cleatEngaged | cleatReleased =>
      simp only [Fits, hcleat]
      simp [subjectOk, hrole, Role.isThermostat, Role.isCleatInput, Role.onlyOn, Role.code, hnames, hh]
    all_goals
      simp [subjectOk, Fits, hrole, Role.isThermostat, Role.isCleatInput, Role.onlyOn, Role.code,
        hnames, hh, hroll, hfold, and_comm]
  · cases hrole : p.role <;>
      simp [subjectOk, Fits, hrole, Role.isThermostat, Role.isCleatInput, Role.onlyOn, Role.code,
        hnames, hh, and_assoc]

end Sys2Proof.Machine

/-! A configuration passes the four checks of R172 exactly where it is valid in the sense of `ValidItems`. -/

namespace Sys2Proof.Machine

/-! ### Check 2 -/

/-- What check 2 asks of one binding, before the uniqueness of its role. -/
theorem bindingOk_boundPoint {c : Items} (hc : itemsWf c = true)
    (hr : ∀ e ∈ c, ItemRange (e.1 / 256) (e.1 % 256) e.2.toNat) (hcl : cleatsOk c = true)
    (code a : Nat) (r : Role) (subj idx : Nat) :
    bindingOk c (code, boundPoint c code a r subj idx) = true ↔
      (getItem c 8 a).getLsbD 15 = true ∧ (r.code ≤ 12 ↔ code < 48) ∧
        (18 ≤ r.code → (getItem c 8 a).getLsbD (code - 48) = true) ∧ Fits c r subj idx := by
  have hin : r.isInput = decide (code < 48) ↔ (r.code ≤ 12 ↔ code < 48) := by
    rw [Bool.eq_iff_iff]
    simp [Role.isInput]
  have hprop : r.isProportional = false ↔ ¬18 ≤ r.code := by simp [Role.isProportional]
  simp only [bindingOk, Bool.and_eq_true, Bool.or_eq_true, Bool.not_eq_true', beq_iff_eq,
    subjectOk_iff hc hr hcl, bits_one_iff]
  simp only [boundPoint, hin, hprop, and_assoc]
  refine and_congr_right fun _ => and_congr_right fun hside => and_congr_left fun _ => ?_
  by_cases hp : 18 ≤ r.code
  · rw [if_neg (by omega)]
    simp [hp]
  · simp [hp]

theorem bindingsOk_iff {c : Items} (hc : itemsWf c = true)
    (hr : ∀ e ∈ c, ItemRange (e.1 / 256) (e.1 % 256) e.2.toNat) (hcl : cleatsOk c = true) :
    bindingsOk c = true ↔ ∀ code a r subj idx, BoundAt c code a r subj idx →
      (getItem c 8 a).getLsbD 15 = true ∧ (r.code ≤ 12 ↔ code < 48) ∧
      (18 ≤ r.code → (getItem c 8 a).getLsbD (code - 48) = true) ∧ Fits c r subj idx ∧
      ∀ code' a' idx', BoundAt c code' a' r subj idx' →
        idx' = idx ∨ r = .pumpRun ∨ r = .pumpRunning → code' = code ∧ a' = a := by
  have hmem : ∀ {code a r subj idx}, BoundAt c code a r subj idx →
      (code, boundPoint c code a r subj idx) ∈ allBindings c := fun hat =>
    (mem_allBindings_iff hc hr _).mpr ⟨_, _, _, _, _, hat, rfl⟩
  simp only [bindingsOk, Bool.and_eq_true, List.all_eq_true, beq_iff_eq]
  constructor
  · rintro ⟨hone, hsingle⟩ code a r subj idx hat
    obtain ⟨hnode, hside, hprop, hfits⟩ :=
      (bindingOk_boundPoint hc hr hcl ..).mp (hone _ (hmem hat))
    refine ⟨hnode, hside, hprop, hfits, fun code' a' idx' hat' hsame => ?_⟩
    have heq := (single_sameRole_iff hc (hmem hat)).mp (hsingle _ (hmem hat)) _ (hmem hat')
      ((sameRole_iff _ _).mpr ⟨rfl, rfl, hsame⟩)
    obtain ⟨hcode, hpoint⟩ := Prod.mk.inj heq
    exact ⟨hcode, congrArg Point.node hpoint⟩
  · intro hall
    refine ⟨fun b hb => ?_, fun b hb => (single_sameRole_iff hc hb).mpr fun d hd hsame => ?_⟩
    · obtain ⟨code, a, r, subj, idx, hat, rfl⟩ := (mem_allBindings_iff hc hr b).mp hb
      obtain ⟨hnode, hside, hprop, hfits, -⟩ := hall code a r subj idx hat
      exact (bindingOk_boundPoint hc hr hcl ..).mpr ⟨hnode, hside, hprop, hfits⟩
    · obtain ⟨code, a, r, subj, idx, hat, rfl⟩ := (mem_allBindings_iff hc hr b).mp hb
      obtain ⟨code', a', r', subj', idx', hat', rfl⟩ := (mem_allBindings_iff hc hr d).mp hd
      obtain ⟨hrole, hsubj, hidx⟩ := (sameRole_iff _ _).mp hsame
      obtain rfl : r' = r := hrole
      obtain rfl : subj' = subj := hsubj
      obtain ⟨-, -, -, -, huniq⟩ := hall code a r' subj' idx hat
      obtain ⟨rfl, rfl⟩ := huniq code' a' idx' hat' hidx
      have hi : idx' = idx := by
        obtain ⟨-, -, -, -, -, -, -, rfl⟩ := hat
        exact hat'.2.2.2.2.2.2.2
      rw [hi]

/-! ### Check 3 -/

theorem mem_requiredOf_iff {c : Items} (hc : itemsWf c = true)
    (hr : ∀ e ∈ c, ItemRange (e.1 / 256) (e.1 % 256) e.2.toNat) (hcl : cleatsOk c = true) {h : Nat}
    (h1 : 1 ≤ h) (hle : h ≤ itemNat c 1 0) (r : Role) (i : Nat) :
    (r, i) ∈ requiredOf c h ↔ Required c h r i := by
  have hcover := cover_le_one hr (h := h) (Nat.lt_of_le_of_lt (hle.trans (hatches_le hr)) (by decide))
  have hpair : ∀ panels : List Role, (r, i) ∈ panels.flatMap (fun r => [(r, 1), (r, 2)]) ↔
      (i = 1 ∨ i = 2) ∧ r ∈ panels := by
    intro panels
    simp only [List.mem_flatMap, List.mem_cons, List.not_mem_nil, or_false, Prod.mk.injEq]
    constructor
    · rintro ⟨x, hx, ⟨rfl, hi⟩ | ⟨rfl, hi⟩⟩
      · exact ⟨.inl hi, hx⟩
      · exact ⟨.inr hi, hx⟩
    · rintro ⟨hi, hx⟩
      exact ⟨r, hx, by simpa using hi⟩
  have hgroups : (r, i) ∈ (upTo (cfgGroups c h)).flatMap
      (fun g => [(Role.cleatReleaseValve, g), (.cleatEngageValve, g)]) ↔
      1 ≤ i ∧ i ≤ itemNat c 3 h ∧ (r = .cleatReleaseValve ∨ r = .cleatEngageValve) := by
    simp only [List.mem_flatMap, List.mem_cons, List.not_mem_nil, or_false, Prod.mk.injEq, mem_upTo]
    constructor
    · rintro ⟨g, ⟨h1, h2⟩, ⟨rfl, rfl⟩ | ⟨rfl, rfl⟩⟩
      · exact ⟨h1, h2, .inl rfl⟩
      · exact ⟨h1, h2, .inr rfl⟩
    · rintro ⟨h1, h2, hrole⟩
      exact ⟨i, ⟨h1, h2⟩, by simpa using hrole⟩
  have hcleats : (r, i) ∈ (upTo (cleatCount c h)).map (fun n => (Role.cleatEngaged, n)) ↔
      r = .cleatEngaged ∧ ∃ k g, CleatAt c k h g i := by
    rw [cleatAt_iff_le_count hc hr hcl h1 hle, List.mem_map]
    simp only [mem_upTo, Prod.mk.injEq]
    exact ⟨by rintro ⟨n, hn, rfl, rfl⟩; exact ⟨rfl, hn⟩, fun ⟨hrole, hi⟩ => ⟨i, hi, hrole.symm, rfl⟩⟩
  unfold requiredOf Required
  simp only [List.mem_append, hpair, hgroups, hcleats]
  by_cases h0 : itemNat c 2 h = 0
  · have hroll := ((cover_eq_roll hcover).mpr h0).symm
    have hwhole : (r, i) ∈ [(Role.hatchPressure, 0), (.liftValve, 0), (.lowerValve, 0)] ↔
        i = 0 ∧ (r = .hatchPressure ∨ r = .liftValve ∨ r = .lowerValve) := by
      simp only [List.mem_cons, List.not_mem_nil, or_false, Prod.mk.injEq]
      tauto
    simp only [hroll, h0, hwhole, true_and, zero_ne_one, false_and, false_or, or_assoc]
  · have h1' : itemNat c 2 h = 1 := by omega
    have hfold := ((cover_eq_fold c h).mpr h1').symm
    have hwhole : (r, i) ∈ [(Role.hatchPressure, 0)] ↔ i = 0 ∧ r = .hatchPressure := by
      rw [List.mem_singleton, Prod.mk.injEq, and_comm]
    simp only [hfold, h1', hwhole, true_and, one_ne_zero, false_and, false_or, or_false, or_assoc]

theorem rolesOk_iff {c : Items} (hc : itemsWf c = true)
    (hr : ∀ e ∈ c, ItemRange (e.1 / 256) (e.1 % 256) e.2.toNat) (hcl : cleatsOk c = true) :
    rolesOk c = true ↔
      (∀ h r i, 1 ≤ h → h ≤ itemNat c 1 0 → Required c h r i → ∃ code a, BoundAt c code a r h i) ∧
      ∀ n, 1 ≤ n → n ≤ itemNat c 9 0 → ∀ r ∈ [Role.pumpRun, .pumpRunning],
        ∃ code a i, BoundAt c code a r n i := by
  have hat : ∀ r h i, ((allBindings c).any fun b =>
      b.2.role == r && b.2.subject == h && b.2.index == i) = true ↔
        ∃ code a, BoundAt c code a r h i := by
    intro r h i
    rw [any_binding_iff hc hr fun r' h' i' => r' == r && h' == h && i' == i]
    simp only [Bool.and_eq_true, beq_iff_eq]
    constructor
    · rintro ⟨code, a, r, h, i, hat, ⟨rfl, rfl⟩, rfl⟩
      exact ⟨code, a, hat⟩
    · rintro ⟨code, a, hat⟩
      exact ⟨code, a, r, h, i, hat, ⟨rfl, rfl⟩, rfl⟩
  have hpump : ∀ r n, ((allBindings c).any fun b => b.2.role == r && b.2.subject == n) = true ↔
      ∃ code a i, BoundAt c code a r n i := by
    intro r n
    rw [any_binding_iff hc hr fun r' n' _ => r' == r && n' == n]
    simp only [Bool.and_eq_true, beq_iff_eq]
    constructor
    · rintro ⟨code, a, r, n, i, hat, rfl, rfl⟩
      exact ⟨code, a, i, hat⟩
    · rintro ⟨code, a, i, hat⟩
      exact ⟨code, a, r, n, i, hat, rfl, rfl⟩
  simp only [rolesOk, Bool.and_eq_true, List.all_eq_true, mem_upTo, hat, hpump, Prod.forall]
  simp only [cfgHatches, cfgPumps, List.forall_mem_cons, List.not_mem_nil, false_imp_iff,
    implies_true, and_true]
  refine and_congr ⟨fun hall h r i h1 hle hreq => ?_, fun hall h hh r i hreq => ?_⟩
    ⟨fun hall n h1 hle => hall n ⟨h1, hle⟩, fun hall n hn => hall n hn.1 hn.2⟩
  · exact hall h ⟨h1, hle⟩ r i ((mem_requiredOf_iff hc hr hcl h1 hle r i).mpr hreq)
  · exact hall h r i hh.1 hh.2 ((mem_requiredOf_iff hc hr hcl hh.1 hh.2 r i).mp hreq)

/-! ### The four checks -/

theorem validConfig_iff {c : Items} (hc : itemsWf c = true) :
    validConfig c = true ↔ ValidItems c := by
  simp only [validConfig, Bool.and_eq_true]
  constructor
  · rintro ⟨⟨⟨hlim, hcl⟩, hbind⟩, hroles⟩
    obtain ⟨hr, hlimits⟩ := (limitsOk_iff c).mp hlim
    obtain ⟨hcleats, hnumbers⟩ := (cleatsOk_iff hc hr).mp hcl
    obtain ⟨hrequired, hpumps⟩ := (rolesOk_iff hc hr hcl).mp hroles
    exact ⟨hr, hlimits, hcleats, hnumbers, (bindingsOk_iff hc hr hcl).mp hbind, hrequired, hpumps⟩
  · rintro ⟨hr, hlimits, hcleats, hnumbers, hbind, hrequired, hpumps⟩
    have hcl := (cleatsOk_iff hc hr).mpr ⟨hcleats, hnumbers⟩
    exact ⟨⟨⟨(limitsOk_iff c).mpr ⟨hr, hlimits⟩, hcl⟩, (bindingsOk_iff hc hr hcl).mpr hbind⟩,
      (rolesOk_iff hc hr hcl).mpr ⟨hrequired, hpumps⟩⟩

end Sys2Proof.Machine

/-! WRITE and STORE from a line, and the end of a STORE's write (R173, R174). -/

namespace Sys2Proof.Machine

/-! ### The gate -/

theorem storeGate_taken (s : State) (dt l : Nat) : (s.taken dt l).storeGate l =
    if s.classOf l ≠ .console then some .class
    else if s.mode = .loading then some .notReady
    else if s.mode = .sea ∨ s.mode = .harbour then some .mode
    else if s.storing.isSome then some .busy
    else none := by
  rw [State.storeGate, classOf_taken]
  rfl

theorem storeGate_open {s : State} {l : Nat} (hcls : s.classOf l = .console)
    (hmode : s.mode = .unconfigured ∨ s.mode = .commission) (hst : s.storing = none) (dt : Nat) :
    (s.taken dt l).storeGate l = none := by
  rw [storeGate_taken, hcls, hst]
  rcases hmode with hm | hm <;> rw [hm] <;> rfl

/-- No refusal of the gate is BAD_ARG, whose answer alone leaves the arguments out. -/
theorem storeGate_ne_badArg {s : State} {l : Nat} {r : Result} (h : s.storeGate l = some r) :
    r ≠ .badArg := by
  rintro rfl
  unfold State.storeGate at h
  split_ifs at h <;> cases h

/-! ### The owners -/

section
variable {s : State} {l : Nat} (item idx hi lo : Byte)

theorem requestWrite_of_refused {r : Result} (h : s.storeGate l = some r) :
    requestWrite [item, idx, hi, lo] s l = (s, some r, [item, idx]) := by
  simp only [requestWrite, writeArgs, State.writeItem, h, if_neg (storeGate_ne_badArg h), byte_toNat]

theorem requestStore_of_refused {r : Result} (h : s.storeGate l = some r) :
    requestStore [] s l = (s, some r, []) := by
  simp only [requestStore, noArgs, State.storeImage, h]

variable (h : s.storeGate l = none)
include h

theorem requestWrite_of_ok (hidx : indexOk item.toNat idx.toNat = true)
    (hval : valueOk item.toNat (hi ++ lo) = true) : requestWrite [item, idx, hi, lo] s l =
      ({ s with working := setItem s.working item.toNat idx.toNat (hi ++ lo) }, some .done,
        [item, idx]) := by
  have hword : word hi lo = hi ++ lo := rfl
  simp only [requestWrite, writeArgs, State.writeItem, h, hword, hidx, hval, Bool.and_self, if_true,
    byte_toNat]
  rfl

theorem requestWrite_of_bad
    (hbad : indexOk item.toNat idx.toNat = false ∨ valueOk item.toNat (hi ++ lo) = false) :
    requestWrite [item, idx, hi, lo] s l = (s, some .badArg, []) := by
  have hword : word hi lo = hi ++ lo := rfl
  have hand : (indexOk item.toNat idx.toNat && valueOk item.toNat (hi ++ lo)) = false := by
    rwa [Bool.and_eq_false_iff]
  simp only [requestWrite, writeArgs, State.writeItem, h, hword, hand, Bool.false_eq_true, if_false,
    if_true]

theorem requestStore_of_valid (hv : validConfig s.working = true) :
    requestStore [] s l = ({ s with storing := some s.working, image := .bad }, none, []) := by
  simp only [requestStore, noArgs, State.storeImage, h, if_pos hv]

theorem requestStore_of_invalid (hv : validConfig s.working = false) :
    requestStore [] s l = (s, some .invalid, []) := by
  simp only [requestStore, noArgs, State.storeImage, h, hv, Bool.false_eq_true, if_false]

end

/-! ### The transmitters of the six lines -/

/-- A REPORT's payload is not about the lines. -/
theorem reportPayload_of_onlyLines {s t : State} (h : OnlyLines s t) :
    t.reportPayload = s.reportPayload := by
  rw [show t = _ from h]
  rfl

theorem onlyLines_transmits (ls : List Nat) (s : State) :
    OnlyLines s (ls.foldl State.transmit s) := by
  induction ls generalizing s with
  | nil => exact OnlyLines.refl s
  | cons k ls ih => exact (onlyLines_transmit s k).trans (ih _)

theorem line?_transmits_of_notMem {ls : List Nat} {l : Nat} (hl : l ∉ ls) (s : State) :
    (ls.foldl State.transmit s).line? l = s.line? l := by
  induction ls generalizing s with
  | nil => rfl
  | cons k ls ih =>
    simp only [List.mem_cons, not_or] at hl
    exact (ih hl.2 _).trans ((transmit_others s k).same l hl.1)

/-- Each of the lines in turn chooses its next frame once, against the same REPORT but for its SEQ. -/
theorem line?_transmits_of_mem {ls : List Nat} (hnd : ls.Nodup) {l : Nat} (hl : l ∈ ls) (s : State) :
    ∃ q, (ls.foldl State.transmit s).line? l =
      (s.line? l).map (Line.nextFrame ⟨kindReport, q, s.reportPayload⟩) := by
  induction ls generalizing s with
  | nil => exact nomatch hl
  | cons k ls ih =>
    obtain ⟨hk, hnd⟩ := List.nodup_cons.mp hnd
    by_cases hlk : l = k
    · subst hlk
      exact ⟨_, (line?_transmits_of_notMem hk _).trans (line?_transmit_same s l)⟩
    · obtain ⟨q, hq⟩ := ih hnd ((List.mem_cons.mp hl).resolve_left hlk) (s.transmit k)
      rw [(transmit_others s k).same l hlk,
        reportPayload_of_onlyLines (onlyLines_transmit s k)] at hq
      exact ⟨q, hq⟩

/-- No answer of a line is held. -/
def State.AllAnswered (s : State) : Prop := ∀ ln ∈ s.lines, ∀ a ∈ ln.queue, a.result ≠ none

theorem mem_queue_of_nextFrame {r : Frame} {ln : Line} {a : Answer}
    (h : a ∈ (ln.nextFrame r).queue) : a ∈ ln.queue := by
  unfold Line.nextFrame at h
  split_ifs at h
  · exact h
  · exact h
  · split at h
    · exact h
    · next hq =>
      split at h
      · exact h
      · rw [hq]
        exact List.mem_cons_of_mem _ h
  · exact h

theorem allAnswered_transmit {s : State} (h : s.AllAnswered) (l : Nat) :
    (s.transmit l).AllAnswered := by
  intro ln hln a ha
  obtain ⟨x, hx, rfl⟩ := List.mem_map.mp hln
  refine h x hx a ?_
  split at ha
  · exact mem_queue_of_nextFrame ha
  · exact ha

theorem allAnswered_transmits (ls : List Nat) {s : State} (h : s.AllAnswered) :
    (ls.foldl State.transmit s).AllAnswered := by
  induction ls generalizing s with
  | nil => exact h
  | cons k ls ih => exact ih (allAnswered_transmit h k)

/-! ### The end of the write -/

/-- The image written and the held answers filled in, before a transmitter chooses. -/
def State.stored (s : State) (c : Items) : State :=
  { s with storing := none, image := .whole c, lines := s.lines.map Line.fillHeld }

theorem storeComplete_eq {s : State} {c : Items} (h : s.storing = some c) :
    s.storeComplete = (upTo 6).foldl State.transmit (s.stored c) := by
  simp only [State.storeComplete, h]
  rfl

theorem allAnswered_stored (s : State) (c : Items) : (s.stored c).AllAnswered := by
  intro ln hln a ha
  obtain ⟨x, -, rfl⟩ := List.mem_map.mp hln
  obtain ⟨b, -, rfl⟩ := List.mem_map.mp ha
  exact Option.some_ne_none _

theorem line?_stored (s : State) (c : Items) (l : Nat) :
    (s.stored c).line? l = (s.line? l).map Line.fillHeld := by
  rw [State.line?, State.line?, State.stored, findKey, findKey, List.find?_map]
  rfl

/-- What the transmitter of a line without held answers does. -/
theorem nextFrame_of_answered (r : Frame) {ln : Line} (h : ∀ a ∈ ln.queue, a.result ≠ none) :
    ln.nextFrame r = { ln with
      queue := (ln.nextFrame r).queue, tx := (ln.nextFrame r).tx,
      reportIsDue := (ln.nextFrame r).reportIsDue } ∧
    ((ln.nextFrame r).queue, (ln.nextFrame r).tx, (ln.nextFrame r).reportIsDue) =
      if ln.tx.isSome ∨ ¬(ln.link = .active ∨ ln.link = .awaiting) then
        (ln.queue, ln.tx, ln.reportIsDue)
      else if ln.link = .active ∧ ln.reportIsDue = true then (ln.queue, some r, false)
      else
        match ln.queue with
        | [] => ([], none, ln.reportIsDue)
        | a :: rest => (rest, some (a.frame (a.result.getD .done)), ln.reportIsDue) := by
  refine ⟨nextFrame_rest r ln, ?_⟩
  by_cases hbusy : ln.tx.isSome = true
  · rw [nextFrame_of_busy hbusy, if_pos (.inl hbusy)]
  have htx : ln.tx = none := by simpa using hbusy
  by_cases hopen : ln.link = .active ∨ ln.link = .awaiting
  · rw [if_neg (by simp [htx, hopen])]
    by_cases hrep : ln.link = .active ∧ ln.reportIsDue = true
    · rw [if_pos hrep, nextFrame_of_report htx hrep.1 hrep.2]
    · rw [if_neg hrep, Line.nextFrame, if_neg hbusy, if_neg hrep, if_pos hopen]
      cases hq : ln.queue with
      | nil => simp [hq, htx]
      | cons a rest =>
        have ha := h a (by simp [hq])
        cases hres : a.result with
        | none => exact absurd hres ha
        | some x => simp [hres]
  · have hstill : ln.nextFrame r = ln := by
      rw [Line.nextFrame, if_neg hbusy, if_neg (fun h => hopen (.inl h.1)), if_neg hopen]
    rw [hstill, if_pos (.inr hopen)]

end Sys2Proof.Machine

/-! WRITE, STORE and STORE_WRITE_COMPLETE: the configuration store as a whole (R171 to R174). -/

namespace Sys2Proof.Machine

section
variable {s : State} {l : Nat} (hs : Served s l) (dt : Nat) (seq item idx hi lo : Byte)
include hs

/-- Both commands answer with the refusal of their common gate. -/
theorem exec_writeStore_of_refused {r : Result} (h : (s.taken dt l).storeGate l = some r) :
    exec (.write dt l seq [item, idx, hi, lo]) s =
        .next ((s.taken dt l).answer l seq kindWrite (some r) [item, idx]) ∧
      exec (.store dt l seq []) s = .next ((s.taken dt l).answer l seq kindStore (some r) []) :=
  ⟨served_reply hs (by simp) (requestWrite_of_refused item idx hi lo h),
    served_reply hs (by simp) (requestStore_of_refused h)⟩

variable (hgate : (s.taken dt l).storeGate l = none)
include hgate

theorem exec_write_of_ok (hidx : indexOk item.toNat idx.toNat = true)
    (hval : valueOk item.toNat (hi ++ lo) = true) : exec (.write dt l seq [item, idx, hi, lo]) s =
      .next (State.answer { s.taken dt l with
        working := setItem s.working item.toNat idx.toNat (hi ++ lo) } l seq kindWrite (some .done)
        [item, idx]) :=
  served_to hs (by simp) (requestWrite_of_ok item idx hi lo hgate hidx hval)

theorem exec_write_of_bad
    (hbad : indexOk item.toNat idx.toNat = false ∨ valueOk item.toNat (hi ++ lo) = false) :
    exec (.write dt l seq [item, idx, hi, lo]) s =
      .next ((s.taken dt l).answer l seq kindWrite (some .badArg) []) :=
  served_reply hs (by simp) (requestWrite_of_bad item idx hi lo hgate hbad)

theorem exec_store_of_valid (hv : validConfig s.working = true) : exec (.store dt l seq []) s =
    .next (State.answer { s.taken dt l with storing := some s.working, image := .bad } l seq
      kindStore none []) :=
  served_to hs (by simp) (requestStore_of_valid hgate hv)

theorem exec_store_of_invalid (hv : validConfig s.working = false) : exec (.store dt l seq []) s =
    .next ((s.taken dt l).answer l seq kindStore (some .invalid) []) :=
  served_reply hs (by simp) (requestStore_of_invalid hgate hv)

end

theorem exec_storeWriteComplete {s : State} (hp : s.power = .running) {c : Items}
    (hst : s.storing = some c) (dt : Nat) : exec (.storeWriteComplete dt) s =
      .next ((upTo 6).foldl State.transmit ((s.advance dt).stored c)) := by
  have hexec : exec (.storeWriteComplete dt) s = .next (s.live dt State.storeComplete) := rfl
  rw [hexec, live_of_running hp, storeComplete_eq ((advance_storing s dt).trans hst)]

/-- The line of a STORE's end: its held answers filled in, and its transmitter chosen once. -/
theorem line?_storeComplete {s : State} (c : Items) {l : Nat} {ln : Line} (h1 : 1 ≤ l) (h6 : l ≤ 6)
    (hl : s.line? l = some ln) : ∃ q,
      ((upTo 6).foldl State.transmit (s.stored c)).line? l =
        some (ln.fillHeld.nextFrame ⟨kindReport, q, s.reportPayload⟩) := by
  obtain ⟨q, hq⟩ := line?_transmits_of_mem (nodup_upTo 6) (mem_upTo.mpr ⟨h1, h6⟩) (s.stored c)
  rw [line?_stored, hl] at hq
  exact ⟨q, hq⟩

/-- Settles O52, by the gate of both commands, the checks of R172 and the six transmitters. -/
theorem writeAndStore : Obligations.WriteAndStore := by
  unfold Obligations.WriteAndStore
  refine ⟨fun code idx v _ _ => itemOk_iff code idx v, fun c hc => validConfig_iff hc,
    fun s dt l seq item idx hi lo r hs hr => ?_,
    fun s dt l seq item idx hi lo hs hcls hmode hst => ?_, fun s dt c hp hst => ?_⟩
  · exact exec_writeStore_of_refused hs dt seq item idx hi lo ((storeGate_taken s dt l).trans hr)
  · have hgate := storeGate_open hcls hmode hst dt
    refine ⟨fun hidx hval => ⟨_, exec_write_of_ok hs dt seq item idx hi lo hgate hidx hval, rfl,
      fun hwf code k hk => getItem_setItem hwf idx.isLt hk _⟩,
      exec_write_of_bad hs dt seq item idx hi lo hgate, exec_store_of_valid hs dt seq hgate,
      exec_store_of_invalid hs dt seq hgate⟩
  · refine ⟨_, exec_storeWriteComplete hp hst dt, onlyLines_transmits (upTo 6) _,
      allAnswered_transmits (upTo 6) (allAnswered_stored (s.advance dt) c),
      fun l ln filled h1 h6 hl hfilled => ?_⟩
    obtain ⟨q, hq⟩ := line?_storeComplete (s := s.advance dt) c h1 h6 hl
    have hans : ∀ a ∈ ln.fillHeld.queue, a.result ≠ none := by
      intro a ha
      obtain ⟨b, -, rfl⟩ := List.mem_map.mp ha
      exact Option.some_ne_none _
    obtain ⟨hrest, hchoice⟩ :=
      nextFrame_of_answered ⟨kindReport, q, (s.advance dt).reportPayload⟩ hans
    subst hfilled
    exact ⟨_, q, hq, hrest, hchoice⟩

end Sys2Proof.Machine
